-- ==== Sys2Proof/Word.lean ====
section
/-! DEFINITION. The word type of the machine and its plainest arithmetic. -/

namespace Sys2Proof

/-- A 64-bit register value (R7, R48). -/
abbrev Word64 := BitVec 64

/-- An instruction word (R46). -/
abbrev InstrWord := BitVec 32

/-- A byte (R7). -/
abbrev Byte := BitVec 8

end Sys2Proof
end

