-- ==== Sys2Proof/Syntax.lean ====
section
/-! DEFINITION. The abstract syntax: one constructor for every row of the table of operations and events.
A word's operands carry the names of the table's fields; an operand of one bit is a `Bool`.
An event of the machine (a row without a word) carries what names the party it happens at, or what comes from outside. -/

namespace Sys2Proof

/-- A core of the package: the Hilbert index of its cluster (R85) and its number, 0 to 7; number 8 is the cluster's TSC (R3). -/
structure CoreId where
  cluster : Nat
  core : Nat
  deriving DecidableEq, Repr

/-- Who sent a management command (R374): the privileged management endpoint, or another endpoint, by its VF and its index in the VF's endpoint table. -/
inductive MgmtSender where
  | privileged
  | guest (vf endpoint : Nat)
  deriving DecidableEq, Repr

/-- What `ATTEST` asks for (R378): evidence for a nonce, and whether the two certificates are to follow it. -/
structure AttestRequest where
  nonce : List (BitVec 8)
  certs : Bool
  deriving DecidableEq, Repr

/-- The entropy values of a delivery context (R305), and whether it is a ROD context, which delivers in order, or a RUD context. -/
structure Entropy where
  ordered : Bool
  values : List (BitVec 16)
  deriving DecidableEq, Repr

/-- One entry of a route bank (R293): at cluster `at_`, packets for cluster `dst` leave towards cluster `next`. -/
structure RouteRow where
  at_ : Nat
  dst : Nat
  next : Nat
  deriving DecidableEq, Repr

/-- What the power controller measured of one cluster in one window (R356, R357): its current in milliamperes. -/
structure LoadRow where
  cluster : Nat
  current : Nat
  deriving DecidableEq, Repr

/-- One entry of a VF's endpoint table (R295): an Ultra Ethernet fabric address, a job identifier and a delivery context; and whether management marked it
privileged (R327). -/
structure Endpoint where
  address : BitVec 64
  job : Nat
  context : Nat
  privileged : Bool
  deriving DecidableEq, Repr

/-- Why an Ultra Ethernet port discarded a packet (R305). -/
inductive DropReason where
  | unreliable
  | authentication
  deriving DecidableEq, Repr

/-- Every instruction and every event of the machine. -/
inductive Instr where
  /-- `ADD` (R118). Writes the 64-bit wrapped sum of two x registers to rd. -/
  | add (d : BitVec 5) (a : BitVec 5) (b : BitVec 5) (u : Bool) (v : Bool)
  /-- `SUB` (R118). Writes the 64-bit wrapped difference of two x registers to rd. -/
  | sub (d : BitVec 5) (a : BitVec 5) (b : BitVec 5) (u : Bool) (v : Bool)
  /-- `MUL` (R118). Writes the low 64 bits of the signed product of two x registers. -/
  | mul (d : BitVec 5) (a : BitVec 5) (b : BitVec 5) (u : Bool) (v : Bool)
  /-- `MULH` (R118). Writes bits 127:64 of the signed product of two x registers. -/
  | mulh (d : BitVec 5) (a : BitVec 5) (b : BitVec 5) (u : Bool) (v : Bool)
  /-- `MULHN` (R118). Writes bits 127:64 of the natural product of two x registers. -/
  | mulhn (d : BitVec 5) (a : BitVec 5) (b : BitVec 5) (u : Bool) (v : Bool)
  /-- `DIV` (R119). Writes the signed quotient rounded toward zero, with the fixed results for division by zero and overflow. -/
  | div (d : BitVec 5) (a : BitVec 5) (b : BitVec 5) (u : Bool) (v : Bool)
  /-- `DIVN` (R119). Writes the natural quotient, with all ones for division by zero. -/
  | divn (d : BitVec 5) (a : BitVec 5) (b : BitVec 5) (u : Bool) (v : Bool)
  /-- `REM` (R119). Writes the signed remainder with the sign of the dividend, never trapping. -/
  | rem (d : BitVec 5) (a : BitVec 5) (b : BitVec 5) (u : Bool) (v : Bool)
  /-- `REMN` (R119). Writes the natural remainder, the dividend for division by zero. -/
  | remn (d : BitVec 5) (a : BitVec 5) (b : BitVec 5) (u : Bool) (v : Bool)
  /-- `AND` (R118). Writes the bitwise AND of two x registers. -/
  | and (d : BitVec 5) (a : BitVec 5) (b : BitVec 5) (u : Bool) (v : Bool)
  /-- `OR` (R118). Writes the bitwise OR of two x registers. -/
  | or (d : BitVec 5) (a : BitVec 5) (b : BitVec 5) (u : Bool) (v : Bool)
  /-- `XOR` (R118). Writes the bitwise XOR of two x registers. -/
  | xor (d : BitVec 5) (a : BitVec 5) (b : BitVec 5) (u : Bool) (v : Bool)
  /-- `ANDN` (R118). Writes rs1 AND NOT rs2. -/
  | andn (d : BitVec 5) (a : BitVec 5) (b : BitVec 5) (u : Bool) (v : Bool)
  /-- `SHL` (R118). Shifts rs1 left by rs2[5:0] places. -/
  | shl (d : BitVec 5) (a : BitVec 5) (b : BitVec 5) (u : Bool) (v : Bool)
  /-- `SHR` (R118). Shifts rs1 right logically by rs2[5:0] places. -/
  | shr (d : BitVec 5) (a : BitVec 5) (b : BitVec 5) (u : Bool) (v : Bool)
  /-- `SRA` (R118). Shifts rs1 right arithmetically by rs2[5:0] places. -/
  | sra (d : BitVec 5) (a : BitVec 5) (b : BitVec 5) (u : Bool) (v : Bool)
  /-- `ROT` (R118). Rotates rs1 right by rs2[5:0] places. -/
  | rot (d : BitVec 5) (a : BitVec 5) (b : BitVec 5) (u : Bool) (v : Bool)
  /-- `SLT` (R118). Writes 1 if rs1 is less than rs2 as signed integers, else 0. -/
  | slt (d : BitVec 5) (a : BitVec 5) (b : BitVec 5) (u : Bool) (v : Bool)
  /-- `SLTN` (R118). Writes 1 if rs1 is less than rs2 as natural numbers, else 0. -/
  | sltn (d : BitVec 5) (a : BitVec 5) (b : BitVec 5) (u : Bool) (v : Bool)
  /-- `MIN` (R118). Writes the signed lesser of two x registers. -/
  | min (d : BitVec 5) (a : BitVec 5) (b : BitVec 5) (u : Bool) (v : Bool)
  /-- `MAX` (R118). Writes the signed greater of two x registers. -/
  | max (d : BitVec 5) (a : BitVec 5) (b : BitVec 5) (u : Bool) (v : Bool)
  /-- `MINN` (R118). Writes the natural lesser of two x registers. -/
  | minn (d : BitVec 5) (a : BitVec 5) (b : BitVec 5) (u : Bool) (v : Bool)
  /-- `MAXN` (R118). Writes the natural greater of two x registers. -/
  | maxn (d : BitVec 5) (a : BitVec 5) (b : BitVec 5) (u : Bool) (v : Bool)
  /-- `CLZ` (R118). Writes the number of leading zero bits of rs1, 64 for zero. -/
  | clz (d : BitVec 5) (a : BitVec 5) (u : Bool)
  /-- `CTZ` (R118). Writes the number of trailing zero bits of rs1, 64 for zero. -/
  | ctz (d : BitVec 5) (a : BitVec 5) (u : Bool)
  /-- `POPC` (R118). Writes the number of one bits of rs1. -/
  | popc (d : BitVec 5) (a : BitVec 5) (u : Bool)
  /-- `BSWAP` (R118). Writes rs1 with its eight bytes reversed. -/
  | bswap (d : BitVec 5) (a : BitVec 5) (u : Bool)
  /-- `BFX` (R120). Extracts a bit field of rs1 described by the control word in rs2, zero- or sign-extended. -/
  | bfx (d : BitVec 5) (a : BitVec 5) (b : BitVec 5) (u : Bool) (v : Bool)
  /-- `BFI` (R120). Inserts the low bits of rs1 into a field of rd described by the control word in rs2. -/
  | bfi (d : BitVec 5) (a : BitVec 5) (b : BitVec 5) (u : Bool) (v : Bool)
  /-- `ADDI` (R121). Adds a sign-extended 15-bit immediate to rs1. -/
  | addi (d : BitVec 5) (a : BitVec 5) (u : Bool) (imm : BitVec 15)
  /-- `ANDI` (R121). ANDs rs1 with a sign-extended 15-bit immediate. -/
  | andi (d : BitVec 5) (a : BitVec 5) (u : Bool) (imm : BitVec 15)
  /-- `ORI` (R121). ORs rs1 with a sign-extended 15-bit immediate. -/
  | ori (d : BitVec 5) (a : BitVec 5) (u : Bool) (imm : BitVec 15)
  /-- `XORI` (R121). XORs rs1 with a sign-extended 15-bit immediate. -/
  | xori (d : BitVec 5) (a : BitVec 5) (u : Bool) (imm : BitVec 15)
  /-- `SLTI` (R122). Writes 1 if rs1 is signed-less than a sign-extended 14-bit immediate. -/
  | slti (d : BitVec 5) (a : BitVec 5) (u : Bool) (imm : BitVec 14)
  /-- `SLTNI` (R122). Writes 1 if rs1 is natural-less than a sign-extended 14-bit immediate. -/
  | sltni (d : BitVec 5) (a : BitVec 5) (u : Bool) (imm : BitVec 14)
  /-- `SHLI` (R123). Shifts rs1 left by an immediate amount. -/
  | shli (d : BitVec 5) (a : BitVec 5) (u : Bool) (sz : BitVec 6)
  /-- `SHRI` (R123). Shifts rs1 right logically by an immediate amount. -/
  | shri (d : BitVec 5) (a : BitVec 5) (u : Bool) (sz : BitVec 6)
  /-- `SRAI` (R123). Shifts rs1 right arithmetically by an immediate amount. -/
  | srai (d : BitVec 5) (a : BitVec 5) (u : Bool) (sz : BitVec 6)
  /-- `ROTI` (R123). Rotates rs1 right by an immediate amount. -/
  | roti (d : BitVec 5) (a : BitVec 5) (u : Bool) (sz : BitVec 6)
  /-- `LIH` (R124). Writes the sign-extended 21-bit immediate times 32,768 to rd. -/
  | lih (d : BitVec 5) (imm : BitVec 21)
  /-- `LD` (R140). Loads 1 to 8 bytes through a capability, sign- or zero-extended into an x register. -/
  | ld (d : BitVec 5) (c : BitVec 5) (w : Bool) (sz : BitVec 3) (imm : BitVec 12)
  /-- `ST` (R140). Stores 1 to 8 bytes of an x register through a capability into the store buffer. -/
  | st (d : BitVec 5) (c : BitVec 5) (w : Bool) (sz : BitVec 2) (imm : BitVec 12)
  /-- `LDC` (R142). Loads a whole capability with its tag, localised, into a c register. -/
  | ldc (d : BitVec 5) (c : BitVec 5) (w : Bool) (imm : BitVec 12)
  /-- `STC` (R142). Stores a whole capability with its tag, localised, through a capability. -/
  | stc (d : BitVec 5) (c : BitVec 5) (w : Bool) (imm : BitVec 12)
  /-- `LDW` (R143). Loads bytes of a word only once its full/empty bit is full, marking rd empty until then. -/
  | ldw (d : BitVec 5) (c : BitVec 5) (w : Bool) (sz : BitVec 3) (imm : BitVec 12)
  /-- `STF` (R143). Stores a 64-bit word and sets it full in one write. -/
  | stf (d : BitVec 5) (c : BitVec 5) (w : Bool) (imm : BitVec 12)
  /-- `CLRF` (R143). Sets a 64-bit word empty, leaving its data. -/
  | clrf (c : BitVec 5) (w : Bool) (imm : BitVec 12)
  /-- `LDB` (R144). Loads a 1-32 bit field at a bit offset, zero-extended. -/
  | ldb (d : BitVec 5) (c : BitVec 5) (w : Bool) (b : BitVec 5) (l : BitVec 5)
  /-- `LDBX` (R144). Loads a 1-32 bit field at a bit offset, sign-extended. -/
  | ldbx (d : BitVec 5) (c : BitVec 5) (w : Bool) (b : BitVec 5) (l : BitVec 5)
  /-- `STB` (R144). Stores a 1-32 bit field at a bit offset by atomic read-modify-write of each word touched. -/
  | stb (d : BitVec 5) (c : BitVec 5) (w : Bool) (b : BitVec 5) (l : BitVec 5)
  /-- `FLD` (R140). Loads a 16, 32 or 64 bit float into an f register, boxed under ones. -/
  | fld (d : BitVec 5) (c : BitVec 5) (w : Bool) (sz : BitVec 2) (imm : BitVec 12)
  /-- `FST` (R140). Stores the low 16, 32 or 64 bits of an f register. -/
  | fst (d : BitVec 5) (c : BitVec 5) (w : Bool) (sz : BitVec 2) (imm : BitVec 12)
  /-- `AADD` (R272). Atomically adds rs2 to a 64-bit word and returns the old value. -/
  | aadd (d : BitVec 5) (c : BitVec 5) (b : BitVec 5) (u : Bool) (v : Bool) (o : BitVec 2) (sz : BitVec 3)
  /-- `AAND` (R272). Atomically ANDs rs2 into a word and returns the old value. -/
  | aand (d : BitVec 5) (c : BitVec 5) (b : BitVec 5) (u : Bool) (v : Bool) (o : BitVec 2) (sz : BitVec 3)
  /-- `AOR` (R272). Atomically ORs rs2 into a word and returns the old value. -/
  | aor (d : BitVec 5) (c : BitVec 5) (b : BitVec 5) (u : Bool) (v : Bool) (o : BitVec 2) (sz : BitVec 3)
  /-- `AXOR` (R272). Atomically XORs rs2 into a word and returns the old value. -/
  | axor (d : BitVec 5) (c : BitVec 5) (b : BitVec 5) (u : Bool) (v : Bool) (o : BitVec 2) (sz : BitVec 3)
  /-- `AMIN` (R272). Atomically keeps the signed lesser of word and rs2 and returns the old value. -/
  | amin (d : BitVec 5) (c : BitVec 5) (b : BitVec 5) (u : Bool) (v : Bool) (o : BitVec 2) (sz : BitVec 3)
  /-- `AMAX` (R272). Atomically keeps the signed greater of word and rs2 and returns the old value. -/
  | amax (d : BitVec 5) (c : BitVec 5) (b : BitVec 5) (u : Bool) (v : Bool) (o : BitVec 2) (sz : BitVec 3)
  /-- `AMINN` (R272). Atomically keeps the natural lesser of word and rs2 and returns the old value. -/
  | aminn (d : BitVec 5) (c : BitVec 5) (b : BitVec 5) (u : Bool) (v : Bool) (o : BitVec 2) (sz : BitVec 3)
  /-- `AMAXN` (R272). Atomically keeps the natural greater of word and rs2 and returns the old value. -/
  | amaxn (d : BitVec 5) (c : BitVec 5) (b : BitVec 5) (u : Bool) (v : Bool) (o : BitVec 2) (sz : BitVec 3)
  /-- `ASWAP` (R272). Atomically replaces a word with rs2 and returns the old value. -/
  | aswap (d : BitVec 5) (c : BitVec 5) (b : BitVec 5) (u : Bool) (v : Bool) (o : BitVec 2) (sz : BitVec 3)
  /-- `AADDZ` (R275). Atomically adds rs2 to a counter and, when the result is zero, emits a notification to the address in the paired notify word. -/
  | aaddz (d : BitVec 5) (c : BitVec 5) (b : BitVec 5) (u : Bool) (v : Bool) (o : BitVec 2) (sz : BitVec 3)
  /-- `AFADD` (R273). Atomically adds an f32 or f64 value to a word with RNE and returns the old value. -/
  | afadd (d : BitVec 5) (c : BitVec 5) (b : BitVec 5) (u : Bool) (v : Bool) (t : Bool) (o : BitVec 2) (sz : BitVec 3)
  /-- `AFMIN` (R273). Atomically keeps the fmin of word and operand. -/
  | afmin (d : BitVec 5) (c : BitVec 5) (b : BitVec 5) (u : Bool) (v : Bool) (t : Bool) (o : BitVec 2) (sz : BitVec 3)
  /-- `AFMAX` (R273). Atomically keeps the fmax of word and operand. -/
  | afmax (d : BitVec 5) (c : BitVec 5) (b : BitVec 5) (u : Bool) (v : Bool) (t : Bool) (o : BitVec 2) (sz : BitVec 3)
  /-- `AFMINN` (R273). Atomically keeps the fminn of word and operand. -/
  | afminn (d : BitVec 5) (c : BitVec 5) (b : BitVec 5) (u : Bool) (v : Bool) (t : Bool) (o : BitVec 2) (sz : BitVec 3)
  /-- `AFMAXN` (R273). Atomically keeps the fmaxn of word and operand. -/
  | afmaxn (d : BitVec 5) (c : BitVec 5) (b : BitVec 5) (u : Bool) (v : Bool) (t : Bool) (o : BitVec 2) (sz : BitVec 3)
  /-- `CAS` (R274). Atomically writes rs2 if the word equals the expected value in rd, otherwise writes it back, and returns the old value in rd. -/
  | cas (d : BitVec 5) (c : BitVec 5) (b : BitVec 5) (u : Bool) (v : Bool) (o : BitVec 2) (sz : BitVec 3)
  /-- `BEQ` (R125). Branches by a word offset if two x registers are equal. -/
  | beq (a : BitVec 5) (b : BitVec 5) (u : Bool) (v : Bool) (o : BitVec 11)
  /-- `BNE` (R125). Branches if two x registers differ. -/
  | bne (a : BitVec 5) (b : BitVec 5) (u : Bool) (v : Bool) (o : BitVec 11)
  /-- `BLT` (R125). Branches if rs1 is signed-less than rs2. -/
  | blt (a : BitVec 5) (b : BitVec 5) (u : Bool) (v : Bool) (o : BitVec 11)
  /-- `BGE` (R125). Branches if rs1 is signed greater than or equal to rs2. -/
  | bge (a : BitVec 5) (b : BitVec 5) (u : Bool) (v : Bool) (o : BitVec 11)
  /-- `BLTN` (R125). Branches if rs1 is natural-less than rs2. -/
  | bltn (a : BitVec 5) (b : BitVec 5) (u : Bool) (v : Bool) (o : BitVec 11)
  /-- `BGEN` (R125). Branches if rs1 is natural greater than or equal to rs2. -/
  | bgen (a : BitVec 5) (b : BitVec 5) (u : Bool) (v : Bool) (o : BitVec 11)
  /-- `JAL` (R126). Writes the return offset to rd and jumps by a 21-bit word offset. -/
  | jal (d : BitVec 5) (imm : BitVec 21)
  /-- `JALR` (R127). Jumps to rs1 plus a word offset, writing the return offset, trapping ALIGN on a misaligned target. -/
  | jalr (d : BitVec 5) (a : BitVec 5) (u : Bool) (imm : BitVec 15)
  /-- `DELAY` (R128). Stops issue until the timebase has advanced by the tick count in rs1. -/
  | delay (a : BitVec 5) (u : Bool)
  /-- `FENCE` (R277). Holds issue until earlier loads return and/or earlier stores drain or are applied at their homes, per order and scope. -/
  | fence (o : BitVec 2) (sz : BitVec 3)
  /-- `WAITA` (R278). Arms the monitor on a 64-byte block, reads a word and stops issue while it equals rs2 until a wake event. -/
  | waita (d : BitVec 5) (c : BitVec 5) (b : BitVec 5) (u : Bool) (v : Bool)
  /-- `BMIN` (R282). Arrives at the barrier tree carrying a value and receives the least value of the instance. -/
  | bmin (d : BitVec 5) (a : BitVec 5) (u : Bool)
  /-- `PBIND_RECV` (R265). Binds a port register x24-x27 to input port k. -/
  | pbindRecv (d : BitVec 5) (k : BitVec 3)
  /-- `PBIND_STREAM` (R155). Binds a port register to a stream job of this firing. -/
  | pbindStream (d : BitVec 5) (a : BitVec 5) (u : Bool)
  /-- `PBIND_SEND` (R265). Binds a port register to send port k so that writes build a message. -/
  | pbindSend (d : BitVec 5) (k : BitVec 3)
  /-- `PUNBIND` (R266). Unbinds a port register, discarding any partial send message. -/
  | punbind (d : BitVec 5)
  /-- `MSEND` (R258). Checks and appends a one- or two-word message of send port k to the core's send queue. -/
  | msend (a : BitVec 5) (b : BitVec 5) (u : Bool) (v : Bool) (k : BitVec 3)
  /-- `MCOUNT` (R267). Writes the unclaimed and claimed message counts of input port k. -/
  | mcount (d : BitVec 5) (k : BitVec 3)
  /-- `MSTAT` (R261). Marks rd empty and fills it with the send port's status once every injection so far is answered. -/
  | mstat (d : BitVec 5) (k : BitVec 3)
  /-- `MBIND` (R257). Writes send port k's destination word with refusal-port fields. -/
  | mbind (a : BitVec 5) (u : Bool) (k : BitVec 3)
  /-- `TOUR` (R157). Checks and queues a tour of a tile along an itinerary, writing the job value or busy. -/
  | tour (d : BitVec 5) (a : BitVec 5) (c : BitVec 5) (u : Bool) (v : Bool)
  /-- `CAST` (R162). Revokes a held tile's slot for this actor and has the Halyard send it onward. -/
  | cast (a : BitVec 5) (u : Bool)
  /-- `TSTAT` (R168). Writes the visit mask of a held tile. -/
  | tstat (d : BitVec 5) (a : BitVec 5) (u : Bool)
  /-- `TSLOT` (R161). Writes a read-only space-3 capability for a held tile. -/
  | tslot (d : BitVec 5) (a : BitVec 5) (u : Bool)
  /-- `CMOV` (R146). Copies a capability register. -/
  | cmov (d : BitVec 5) (c : BitVec 5) (u : Bool)
  /-- `CBND` (R146). Narrows a capability to a rounded length at its cursor, trapping CAPBOUNDS beyond the parent. -/
  | cbnd (d : BitVec 5) (c : BitVec 5) (b : BitVec 5) (u : Bool) (v : Bool)
  /-- `CADD` (R146). Adds rs2 to a capability's cursor. -/
  | cadd (d : BitVec 5) (c : BitVec 5) (b : BitVec 5) (u : Bool) (v : Bool)
  /-- `CSET` (R146). Sets a capability's cursor to base plus rs2. -/
  | cset (d : BitVec 5) (c : BitVec 5) (b : BitVec 5) (u : Bool) (v : Bool)
  /-- `CPERM` (R146). ANDs a capability's permissions with rs2[3:0]. -/
  | cperm (d : BitVec 5) (c : BitVec 5) (b : BitVec 5) (u : Bool) (v : Bool)
  /-- `CBASE` (R145). Writes a capability's base to an x register. -/
  | cbase (d : BitVec 5) (c : BitVec 5) (u : Bool)
  /-- `CLEN` (R145). Writes a capability's length to an x register. -/
  | clen (d : BitVec 5) (c : BitVec 5) (u : Bool)
  /-- `CCUR` (R145). Writes a capability's cursor to an x register. -/
  | ccur (d : BitVec 5) (c : BitVec 5) (u : Bool)
  /-- `CPRM` (R145). Writes a capability's permissions and space to an x register. -/
  | cprm (d : BitVec 5) (c : BitVec 5) (u : Bool)
  /-- `CTAG` (R145). Writes a capability's tag to an x register. -/
  | ctag (d : BitVec 5) (c : BitVec 5) (u : Bool)
  /-- `CCLR` (R146). Copies a capability with its tag cleared. -/
  | cclr (d : BitVec 5) (c : BitVec 5) (u : Bool)
  /-- `RDS` (R318). Reads a system register by index into an x register. -/
  | rds (d : BitVec 5) (n : BitVec 12)
  /-- `WRS` (R318). Writes an x register into the writable fields of a system register. -/
  | wrs (a : BitVec 5) (u : Bool) (n : BitVec 12)
  /-- `TRAP` (R318). Traps SOFT with the 12-bit code as detail. -/
  | trap (c : BitVec 12)
  /-- `TIME` (R318). Waits for every earlier instruction to complete, then writes TIMEBASE. -/
  | time (d : BitVec 5)
  /-- `TLBW` (R330). TSC writes a TLB entry into the selected cores' TLBs. -/
  | tlbw (d : BitVec 5) (a : BitVec 5) (u : Bool)
  /-- `TLBINV` (R331). TSC removes matching TLB entries and completes once accesses using them are applied. -/
  | tlbinv (a : BitVec 5) (u : Bool)
  /-- `FADD` (R203). Adds two f values with one rounding. -/
  | fadd (d : BitVec 5) (a : BitVec 5) (b : BitVec 5) (u : Bool) (v : Bool) (t : BitVec 2)
  /-- `FSUB` (R203). Subtracts two f values with one rounding. -/
  | fsub (d : BitVec 5) (a : BitVec 5) (b : BitVec 5) (u : Bool) (v : Bool) (t : BitVec 2)
  /-- `FMUL` (R203). Multiplies two f values with one rounding. -/
  | fmul (d : BitVec 5) (a : BitVec 5) (b : BitVec 5) (u : Bool) (v : Bool) (t : BitVec 2)
  /-- `FDIV` (R203). Divides two f values with one rounding. -/
  | fdiv (d : BitVec 5) (a : BitVec 5) (b : BitVec 5) (u : Bool) (v : Bool) (t : BitVec 2)
  /-- `FSQRT` (R203). Takes the square root of an f value with one rounding. -/
  | fsqrt (d : BitVec 5) (a : BitVec 5) (u : Bool) (t : BitVec 2)
  /-- `FMIN` (R204). Writes the lesser of two f values, NaN if either is NaN. -/
  | fmin (d : BitVec 5) (a : BitVec 5) (b : BitVec 5) (u : Bool) (v : Bool) (t : BitVec 2)
  /-- `FMAX` (R204). Writes the greater of two f values, NaN if either is NaN. -/
  | fmax (d : BitVec 5) (a : BitVec 5) (b : BitVec 5) (u : Bool) (v : Bool) (t : BitVec 2)
  /-- `FMINN` (R204). Writes the lesser of two f values, ignoring a quiet NaN. -/
  | fminn (d : BitVec 5) (a : BitVec 5) (b : BitVec 5) (u : Bool) (v : Bool) (t : BitVec 2)
  /-- `FMAXN` (R204). Writes the greater of two f values, ignoring a quiet NaN. -/
  | fmaxn (d : BitVec 5) (a : BitVec 5) (b : BitVec 5) (u : Bool) (v : Bool) (t : BitVec 2)
  /-- `FABS` (R203). Clears the sign bit of an f value. -/
  | fabs (d : BitVec 5) (a : BitVec 5) (u : Bool) (t : BitVec 2)
  /-- `FNEG` (R203). Inverts the sign bit of an f value. -/
  | fneg (d : BitVec 5) (a : BitVec 5) (u : Bool) (t : BitVec 2)
  /-- `FEQ` (R205). Writes 1 to an x register if two f values are equal. -/
  | feq (d : BitVec 5) (a : BitVec 5) (b : BitVec 5) (u : Bool) (v : Bool) (t : BitVec 2)
  /-- `FLT` (R205). Writes 1 to an x register if fs1 is less than fs2. -/
  | flt (d : BitVec 5) (a : BitVec 5) (b : BitVec 5) (u : Bool) (v : Bool) (t : BitVec 2)
  /-- `FLE` (R205). Writes 1 to an x register if fs1 is less than or equal to fs2. -/
  | fle (d : BitVec 5) (a : BitVec 5) (b : BitVec 5) (u : Bool) (v : Bool) (t : BitVec 2)
  /-- `FCLASS` (R205). Writes the one-hot class of an f value. -/
  | fclass (d : BitVec 5) (a : BitVec 5) (u : Bool) (t : BitVec 2)
  /-- `FMVX` (R206). Copies all 64 bits of an f register to an x register. -/
  | fmvx (d : BitVec 5) (a : BitVec 5) (u : Bool)
  /-- `FMVF` (R206). Copies all 64 bits of an x register to an f register. -/
  | fmvf (d : BitVec 5) (a : BitVec 5) (u : Bool)
  /-- `FMADD` (R207). Computes fs1 times fs2 plus fs3 with one rounding. -/
  | fmadd (d : BitVec 5) (a : BitVec 5) (b : BitVec 5) (c : BitVec 5) (t : BitVec 2)
  /-- `FMSUB` (R207). Computes fs1 times fs2 minus fs3 with one rounding. -/
  | fmsub (d : BitVec 5) (a : BitVec 5) (b : BitVec 5) (c : BitVec 5) (t : BitVec 2)
  /-- `FNMSUB` (R207). Computes minus fs1 times fs2 plus fs3 with one rounding. -/
  | fnmsub (d : BitVec 5) (a : BitVec 5) (b : BitVec 5) (c : BitVec 5) (t : BitVec 2)
  /-- `FNMADD` (R207). Computes minus fs1 times fs2 minus fs3 with one rounding. -/
  | fnmadd (d : BitVec 5) (a : BitVec 5) (b : BitVec 5) (c : BitVec 5) (t : BitVec 2)
  /-- `VADD` (R208). Adds 32-bit elements of active positions. -/
  | vadd (d : BitVec 5) (a : BitVec 5) (b : BitVec 5) (m : BitVec 3) (sz : Bool)
  /-- `VSUB` (R208). Subtracts 32-bit elements. -/
  | vsub (d : BitVec 5) (a : BitVec 5) (b : BitVec 5) (m : BitVec 3) (sz : Bool)
  /-- `VMUL` (R208). Multiplies 32-bit elements, low half. -/
  | vmul (d : BitVec 5) (a : BitVec 5) (b : BitVec 5) (m : BitVec 3) (sz : Bool)
  /-- `VMULH` (R208). Multiplies signed 32-bit elements, high half. -/
  | vmulh (d : BitVec 5) (a : BitVec 5) (b : BitVec 5) (m : BitVec 3) (sz : Bool)
  /-- `VMULHN` (R208). Multiplies natural 32-bit elements, high half. -/
  | vmulhn (d : BitVec 5) (a : BitVec 5) (b : BitVec 5) (m : BitVec 3) (sz : Bool)
  /-- `VAND` (R208). ANDs 32-bit elements. -/
  | vand (d : BitVec 5) (a : BitVec 5) (b : BitVec 5) (m : BitVec 3) (sz : Bool)
  /-- `VOR` (R208). ORs 32-bit elements. -/
  | vor (d : BitVec 5) (a : BitVec 5) (b : BitVec 5) (m : BitVec 3) (sz : Bool)
  /-- `VXOR` (R208). XORs 32-bit elements. -/
  | vxor (d : BitVec 5) (a : BitVec 5) (b : BitVec 5) (m : BitVec 3) (sz : Bool)
  /-- `VANDN` (R208). ANDs elements with the complement of the second operand. -/
  | vandn (d : BitVec 5) (a : BitVec 5) (b : BitVec 5) (m : BitVec 3) (sz : Bool)
  /-- `VSHL` (R208). Shifts elements left. -/
  | vshl (d : BitVec 5) (a : BitVec 5) (b : BitVec 5) (m : BitVec 3) (sz : Bool)
  /-- `VSHR` (R208). Shifts elements right logically. -/
  | vshr (d : BitVec 5) (a : BitVec 5) (b : BitVec 5) (m : BitVec 3) (sz : Bool)
  /-- `VSRA` (R208). Shifts elements right arithmetically. -/
  | vsra (d : BitVec 5) (a : BitVec 5) (b : BitVec 5) (m : BitVec 3) (sz : Bool)
  /-- `VMIN` (R208). Keeps the signed lesser element. -/
  | vmin (d : BitVec 5) (a : BitVec 5) (b : BitVec 5) (m : BitVec 3) (sz : Bool)
  /-- `VMAX` (R208). Keeps the signed greater element. -/
  | vmax (d : BitVec 5) (a : BitVec 5) (b : BitVec 5) (m : BitVec 3) (sz : Bool)
  /-- `VMINN` (R208). Keeps the natural lesser element. -/
  | vminn (d : BitVec 5) (a : BitVec 5) (b : BitVec 5) (m : BitVec 3) (sz : Bool)
  /-- `VMAXN` (R208). Keeps the natural greater element. -/
  | vmaxn (d : BitVec 5) (a : BitVec 5) (b : BitVec 5) (m : BitVec 3) (sz : Bool)
  /-- `VADDS` (R208). Adds signed elements with saturation. -/
  | vadds (d : BitVec 5) (a : BitVec 5) (b : BitVec 5) (m : BitVec 3) (sz : Bool)
  /-- `VADDSN` (R208). Adds natural elements with saturation. -/
  | vaddsn (d : BitVec 5) (a : BitVec 5) (b : BitVec 5) (m : BitVec 3) (sz : Bool)
  /-- `VSUBS` (R208). Subtracts signed elements with saturation. -/
  | vsubs (d : BitVec 5) (a : BitVec 5) (b : BitVec 5) (m : BitVec 3) (sz : Bool)
  /-- `VSUBSN` (R208). Subtracts natural elements with saturation. -/
  | vsubsn (d : BitVec 5) (a : BitVec 5) (b : BitVec 5) (m : BitVec 3) (sz : Bool)
  /-- `VSEQ` (R211). Writes mask bits for equal elements. -/
  | vseq (d : BitVec 3) (a : BitVec 5) (b : BitVec 5) (m : BitVec 3) (sz : Bool)
  /-- `VSLT` (R211). Writes mask bits for signed-less elements. -/
  | vslt (d : BitVec 3) (a : BitVec 5) (b : BitVec 5) (m : BitVec 3) (sz : Bool)
  /-- `VSLTN` (R211). Writes mask bits for natural-less elements. -/
  | vsltn (d : BitVec 3) (a : BitVec 5) (b : BitVec 5) (m : BitVec 3) (sz : Bool)
  /-- `VFADD` (R209). Adds floating-point elements. -/
  | vfadd (d : BitVec 5) (a : BitVec 5) (b : BitVec 5) (m : BitVec 3) (sz : Bool) (t : BitVec 2)
  /-- `VFSUB` (R209). Subtracts floating-point elements. -/
  | vfsub (d : BitVec 5) (a : BitVec 5) (b : BitVec 5) (m : BitVec 3) (sz : Bool) (t : BitVec 2)
  /-- `VFMUL` (R209). Multiplies floating-point elements. -/
  | vfmul (d : BitVec 5) (a : BitVec 5) (b : BitVec 5) (m : BitVec 3) (sz : Bool) (t : BitVec 2)
  /-- `VFDIV` (R209). Divides floating-point elements. -/
  | vfdiv (d : BitVec 5) (a : BitVec 5) (b : BitVec 5) (m : BitVec 3) (sz : Bool) (t : BitVec 2)
  /-- `VFSQRT` (R209). Takes square roots of floating-point elements. -/
  | vfsqrt (d : BitVec 5) (a : BitVec 5) (m : BitVec 3) (t : BitVec 2)
  /-- `VFMIN` (R209). Applies fmin element by element. -/
  | vfmin (d : BitVec 5) (a : BitVec 5) (b : BitVec 5) (m : BitVec 3) (sz : Bool) (t : BitVec 2)
  /-- `VFMAX` (R209). Applies fmax element by element. -/
  | vfmax (d : BitVec 5) (a : BitVec 5) (b : BitVec 5) (m : BitVec 3) (sz : Bool) (t : BitVec 2)
  /-- `VFMINN` (R209). Applies fminn element by element. -/
  | vfminn (d : BitVec 5) (a : BitVec 5) (b : BitVec 5) (m : BitVec 3) (sz : Bool) (t : BitVec 2)
  /-- `VFMAXN` (R209). Applies fmaxn element by element. -/
  | vfmaxn (d : BitVec 5) (a : BitVec 5) (b : BitVec 5) (m : BitVec 3) (sz : Bool) (t : BitVec 2)
  /-- `VFMA` (R209). Writes a times b plus the old element with one rounding. -/
  | vfma (d : BitVec 5) (a : BitVec 5) (b : BitVec 5) (m : BitVec 3) (sz : Bool) (t : BitVec 2)
  /-- `VFMS` (R209). Writes a times b minus the old element with one rounding. -/
  | vfms (d : BitVec 5) (a : BitVec 5) (b : BitVec 5) (m : BitVec 3) (sz : Bool) (t : BitVec 2)
  /-- `VFABS` (R209). Clears element sign bits. -/
  | vfabs (d : BitVec 5) (a : BitVec 5) (m : BitVec 3) (t : BitVec 2)
  /-- `VFNEG` (R209). Inverts element sign bits. -/
  | vfneg (d : BitVec 5) (a : BitVec 5) (m : BitVec 3) (t : BitVec 2)
  /-- `VFEQ` (R211). Writes mask bits for equal float elements. -/
  | vfeq (d : BitVec 3) (a : BitVec 5) (b : BitVec 5) (m : BitVec 3) (sz : Bool) (t : BitVec 2)
  /-- `VFLT` (R211). Writes mask bits for less-than float elements. -/
  | vflt (d : BitVec 3) (a : BitVec 5) (b : BitVec 5) (m : BitVec 3) (sz : Bool) (t : BitVec 2)
  /-- `VFLE` (R211). Writes mask bits for less-or-equal float elements. -/
  | vfle (d : BitVec 3) (a : BitVec 5) (b : BitVec 5) (m : BitVec 3) (sz : Bool) (t : BitVec 2)
  /-- `VFREC` (R210). Writes correctly rounded reciprocals of elements. -/
  | vfrec (d : BitVec 5) (a : BitVec 5) (m : BitVec 3) (t : BitVec 2)
  /-- `VFRSQ` (R210). Writes correctly rounded reciprocal square roots. -/
  | vfrsq (d : BitVec 5) (a : BitVec 5) (m : BitVec 3) (t : BitVec 2)
  /-- `VFEXP2` (R210). Writes correctly rounded powers of two. -/
  | vfexp2 (d : BitVec 5) (a : BitVec 5) (m : BitVec 3) (t : BitVec 2)
  /-- `VFLOG2` (R210). Writes correctly rounded base-2 logarithms. -/
  | vflog2 (d : BitVec 5) (a : BitVec 5) (m : BitVec 3) (t : BitVec 2)
  /-- `VFREDSUM` (R212). Sums active float elements by the pairwise tree into element 0. -/
  | vfredsum (d : BitVec 5) (a : BitVec 5) (m : BitVec 3) (t : BitVec 2)
  /-- `VFREDMIN` (R212). Writes the fmin of active elements into element 0. -/
  | vfredmin (d : BitVec 5) (a : BitVec 5) (m : BitVec 3) (t : BitVec 2)
  /-- `VFREDMAX` (R212). Writes the fmax of active elements into element 0. -/
  | vfredmax (d : BitVec 5) (a : BitVec 5) (m : BitVec 3) (t : BitVec 2)
  /-- `VMV` (R213). Copies active elements of a vector register. -/
  | vmv (d : BitVec 5) (a : BitVec 5) (m : BitVec 3)
  /-- `VBCAST` (R213). Broadcasts the low 32 bits of an x register to active elements. -/
  | vbcast (d : BitVec 5) (a : BitVec 5) (m : BitVec 3)
  /-- `VBCASTF` (R213). Broadcasts the low 32 bits of an f register to active elements. -/
  | vbcastf (d : BitVec 5) (a : BitVec 5) (m : BitVec 3)
  /-- `VSLIDEUP` (R213). Slides elements up by an x-register amount. -/
  | vslideup (d : BitVec 5) (a : BitVec 5) (b : BitVec 5) (m : BitVec 3)
  /-- `VSLIDEDN` (R213). Slides elements down by an x-register amount, filling zeros. -/
  | vslidedn (d : BitVec 5) (a : BitVec 5) (b : BitVec 5) (m : BitVec 3)
  /-- `VGATHER` (R213). Gathers elements by index vector. -/
  | vgather (d : BitVec 5) (a : BitVec 5) (b : BitVec 5) (m : BitVec 3)
  /-- `VCOMPRESS` (R214). Packs active elements to the front and zeroes the rest below VL. -/
  | vcompress (d : BitVec 5) (a : BitVec 5) (m : BitVec 3)
  /-- `VEXPAND` (R214). Spreads leading source elements into active positions. -/
  | vexpand (d : BitVec 5) (a : BitVec 5) (m : BitVec 3)
  /-- `VEXT` (R213). Writes one vector position to an x register. -/
  | vext (d : BitVec 5) (a : BitVec 5) (b : BitVec 5)
  /-- `VINS` (R213). Writes an x register value into one vector position. -/
  | vins (d : BitVec 5) (a : BitVec 5) (b : BitVec 5)
  /-- `VREDADD` (R213). Sums active 32-bit elements into element 0. -/
  | vredadd (d : BitVec 5) (a : BitVec 5) (m : BitVec 3)
  /-- `VREDMIN` (R213). Writes the signed minimum of active elements into element 0. -/
  | vredmin (d : BitVec 5) (a : BitVec 5) (m : BitVec 3)
  /-- `VREDMAX` (R213). Writes the signed maximum of active elements into element 0. -/
  | vredmax (d : BitVec 5) (a : BitVec 5) (m : BitVec 3)
  /-- `VREDMINN` (R213). Writes the natural minimum of active elements into element 0. -/
  | vredminn (d : BitVec 5) (a : BitVec 5) (m : BitVec 3)
  /-- `VREDMAXN` (R213). Writes the natural maximum of active elements into element 0. -/
  | vredmaxn (d : BitVec 5) (a : BitVec 5) (m : BitVec 3)
  /-- `MAND` (R215). ANDs two mask registers. -/
  | mand (d : BitVec 3) (a : BitVec 3) (b : BitVec 3)
  /-- `MOR` (R215). ORs two mask registers. -/
  | mor (d : BitVec 3) (a : BitVec 3) (b : BitVec 3)
  /-- `MXOR` (R215). XORs two mask registers. -/
  | mxor (d : BitVec 3) (a : BitVec 3) (b : BitVec 3)
  /-- `MNOT` (R215). Complements a mask register. -/
  | mnot (d : BitVec 3) (a : BitVec 3)
  /-- `MPOPC` (R215). Counts set mask bits below VL. -/
  | mpopc (d : BitVec 5) (a : BitVec 3)
  /-- `MFIRST` (R215). Writes the lowest set mask index below VL, or all ones. -/
  | mfirst (d : BitVec 5) (a : BitVec 3)
  /-- `VSETVL` (R196). Sets VL to the lesser of the request and the grant. -/
  | vsetvl (d : BitVec 5) (a : BitVec 5)
  /-- `VCLAIM` (R194). Renegotiates the firing's lane grant from the cluster pool without waiting. -/
  | vclaim (d : BitVec 5) (a : BitVec 5)
  /-- `VLD` (R216). Loads unit-stride elements through a capability after checking every active element. -/
  | vld (d : BitVec 5) (c : BitVec 5) (m : BitVec 3) (w : BitVec 2)
  /-- `VST` (R216). Stores unit-stride elements through a capability. -/
  | vst (d : BitVec 5) (c : BitVec 5) (m : BitVec 3) (w : BitVec 2)
  /-- `VLDS` (R216). Loads strided elements. -/
  | vlds (d : BitVec 5) (c : BitVec 5) (b : BitVec 5) (m : BitVec 3) (w : BitVec 2)
  /-- `VSTS` (R216). Stores strided elements. -/
  | vsts (d : BitVec 5) (c : BitVec 5) (b : BitVec 5) (m : BitVec 3) (w : BitVec 2)
  /-- `VLDX` (R216). Loads indexed elements. -/
  | vldx (d : BitVec 5) (c : BitVec 5) (b : BitVec 5) (m : BitVec 3) (w : BitVec 2)
  /-- `VSTX` (R216). Stores indexed elements, higher index prevailing on equal addresses. -/
  | vstx (d : BitVec 5) (c : BitVec 5) (b : BitVec 5) (m : BitVec 3) (w : BitVec 2)
  /-- `CVT_SCALAR_FORM` (R219). Converts one scalar value between formats with an optional f32 scale and a single rounding. -/
  | cvtScalarForm (d : BitVec 5) (a : BitVec 5) (b : BitVec 5) (u : Bool) (v : Bool) (p : BitVec 4) (q : BitVec 4)
  /-- `CVT_VECTOR_FORM` (R219). Converts every element below EC between formats with an optional scale. -/
  | cvtVectorForm (d : BitVec 5) (a : BitVec 5) (b : BitVec 5) (v : Bool) (p : BitVec 4) (q : BitVec 4)
  /-- `ECFG_CE` (R149). Writes a 128-bit copy-engine descriptor register from two x registers. -/
  | ecfgCe (e : BitVec 4) (a : BitVec 5) (b : BitVec 5) (u : Bool) (v : Bool)
  /-- `CPQ` (R150). Checks descriptor pair k and queues a copy or stream job, writing its job value or busy. -/
  | cpq (d : BitVec 5) (a : BitVec 5) (b : BitVec 5) (u : Bool) (v : Bool) (k : BitVec 3)
  /-- `CPPOLL` (R152). Reads the status record of a job. -/
  | cppoll (d : BitVec 5) (a : BitVec 5) (u : Bool)
  /-- `CPWAIT` (R153). Stops issue until a job is DONE, FAULT, TOURING or STALE. -/
  | cpwait (a : BitVec 5) (u : Bool)
  /-- `MMA_E4E4` (R231). Gang form of an e4m3 by e4m3 matrix step. -/
  | mmaE4e4 (a : BitVec 5) (b : BitVec 5) (u : Bool) (v : Bool) (z : Bool) (t : Bool) (k : Bool)
  /-- `MMA_E4E5` (R231). Gang form of an e4m3 by e5m2 matrix step. -/
  | mmaE4e5 (a : BitVec 5) (b : BitVec 5) (u : Bool) (v : Bool) (z : Bool) (t : Bool) (k : Bool)
  /-- `MMA_E5E4` (R231). Gang form of an e5m2 by e4m3 matrix step. -/
  | mmaE5e4 (a : BitVec 5) (b : BitVec 5) (u : Bool) (v : Bool) (z : Bool) (t : Bool) (k : Bool)
  /-- `MMA_E5E5` (R231). Gang form of an e5m2 by e5m2 matrix step. -/
  | mmaE5e5 (a : BitVec 5) (b : BitVec 5) (u : Bool) (v : Bool) (z : Bool) (t : Bool) (k : Bool)
  /-- `MMA_E3E3` (R231). Gang form of an e3m2 by e3m2 matrix step. -/
  | mmaE3e3 (a : BitVec 5) (b : BitVec 5) (u : Bool) (v : Bool) (z : Bool) (t : Bool) (k : Bool)
  /-- `MMA_E2E2` (R231). Gang form of an e2m1 by e2m1 matrix step. -/
  | mmaE2e2 (a : BitVec 5) (b : BitVec 5) (u : Bool) (v : Bool) (z : Bool) (t : Bool) (k : Bool)
  /-- `MMA_I8I8` (R231). Gang form of an i8 by i8 matrix step. -/
  | mmaI8i8 (a : BitVec 5) (b : BitVec 5) (u : Bool) (v : Bool) (z : Bool) (t : Bool) (k : Bool)
  /-- `MMA_I4I4` (R231). Gang form of an i4 by i4 matrix step. -/
  | mmaI4i4 (a : BitVec 5) (b : BitVec 5) (u : Bool) (v : Bool) (z : Bool) (t : Bool) (k : Bool)
  /-- `MMA_I8Q8` (R231). Gang form of an i8 by q8 matrix step. -/
  | mmaI8q8 (a : BitVec 5) (b : BitVec 5) (u : Bool) (v : Bool) (z : Bool) (t : Bool) (k : Bool)
  /-- `MMA_I8Q4` (R231). Gang form of an i8 by q4 matrix step. -/
  | mmaI8q4 (a : BitVec 5) (b : BitVec 5) (u : Bool) (v : Bool) (z : Bool) (t : Bool) (k : Bool)
  /-- `MMA_I4Q4` (R231). Gang form of an i4 by q4 matrix step. -/
  | mmaI4q4 (a : BitVec 5) (b : BitVec 5) (u : Bool) (v : Bool) (z : Bool) (t : Bool) (k : Bool)
  /-- `MMA_BF16` (R231). Gang form of a bf16 by bf16 matrix step. -/
  | mmaBf16 (a : BitVec 5) (b : BitVec 5) (u : Bool) (v : Bool) (z : Bool) (t : Bool) (k : Bool)
  /-- `MMA_F16` (R231). Gang form of an f16 by f16 matrix step. -/
  | mmaF16 (a : BitVec 5) (b : BitVec 5) (u : Bool) (v : Bool) (z : Bool) (t : Bool) (k : Bool)
  /-- `MMB_E4E4` (R231). Gang form of a block-exponent e4m3 step, writing the scale to fs. -/
  | mmbE4e4 (f : BitVec 5) (a : BitVec 5) (b : BitVec 5) (u : Bool) (v : Bool) (z : Bool) (t : Bool) (k : Bool)
  /-- `MMB_E5E5` (R231). Gang form of a block-exponent e5m2 step. -/
  | mmbE5e5 (f : BitVec 5) (a : BitVec 5) (b : BitVec 5) (u : Bool) (v : Bool) (z : Bool) (t : Bool) (k : Bool)
  /-- `MMB_E3E3` (R231). Gang form of a block-exponent e3m2 step. -/
  | mmbE3e3 (f : BitVec 5) (a : BitVec 5) (b : BitVec 5) (u : Bool) (v : Bool) (z : Bool) (t : Bool) (k : Bool)
  /-- `MMB_E2E2` (R231). Gang form of a block-exponent e2m1 step. -/
  | mmbE2e2 (f : BitVec 5) (a : BitVec 5) (b : BitVec 5) (u : Bool) (v : Bool) (z : Bool) (t : Bool) (k : Bool)
  /-- `ECFG_ME` (R224). Writes a 128-bit matrix geometry register. -/
  | ecfgMe (e : BitVec 4) (a : BitVec 5) (b : BitVec 5) (u : Bool) (v : Bool)
  /-- `MDRAIN` (R235). Waits for started steps, then writes this slice's bank to memory in the chosen format. -/
  | mdrain (a : BitVec 5) (b : BitVec 5) (u : Bool) (v : Bool) (f : BitVec 2) (k : Bool)
  /-- `MZERO` (R236). Zeroes this core's bank, clears its poison and takes ownership for the strand. -/
  | mzero (k : Bool)
  /-- `REDSLOT` (R299). Sends a request to reserve a reduction slot in a router. -/
  | redslot (d : BitVec 5) (a : BitVec 5) (b : BitVec 5) (u : Bool) (v : Bool)
  /-- `REDPUT` (R301). Sends a contribution to a reduction slot instance through the send queue. -/
  | redput (a : BitVec 5) (b : BitVec 5) (u : Bool) (v : Bool)
  /-- `REDGET` (R303). Sends a read of a root slot's result, marking rd empty. -/
  | redget (d : BitVec 5) (a : BitVec 5) (u : Bool)
  /-- `REDFREE` (R304). Sends a request to free a reduction slot without waiting. -/
  | redfree (a : BitVec 5) (u : Bool)
  /-- `ILLEGAL_WORD` (R54). A fetched word that is no instruction, or a fetch outside text, traps ILLEGAL at decode and parks the firing. -/
  | illegalWord (word : BitVec 32)
  /-- `NOP` (R128). Advances the program counter only. -/
  | nop
  /-- `END` (R111). Waits for outstanding producers, then discards claims, unbinds ports, returns lanes and sets the actor slot IDLE, READY or HELD. -/
  | endFiring
  /-- `RETIRE` (R112). After a passed cluster barrier, performs end, discards unclaimed messages and makes the slot RETIRED. -/
  | retire
  /-- `CBAR` (R280). Arrives at the current cluster barrier instance of the strand and stalls until it completes. -/
  | cbar
  /-- `GBAR` (R281). Arrives at the current barrier-tree instance of the rope and stalls until it completes. -/
  | gbar
  /-- `SNAP` (R318). Raises the snapshot trigger of the firing's partition. -/
  | snap
  /-- `VRELEASE` (R195). Returns every lane and sets grant and VL to zero. -/
  | vrelease
  /-- `LAUNCH_MESSAGE` (R77). The launcher takes one accepted launch message, checks it in order and queues the cable or refuses it. -/
  | launchMessage (vf : Nat)
  /-- `PLACE_ROPE` (R91). The dispatcher attempts to place the head cable's next rope whole or not at all. -/
  | placeRope (vf : Nat)
  /-- `ROPE_START` (R96). Once scrub and builds complete, the launcher delivers start messages and the rope becomes fireable. -/
  | ropeStart (rope : Nat)
  /-- `START_MESSAGE_REOFFER` (R96). A start message refused FULL is offered again when a slot of the port frees. -/
  | startMessageReoffer (rope actor : Nat)
  /-- `FIRING_START` (R100). The core scheduler picks a READY slot and starts a firing, claiming its messages. -/
  | firingStart (at_ : CoreId)
  /-- `MESSAGE_INJECT` (R260). A message leaves the core's send queue once the sender's earlier stores are applied. -/
  | messageInject (at_ : CoreId)
  /-- `MESSAGE_OFFER` (R264). The destination mailbox unit decides an offered message: refuse, spill or accept. -/
  | messageOffer (msg : Nat)
  /-- `MESSAGE_ANSWER` (R261). An answer returns to the sender's send port and updates its status. -/
  | messageAnswer (msg : Nat)
  /-- `BUDGET_EXPIRY` (R105). The watchdog reaches LIMIT and traps BUDGET, abandoning a stalled instruction. -/
  | budgetExpiry (at_ : CoreId)
  /-- `VALUE_ARRIVAL` (R115). A long-latency producer's value arrives and sets its register full. -/
  | valueArrival (at_ : CoreId) (prod : Nat)
  /-- `DELAY_EXPIRY` (R128). The timebase passes a delay's count and issue resumes. -/
  | delayExpiry (at_ : CoreId)
  /-- `STORE_DRAIN` (R136). The oldest store-buffer entry drains towards its home. -/
  | storeDrain (at_ : CoreId)
  /-- `LDW_SATISFY` (R143). A waiting ldw completes when its word becomes full. -/
  | ldwSatisfy (at_ : CoreId) (prod : Nat)
  /-- `COPY_JOB_START` (R151). A queued copy or stream job starts once earlier stores drained and a carrier is free. -/
  | copyJobStart (cl job : Nat)
  /-- `COPY_JOB_DONE` (R152). A copy job's last write is applied and its record becomes DONE. -/
  | copyJobDone (cl job : Nat)
  /-- `STREAM_DELIVER` (R156). A stream job delivers a source word into the stream buffer when there is room. -/
  | streamDeliver (cl job : Nat)
  /-- `TOUR_JOB_START` (R165). A tour job at the queue head asks for a first-stop slot, waiting aside if none is free. -/
  | tourJobStart (cl job : Nat)
  /-- `HITCH` (R158). A tile takes the lowest free slot at a stop and its arrival message is offered. -/
  | hitch (tour : Nat)
  /-- `HITCH_REPORT` (R152). The hitch report reaches the origin copy unit and the job reads TOURING. -/
  | hitchReport (cl job : Nat)
  /-- `ARRIVAL_REOFFER` (R158). A held arrival message is offered again when a slot of the tile port frees. -/
  | arrivalReoffer (tour : Nat)
  /-- `HOLD_EXPIRY` (R160). The hold count reaches the limit; the arrival is withdrawn, the stop missed and the tile sent on. -/
  | holdExpiry (tour : Nat)
  /-- `TILE_ONWARD` (R163). Once accesses drained, the Halyard sends a cast or expired tile to the next stop or completes the tour. -/
  | tileOnward (tour : Nat)
  /-- `COMPLETION_REOFFER` (R166). A queued tour completion is offered again when a port slot or queue entry frees. -/
  | completionReoffer (cl entry : Nat)
  /-- `TOUR_SLOT_SCRUB_DONE` (R95). A freed tour slot finishes its scrub, becomes free and is granted to the earliest waiting tile. -/
  | tourSlotScrubDone (cl slot : Nat)
  /-- `STEP_START` (R223). The last gang form joins, stores drain and the array is free, so the step checks the gang and starts. -/
  | stepStart (cl : Nat)
  /-- `SCALE_WRITE` (R229). At s + 4 the scale keeper's links write each core's scale register. -/
  | scaleWrite (cl step : Nat)
  /-- `STEP_COMPLETE` (R223). At s + 40 the step's results stand in the banks. -/
  | stepComplete (cl step : Nat)
  /-- `SEQUENCER_COMMIT` (R248). The sequencer commits a replicated-page update once all four replicas acknowledge. -/
  | sequencerCommit (upd : Nat)
  /-- `WAITA_WAKE` (R279). A write to the armed block wakes a waiting waita, which rereads the word. -/
  | waitaWake (at_ : CoreId)
  /-- `WAITA_TIMEOUT` (R279). 2^20 ticks pass and a waiting waita wakes. -/
  | waitaTimeout (at_ : CoreId)
  /-- `CLUSTER_BARRIER_COMPLETE` (R280). Every gang core has arrived and the cluster barrier instance completes, barring slots. -/
  | clusterBarrierComplete (rope strand : Nat)
  /-- `BARRIER_TREE_COMPLETE` (R281). Every gang core of the rope has arrived and the barrier-tree instance completes. -/
  | barrierTreeComplete (rope : Nat)
  /-- `NOTIFY_REOFFER` (R275). A notification held in the notify queue is offered again when the port frees. -/
  | notifyReoffer (die entry : Nat)
  /-- `ROUTE_SWAP` (R293). Management writes standby routes for one network and stops its injection. -/
  | routeSwap (who : MgmtSender) (net : Nat) (routes : List RouteRow)
  /-- `ROUTE_SWAP_ACTIVATE` (R293). Once the network is drained, every router activates its standby bank and injection resumes. -/
  | routeSwapActivate (net : Nat)
  /-- `LIMITER_REFILL` (R294). A partition's injection bucket refills and waiting packets proceed. -/
  | limiterRefill (part cl : Nat)
  /-- `REDSLOT_SERVE` (R300). A router serves a redslot request in stamp order, returning a handle, SLOT_BUSY or DENIED. -/
  | redslotServe (cl : Nat)
  /-- `CONTRIBUTION_ARRIVAL` (R301). A contribution or partial reaches a slot and is combined, held or refused. -/
  | contributionArrival (cl pkt : Nat)
  /-- `REDGET_SERVE` (R303). A router answers a redget once the root slot is FULL and advances the instance. -/
  | redgetServe (cl req : Nat)
  /-- `REDFREE_SERVE` (R304). A router frees a slot, discarding its partial and refusing held packets. -/
  | redfreeServe (cl req : Nat)
  /-- `REMOTE_WRITE_DATA` (R307). A remote-write packet from a host lands its data in device memory. -/
  | remoteWriteData (ctx xfer total : Nat) (compl : BitVec 64) (va : BitVec 52) (data : List (BitVec 8))
  /-- `REMOTE_WRITE_COMPLETION` (R307). Once L bytes landed and are applied, the endpoint writes L to the completion word and sets it full. -/
  | remoteWriteCompletion (xfer : Nat)
  /-- `TRAP_MESSAGE_REOFFER` (R312). A held trap message is offered again when the supervisor port frees. -/
  | trapMessageReoffer (at_ : CoreId)
  /-- `TRAP_ABORT` (R315). A trap reply with verb ABORT aborts the parked firing. -/
  | trapAbort (reply : Nat)
  /-- `TRAP_RESUME` (R315). A trap reply with verb RESUME continues at the next instruction. -/
  | trapResume (reply : Nat)
  /-- `TRAP_RETRY` (R315). A trap reply with verb RETRY issues the trapping instruction again. -/
  | trapRetry (reply : Nat)
  /-- `TRAP_REPLACE` (R315). A trap reply with verb REPLACE resumes an FPX with a replacement value. -/
  | trapReplace (reply : Nat)
  /-- `TRAPWAIT_EXPIRY` (R316). A parked firing with no valid reply within TRAPWAIT is aborted. -/
  | trapwaitExpiry (at_ : CoreId)
  /-- `TSC_MISS_REQUEST` (R322). A TSC receives a TLB miss and answers from its cache or starts or joins a walk. -/
  | tscMissRequest (cl : Nat)
  /-- `TSC_WALK_DONE` (R324). A shadow-table walk ends in XLATE, a fault or a leaf installed in the cache and TLB. -/
  | tscWalkDone (cl walk : Nat)
  /-- `FAULT_RETRY` (R326). A hypervisor fault reply RETRY makes the TSC walk again. -/
  | faultRetry (reply : Nat)
  /-- `FAULT_DENY` (R326). A hypervisor fault reply DENY traps PAGEFAULT or faults the job. -/
  | faultDeny (reply : Nat)
  /-- `FAULT_EMULATED` (R326). A hypervisor fault reply EMULATED completes the access with VALUE and no translation. -/
  | faultEmulated (reply : Nat)
  /-- `SHOOTDOWN` (R327). TSCs of a cluster range remove matching translations, run tlbinv and answer. -/
  | shootdown (req cl : Nat)
  /-- `SLICE_END` (R333). A VF's slice reaches SLICE ticks and the switch begins. -/
  | sliceEnd (part : Nat)
  /-- `SWITCH` (R333). A hypervisor SWITCH command ends the current slice. -/
  | switchSlice (who : MgmtSender) (part : Nat)
  /-- `SWITCH_SAVE` (R334). Once every firing is at a boundary and buffers drain, the save image is written and spill mode begins. -/
  | switchSave (part : Nat)
  /-- `RESTORE` (R337). The incoming VF's image is restored to the same place and its slice begins. -/
  | restore (part : Nat)
  /-- `SPILL_RING_DRAIN` (R337). A spilled message enters its port as a slot frees after resume. -/
  | spillRingDrain (at_ : CoreId) (slot port : Nat)
  /-- `GANG_STOP` (R339). A fatal fault stops every core of the partition through the halt tree and triggers a snapshot. -/
  | gangStop (part : Nat)
  /-- `HALT` (R338). Management HALT command for a partition. -/
  | halt (who : MgmtSender) (part : Nat)
  /-- `RELEASE` (R339). Management RELEASE after a gang stop ends torn ropes and resumes other VFs. -/
  | release (who : MgmtSender) (part : Nat) (vfs : List Nat)
  /-- `MANAGEMENT_SNAPSHOT` (R340). A management command raises the snapshot trigger of a partition. -/
  | managementSnapshot (who : MgmtSender) (part : Nat)
  /-- `SNAPSHOT_READ` (R339). The hypervisor reads latched snapshots through management. -/
  | snapshotRead (who : MgmtSender) (at_ : CoreId)
  /-- `TELEMETRY_FRAME` (R348). A shelf telemetry frame is validated, accepted or discarded, and drives the droop curve. -/
  | telemetryFrame (frame : List (BitVec 8))
  /-- `FRAMES_STALE` (R351). No valid frame for 5 ms, so SAFEMASK is applied. -/
  | framesStale
  /-- `SAFE_MASK_WITHDRAW` (R351). After HOLDOFF of continuous frames the safe mask is withdrawn. -/
  | safeMaskWithdraw
  /-- `SHED_DEADLINE` (R353). A rope not yet at its shed point stops being fired at t + 1.5 ms. -/
  | shedDeadline (rope : Nat)
  /-- `CLASS_RESTORE` (R355). The lowest eligible class leaves the shed set after hold-off, gap and rise. -/
  | classRestore (cls : Nat)
  /-- `CURRENT_WINDOW` (R356). Each 1 µs window the controller estimates current and applies filler or cycle skipping. -/
  | currentWindow (loads : List LoadRow)
  /-- `METER_WINDOW` (R358). A 10 µs partition energy window closes and the throttle step moves. -/
  | meterWindow (part energy : Nat)
  /-- `IDLE_LOW_RAIL` (R359). A cluster idle for 10 µs moves to the low rail. -/
  | idleLowRail (cl : Nat)
  /-- `RAIL_SWITCH` (R359). A cluster's power multiplexer completes a rail change. -/
  | railSwitch (cl : Nat)
  /-- `STACK_SAMPLE` (R361). A DRAM stack temperature sample sets or lowers the thermal step. -/
  | stackSample (die celsius : Nat)
  /-- `ROPE_RETIRE` (R369). Once its strands retired and jobs, slots, answers and stores are done, the rope retires. -/
  | ropeRetire (rope : Nat)
  /-- `END_CABLE` (R370). Management END ends a cable's ropes or drops it from the queue. -/
  | endCable (who : MgmtSender) (vf cable : Nat)
  /-- `QUERY` (R374). Management QUERY returns a cable's state and counts. -/
  | query (who : MgmtSender) (vf cable : Nat)
  /-- `ATTEST` (R378). ATTEST returns signed evidence for a nonce. -/
  | attest (who : MgmtSender) (request : AttestRequest)
  /-- `PACKAGE_RESET` (R375). After reset the device boots through its verified steps. -/
  | packageReset
  /-- `RECOVERY_IMAGE_LOAD` (R377). In recovery one image is accepted, verified and booted without writing flash. -/
  | recoveryImageLoad (who : MgmtSender) (img : List (BitVec 8))
  /-- `FIRMWARE_WRITE` (R377). The privileged endpoint writes a verified image and may raise the fused minimum SVN. -/
  | firmwareWrite (who : MgmtSender) (img : List (BitVec 8)) (raise : Bool)
  /-- `PARTITION_DEFINE` (R87). The package control core defines or refuses a partition's PARTBASE, PARTLEN and BARCTX. -/
  | partitionDefine (who : MgmtSender) (part base len barctx : Nat)
  /-- `VF_CREATE` (R83). A VF is created with empty completion map and reset pointers. -/
  | vfCreate (who : MgmtSender) (vf part : Nat)
  /-- `MESHRATE_WRITE` (R294). Management sets a partition's injection limiter. -/
  | meshrateWrite (who : MgmtSender) (part : Nat) (rate : BitVec 32) (burst : BitVec 16)
  /-- `VFCTL_WRITE` (R332). Management writes a VF's slice, floor, TRAPWAIT, fault endpoint and sequencer die. -/
  | vfctlWrite (who : MgmtSender) (vf : Nat) (value : BitVec 64)
  /-- `ENDPOINT_TABLE_WRITE` (R295). Management fills an entry of a VF's endpoint table. -/
  | endpointTableWrite (who : MgmtSender) (vf index : Nat) (entry : Option Endpoint)
  /-- `SHADOW_ROOT_WRITE` (R323). Management writes the physical address of a VF's shadow root table. -/
  | shadowRootWrite (who : MgmtSender) (vf : Nat) (pa : BitVec 39)
  /-- `DROOP_CONFIG_WRITE` (R349). Management writes droop points and control, effective at the next frame or at once when stale. -/
  | droopConfigWrite (who : MgmtSender) (index : Nat) (value : BitVec 64)
  /-- `VOTE_WRITE` (R360). Management writes a partition's rail vote and the high-rail target moves. -/
  | voteWrite (who : MgmtSender) (part die : Nat) (mv : BitVec 16)
  /-- `ALLOT_WRITE` (R358). Management writes a partition's power allotment. -/
  | allotWrite (who : MgmtSender) (part : Nat) (watts : BitVec 12)
  /-- `DRAM_SHARE_WRITE` (R362). Management sets a partition's guaranteed DRAM bandwidth share. -/
  | dramShareWrite (who : MgmtSender) (part die percent : Nat)
  /-- `SLOPE_WRITE` (R363). Management writes the down- and up-slope limits. -/
  | slopeWrite (who : MgmtSender) (down up : BitVec 16)
  /-- `PACKET_COUNTER_READ` (R305). Management reads the Ultra Ethernet packet counters. -/
  | packetCounterRead (who : MgmtSender)
  /-- `APPLIED_AT_HOME` (R244). A store or atomic that left the store buffer arrives at its home on another die and is applied there. -/
  | appliedAtHome (upd : Nat)
  /-- `MDRAIN_WRITES_APPLIED` (R235). The last write of an mdrain is applied and the draining core may issue again. -/
  | mdrainWritesApplied (at_ : CoreId)
  /-- `FAULT_ANSWER_TIMEOUT` (R326). A fault message unanswered within TRAPWAIT is denied, trapping the waiting firing PAGEFAULT or faulting the waiting job. -/
  | faultAnswerTimeout (cl walk : Nat)
  /-- `ICACHE_MISS_FILL` (R103). An instruction-cache miss is filled from the loaded text and the fetched instruction can issue. -/
  | icacheMissFill (at_ : CoreId)
  /-- `DELIVERY_CONTEXT_ASSIGN` (R305). The hypervisor assigns an Ultra Ethernet delivery context to a VF and installs its entropy values. -/
  | deliveryContextAssign (who : MgmtSender) (ctx vf : Nat) (entropy : Entropy)
  /-- `DROPPED_PACKET` (R305). An arriving packet that requests unreliable delivery or fails authentication is dropped and counted. -/
  | droppedPacket (reason : DropReason)
  deriving DecidableEq, Repr

end Sys2Proof
end

