-- ==== Sys2Proof/Config.lean ====
section
/-! DEFINITION. What one device fixes, and the free values: constants without a body, of which no proof can know the value.
A free value taken from a counter is applied to `State.freeNo`, which the step that takes it advances. -/

namespace Sys2Proof.Config

/-- Where the launcher places a rope's argument block in the VF's device virtual space (R45): the page number, of 64 KiB pages. -/
opaque argPage : Nat → BitVec 36

/-- Which cluster of the home die injects the notification of a counter in device memory, of the die's 64, by the word's physical address (R275). -/
opaque notifyRouter : BitVec 39 → Fin 64

/-- By how many of its core cycles more than one a core, by its key, may latch after a snapshot trigger: 128 core cycles at most (R5, R340). -/
opaque snapSpread : Nat → Nat → Fin 128

/-- The counters that the copy unit, the Halyard and the router of a cluster latch at a snapshot trigger (R340), which no table of the spec lists: free values (log entry 55). -/
opaque unitCounters : Nat → Nat → List (BitVec 64)

/-- How many bytes a packet with a payload of some bytes takes from an injection limiter (R294). -/
opaque packetBytes : Nat → Nat

/-- The SHA-384 digest that R376 and R378 name. -/
opaque sha384 : List (BitVec 8) → BitVec 384

/-- Whether a P-384 signature verifies: public key, signature, message (R376). -/
opaque ecdsaVerifies : List (BitVec 8) → List (BitVec 8) → List (BitVec 8) → Bool

/-- Whether an LMS signature verifies: public key, signature, message (R376). -/
opaque lmsVerifies : List (BitVec 8) → List (BitVec 8) → List (BitVec 8) → Bool

/-- The fused digest of the P-384 public key (R376). -/
opaque fusedEcKey : BitVec 384

/-- The fused digest of the LMS public key (R376). -/
opaque fusedLmsKey : BitVec 384

/-- The fused minimum security version at manufacture (R376). -/
opaque fusedMinSvn : BitVec 8

/-- The fused configuration that the evidence measures (R378). -/
opaque fuseConfiguration : List (BitVec 8)

/-- The Amiwen certificate of the device's identity key (R378). -/
opaque identityCertificate : List (BitVec 8)

/-- The identity key's certificate of a boot's attestation key (R378). -/
opaque attestationCertificate : Nat → List (BitVec 8)

/-- The signature of the evidence by a boot's attestation key (R378). -/
opaque attestationSignature : Nat → Nat → BitVec 384 → BitVec 768

/-- Whether a host endpoint refuses a message FULL (R306). -/
opaque hostFull : Nat → Bool

/-- The fused minimum voltage of a die's high rail, in mV (R360). -/
opaque fusedMinRail : Fin 4 → BitVec 16

end Sys2Proof.Config
end

