-- ==== Sys2Proof/WellFormed.lean ====
section
/-! DEFINITION. Which operands an instruction word may carry: the values that a sub-map leaves unassigned are not well formed (R54). -/

namespace Sys2Proof

/-- The indices of Table 16-6, which `rds` may name (R66, R319). -/
def readableIndices : List Nat :=
  [0x000, 0x001, 0x002, 0x010, 0x011, 0x012, 0x013, 0x014, 0x015, 0x020, 0x021, 0x022, 0x023, 0x024, 0x025, 0x026, 0x027,
    0x028, 0x029, 0x030, 0x031, 0x040, 0x041, 0x042, 0x043, 0x044, 0x100, 0x101, 0x102, 0x103, 0x104, 0x105, 0x106, 0x107, 0x108]

/-- The indices of Table 16-6 that it does not mark read-only, which `wrs` may name (R66, R318). -/
def writableIndices : List Nat :=
  [0x000, 0x001, 0x002, 0x010, 0x014]

/-- Every operand holds an assigned value (R50, R54, R60 to R63, R66, R70, R71). Registers of three or four bits and
reserved fields cannot be ill formed: the syntax has no place for them. An event carries no word. -/
def Instr.wf : Instr → Bool
  | .add .. => true
  | .sub .. => true
  | .mul .. => true
  | .mulh .. => true
  | .mulhn .. => true
  | .div .. => true
  | .divn .. => true
  | .rem .. => true
  | .remn .. => true
  | .and .. => true
  | .or .. => true
  | .xor .. => true
  | .andn .. => true
  | .shl .. => true
  | .shr .. => true
  | .sra .. => true
  | .rot .. => true
  | .slt .. => true
  | .sltn .. => true
  | .min .. => true
  | .max .. => true
  | .minn .. => true
  | .maxn .. => true
  | .clz .. => true
  | .ctz .. => true
  | .popc .. => true
  | .bswap .. => true
  | .bfx .. => true
  | .bfi .. => true
  | .addi .. => true
  | .andi .. => true
  | .ori .. => true
  | .xori .. => true
  | .slti .. => true
  | .sltni .. => true
  | .shli .. => true
  | .shri .. => true
  | .srai .. => true
  | .roti .. => true
  | .lih .. => true
  | .ld _ _ _ sz _ => decide (sz.toNat ≤ 6)
  | .st .. => true
  | .ldc .. => true
  | .stc .. => true
  | .ldw _ _ _ sz _ => decide (sz.toNat ≤ 6)
  | .stf .. => true
  | .clrf .. => true
  | .ldb .. => true
  | .ldbx .. => true
  | .stb .. => true
  | .fld _ _ _ sz _ => decide (sz ≠ 0)
  | .fst _ _ _ sz _ => decide (sz ≠ 0)
  | .aadd _ _ _ _ _ _ sz => decide (sz.toNat ≤ 4)
  | .aand _ _ _ _ _ _ sz => decide (sz.toNat ≤ 4)
  | .aor _ _ _ _ _ _ sz => decide (sz.toNat ≤ 4)
  | .axor _ _ _ _ _ _ sz => decide (sz.toNat ≤ 4)
  | .amin _ _ _ _ _ _ sz => decide (sz.toNat ≤ 4)
  | .amax _ _ _ _ _ _ sz => decide (sz.toNat ≤ 4)
  | .aminn _ _ _ _ _ _ sz => decide (sz.toNat ≤ 4)
  | .amaxn _ _ _ _ _ _ sz => decide (sz.toNat ≤ 4)
  | .aswap _ _ _ _ _ _ sz => decide (sz.toNat ≤ 4)
  | .aaddz _ _ _ _ _ _ sz => decide (sz.toNat ≤ 4)
  | .afadd _ _ _ _ _ _ _ sz => decide (sz.toNat ≤ 4)
  | .afmin _ _ _ _ _ _ _ sz => decide (sz.toNat ≤ 4)
  | .afmax _ _ _ _ _ _ _ sz => decide (sz.toNat ≤ 4)
  | .afminn _ _ _ _ _ _ _ sz => decide (sz.toNat ≤ 4)
  | .afmaxn _ _ _ _ _ _ _ sz => decide (sz.toNat ≤ 4)
  | .cas _ _ _ _ _ _ sz => decide (sz.toNat ≤ 4)
  | .beq .. => true
  | .bne .. => true
  | .blt .. => true
  | .bge .. => true
  | .bltn .. => true
  | .bgen .. => true
  | .jal .. => true
  | .jalr .. => true
  | .delay .. => true
  | .fence o sz => decide (o ≠ 0 ∧ sz.toNat ≤ 4)
  | .waita .. => true
  | .bmin .. => true
  | .pbindRecv d _ => decide (24 ≤ d.toNat ∧ d.toNat ≤ 27)
  | .pbindStream d _ _ => decide (24 ≤ d.toNat ∧ d.toNat ≤ 27)
  | .pbindSend d _ => decide (24 ≤ d.toNat ∧ d.toNat ≤ 27)
  | .punbind d => decide (24 ≤ d.toNat ∧ d.toNat ≤ 27)
  | .msend .. => true
  | .mcount .. => true
  | .mstat .. => true
  | .mbind .. => true
  | .tour .. => true
  | .cast .. => true
  | .tstat .. => true
  | .tslot .. => true
  | .cmov .. => true
  | .cbnd .. => true
  | .cadd .. => true
  | .cset .. => true
  | .cperm .. => true
  | .cbase .. => true
  | .clen .. => true
  | .ccur .. => true
  | .cprm .. => true
  | .ctag .. => true
  | .cclr .. => true
  | .rds _ n => decide (n.toNat ∈ readableIndices)
  | .wrs _ _ n => decide (n.toNat ∈ writableIndices)
  | .trap .. => true
  | .time .. => true
  | .tlbw .. => true
  | .tlbinv .. => true
  | .fadd .. => true
  | .fsub .. => true
  | .fmul .. => true
  | .fdiv .. => true
  | .fsqrt .. => true
  | .fmin .. => true
  | .fmax .. => true
  | .fminn .. => true
  | .fmaxn .. => true
  | .fabs .. => true
  | .fneg .. => true
  | .feq .. => true
  | .flt .. => true
  | .fle .. => true
  | .fclass .. => true
  | .fmvx .. => true
  | .fmvf .. => true
  | .fmadd .. => true
  | .fmsub .. => true
  | .fnmsub .. => true
  | .fnmadd .. => true
  | .vadd .. => true
  | .vsub .. => true
  | .vmul .. => true
  | .vmulh .. => true
  | .vmulhn .. => true
  | .vand .. => true
  | .vor .. => true
  | .vxor .. => true
  | .vandn .. => true
  | .vshl .. => true
  | .vshr .. => true
  | .vsra .. => true
  | .vmin .. => true
  | .vmax .. => true
  | .vminn .. => true
  | .vmaxn .. => true
  | .vadds .. => true
  | .vaddsn .. => true
  | .vsubs .. => true
  | .vsubsn .. => true
  | .vseq .. => true
  | .vslt .. => true
  | .vsltn .. => true
  | .vfadd .. => true
  | .vfsub .. => true
  | .vfmul .. => true
  | .vfdiv .. => true
  | .vfsqrt .. => true
  | .vfmin .. => true
  | .vfmax .. => true
  | .vfminn .. => true
  | .vfmaxn .. => true
  | .vfma .. => true
  | .vfms .. => true
  | .vfabs .. => true
  | .vfneg .. => true
  | .vfeq .. => true
  | .vflt .. => true
  | .vfle .. => true
  | .vfrec .. => true
  | .vfrsq .. => true
  | .vfexp2 .. => true
  | .vflog2 .. => true
  | .vfredsum .. => true
  | .vfredmin .. => true
  | .vfredmax .. => true
  | .vmv .. => true
  | .vbcast .. => true
  | .vbcastf .. => true
  | .vslideup .. => true
  | .vslidedn .. => true
  | .vgather .. => true
  | .vcompress .. => true
  | .vexpand .. => true
  | .vext .. => true
  | .vins .. => true
  | .vredadd .. => true
  | .vredmin .. => true
  | .vredmax .. => true
  | .vredminn .. => true
  | .vredmaxn .. => true
  | .mand .. => true
  | .mor .. => true
  | .mxor .. => true
  | .mnot .. => true
  | .mpopc .. => true
  | .mfirst .. => true
  | .vsetvl .. => true
  | .vclaim .. => true
  | .vld _ _ _ w => decide (w ≠ 3)
  | .vst _ _ _ w => decide (w ≠ 3)
  | .vlds _ _ _ _ w => decide (w ≠ 3)
  | .vsts _ _ _ _ w => decide (w ≠ 3)
  | .vldx _ _ _ _ w => decide (w ≠ 3)
  | .vstx _ _ _ _ w => decide (w ≠ 3)
  | .cvtScalarForm _ _ _ _ _ p q => decide (p ≠ q ∧ p ≠ 15 ∧ q ≠ 15)
  | .cvtVectorForm _ _ _ _ p q => decide (p ≠ q ∧ p ≠ 15 ∧ q ≠ 15)
  | .ecfgCe .. => true
  | .cpq .. => true
  | .cppoll .. => true
  | .cpwait .. => true
  | .mmaE4e4 .. => true
  | .mmaE4e5 .. => true
  | .mmaE5e4 .. => true
  | .mmaE5e5 .. => true
  | .mmaE3e3 .. => true
  | .mmaE2e2 .. => true
  | .mmaI8i8 .. => true
  | .mmaI4i4 .. => true
  | .mmaI8q8 .. => true
  | .mmaI8q4 .. => true
  | .mmaI4q4 .. => true
  | .mmaBf16 .. => true
  | .mmaF16 .. => true
  | .mmbE4e4 .. => true
  | .mmbE5e5 .. => true
  | .mmbE3e3 .. => true
  | .mmbE2e2 .. => true
  | .ecfgMe .. => true
  | .mdrain .. => true
  | .mzero .. => true
  | .redslot .. => true
  | .redput .. => true
  | .redget .. => true
  | .redfree .. => true
  | .illegalWord .. => true
  | .nop => true
  | .endFiring => true
  | .retire => true
  | .cbar => true
  | .gbar => true
  | .snap => true
  | .vrelease => true
  | .launchMessage .. => true
  | .placeRope .. => true
  | .ropeStart .. => true
  | .startMessageReoffer .. => true
  | .firingStart .. => true
  | .messageInject .. => true
  | .messageOffer .. => true
  | .messageAnswer .. => true
  | .budgetExpiry .. => true
  | .valueArrival .. => true
  | .delayExpiry .. => true
  | .storeDrain .. => true
  | .ldwSatisfy .. => true
  | .copyJobStart .. => true
  | .copyJobDone .. => true
  | .streamDeliver .. => true
  | .tourJobStart .. => true
  | .hitch .. => true
  | .hitchReport .. => true
  | .arrivalReoffer .. => true
  | .holdExpiry .. => true
  | .tileOnward .. => true
  | .completionReoffer .. => true
  | .tourSlotScrubDone .. => true
  | .stepStart .. => true
  | .scaleWrite .. => true
  | .stepComplete .. => true
  | .sequencerCommit .. => true
  | .waitaWake .. => true
  | .waitaTimeout .. => true
  | .clusterBarrierComplete .. => true
  | .barrierTreeComplete .. => true
  | .notifyReoffer .. => true
  | .routeSwap .. => true
  | .routeSwapActivate .. => true
  | .limiterRefill .. => true
  | .redslotServe .. => true
  | .contributionArrival .. => true
  | .redgetServe .. => true
  | .redfreeServe .. => true
  | .remoteWriteData .. => true
  | .remoteWriteCompletion .. => true
  | .trapMessageReoffer .. => true
  | .trapAbort .. => true
  | .trapResume .. => true
  | .trapRetry .. => true
  | .trapReplace .. => true
  | .trapwaitExpiry .. => true
  | .tscMissRequest .. => true
  | .tscWalkDone .. => true
  | .faultRetry .. => true
  | .faultDeny .. => true
  | .faultEmulated .. => true
  | .shootdown .. => true
  | .sliceEnd .. => true
  | .switchSlice .. => true
  | .switchSave .. => true
  | .restore .. => true
  | .spillRingDrain .. => true
  | .gangStop .. => true
  | .halt .. => true
  | .release .. => true
  | .managementSnapshot .. => true
  | .snapshotRead .. => true
  | .telemetryFrame .. => true
  | .framesStale => true
  | .safeMaskWithdraw => true
  | .shedDeadline .. => true
  | .classRestore .. => true
  | .currentWindow .. => true
  | .meterWindow .. => true
  | .idleLowRail .. => true
  | .railSwitch .. => true
  | .stackSample .. => true
  | .ropeRetire .. => true
  | .endCable .. => true
  | .query .. => true
  | .attest .. => true
  | .packageReset => true
  | .recoveryImageLoad .. => true
  | .firmwareWrite .. => true
  | .partitionDefine .. => true
  | .vfCreate .. => true
  | .meshrateWrite .. => true
  | .vfctlWrite .. => true
  | .endpointTableWrite .. => true
  | .shadowRootWrite .. => true
  | .droopConfigWrite .. => true
  | .voteWrite .. => true
  | .allotWrite .. => true
  | .dramShareWrite .. => true
  | .slopeWrite .. => true
  | .packetCounterRead .. => true
  | .appliedAtHome .. => true
  | .mdrainWritesApplied .. => true
  | .faultAnswerTimeout .. => true
  | .icacheMissFill .. => true
  | .deliveryContextAssign .. => true
  | .droppedPacket .. => true

end Sys2Proof
end

