-- ==== Sys2Proof/Decode.lean ====
section
/-! DEFINITION. The decoder and the encoder of the instruction words (R46, R47, R54, R56 to R73). -/

namespace Sys2Proof

/-- Why bytes or a word are not an instruction (R54). -/
inductive Reject where
  /-- Fewer than the four bytes of a word. -/
  | short
  /-- The word is zero (R54, item 1). -/
  | zeroWord
  /-- The major opcode is unassigned (R54, item 2). -/
  | major (op : Nat)
  /-- A function, reserved or register field has no assigned value (R54, items 3 to 5). -/
  | field (op : Nat)
  deriving DecidableEq, Repr

/-- Cuts a number into pieces of the widths given, lowest bits first. -/
def splitFields : List Nat → Nat → List Nat
  | [], _ => []
  | w :: ws, n => n % 2 ^ w :: splitFields ws (n / 2 ^ w)

/-- Puts pieces, each with its width, together, lowest bits first. -/
def joinFields : List (Nat × Nat) → Nat
  | [] => 0
  | (w, v) :: r => v + 2 ^ w * joinFields r

/-- A one-bit piece as a `Bool`. -/
def bit (n : Nat) : Bool := n == 1

/-- Major opcode 0x01 (R57), from the pieces of the word, lowest bits first. -/
def decAlu : List Nat → Option Instr
  | [p0, p1, p2, p3, p4, p5] =>
    if p0 = 0 then some (.add (.ofNat 5 p5) (.ofNat 5 p4) (.ofNat 5 p3) (bit p2) (bit p1)) else
    if p0 = 1 then some (.sub (.ofNat 5 p5) (.ofNat 5 p4) (.ofNat 5 p3) (bit p2) (bit p1)) else
    if p0 = 2 then some (.mul (.ofNat 5 p5) (.ofNat 5 p4) (.ofNat 5 p3) (bit p2) (bit p1)) else
    if p0 = 3 then some (.mulh (.ofNat 5 p5) (.ofNat 5 p4) (.ofNat 5 p3) (bit p2) (bit p1)) else
    if p0 = 4 then some (.mulhn (.ofNat 5 p5) (.ofNat 5 p4) (.ofNat 5 p3) (bit p2) (bit p1)) else
    if p0 = 5 then some (.div (.ofNat 5 p5) (.ofNat 5 p4) (.ofNat 5 p3) (bit p2) (bit p1)) else
    if p0 = 6 then some (.divn (.ofNat 5 p5) (.ofNat 5 p4) (.ofNat 5 p3) (bit p2) (bit p1)) else
    if p0 = 7 then some (.rem (.ofNat 5 p5) (.ofNat 5 p4) (.ofNat 5 p3) (bit p2) (bit p1)) else
    if p0 = 8 then some (.remn (.ofNat 5 p5) (.ofNat 5 p4) (.ofNat 5 p3) (bit p2) (bit p1)) else
    if p0 = 9 then some (.and (.ofNat 5 p5) (.ofNat 5 p4) (.ofNat 5 p3) (bit p2) (bit p1)) else
    if p0 = 10 then some (.or (.ofNat 5 p5) (.ofNat 5 p4) (.ofNat 5 p3) (bit p2) (bit p1)) else
    if p0 = 11 then some (.xor (.ofNat 5 p5) (.ofNat 5 p4) (.ofNat 5 p3) (bit p2) (bit p1)) else
    if p0 = 12 then some (.andn (.ofNat 5 p5) (.ofNat 5 p4) (.ofNat 5 p3) (bit p2) (bit p1)) else
    if p0 = 13 then some (.shl (.ofNat 5 p5) (.ofNat 5 p4) (.ofNat 5 p3) (bit p2) (bit p1)) else
    if p0 = 14 then some (.shr (.ofNat 5 p5) (.ofNat 5 p4) (.ofNat 5 p3) (bit p2) (bit p1)) else
    if p0 = 15 then some (.sra (.ofNat 5 p5) (.ofNat 5 p4) (.ofNat 5 p3) (bit p2) (bit p1)) else
    if p0 = 16 then some (.rot (.ofNat 5 p5) (.ofNat 5 p4) (.ofNat 5 p3) (bit p2) (bit p1)) else
    if p0 = 17 then some (.slt (.ofNat 5 p5) (.ofNat 5 p4) (.ofNat 5 p3) (bit p2) (bit p1)) else
    if p0 = 18 then some (.sltn (.ofNat 5 p5) (.ofNat 5 p4) (.ofNat 5 p3) (bit p2) (bit p1)) else
    if p0 = 19 then some (.min (.ofNat 5 p5) (.ofNat 5 p4) (.ofNat 5 p3) (bit p2) (bit p1)) else
    if p0 = 20 then some (.max (.ofNat 5 p5) (.ofNat 5 p4) (.ofNat 5 p3) (bit p2) (bit p1)) else
    if p0 = 21 then some (.minn (.ofNat 5 p5) (.ofNat 5 p4) (.ofNat 5 p3) (bit p2) (bit p1)) else
    if p0 = 22 then some (.maxn (.ofNat 5 p5) (.ofNat 5 p4) (.ofNat 5 p3) (bit p2) (bit p1)) else
    if p0 = 23 ∧ p1 = 0 ∧ p3 = 0 then some (.clz (.ofNat 5 p5) (.ofNat 5 p4) (bit p2)) else
    if p0 = 24 ∧ p1 = 0 ∧ p3 = 0 then some (.ctz (.ofNat 5 p5) (.ofNat 5 p4) (bit p2)) else
    if p0 = 25 ∧ p1 = 0 ∧ p3 = 0 then some (.popc (.ofNat 5 p5) (.ofNat 5 p4) (bit p2)) else
    if p0 = 26 ∧ p1 = 0 ∧ p3 = 0 then some (.bswap (.ofNat 5 p5) (.ofNat 5 p4) (bit p2)) else
    if p0 = 27 then some (.bfx (.ofNat 5 p5) (.ofNat 5 p4) (.ofNat 5 p3) (bit p2) (bit p1)) else
    if p0 = 28 then some (.bfi (.ofNat 5 p5) (.ofNat 5 p4) (.ofNat 5 p3) (bit p2) (bit p1)) else
    none
  | _ => none

/-- Major opcode 0x02 (R56), from the pieces of the word, lowest bits first. -/
def decAddi : List Nat → Option Instr
  | [p0, p1, p2, p3] =>
    some (.addi (.ofNat 5 p3) (.ofNat 5 p2) (bit p1) (.ofNat 15 p0))
  | _ => none

/-- Major opcode 0x03 (R56), from the pieces of the word, lowest bits first. -/
def decAndi : List Nat → Option Instr
  | [p0, p1, p2, p3] =>
    some (.andi (.ofNat 5 p3) (.ofNat 5 p2) (bit p1) (.ofNat 15 p0))
  | _ => none

/-- Major opcode 0x04 (R56), from the pieces of the word, lowest bits first. -/
def decOri : List Nat → Option Instr
  | [p0, p1, p2, p3] =>
    some (.ori (.ofNat 5 p3) (.ofNat 5 p2) (bit p1) (.ofNat 15 p0))
  | _ => none

/-- Major opcode 0x05 (R56), from the pieces of the word, lowest bits first. -/
def decXori : List Nat → Option Instr
  | [p0, p1, p2, p3] =>
    some (.xori (.ofNat 5 p3) (.ofNat 5 p2) (bit p1) (.ofNat 15 p0))
  | _ => none

/-- Major opcode 0x06 (R58), from the pieces of the word, lowest bits first. -/
def decCompareImm : List Nat → Option Instr
  | [p0, p1, p2, p3, p4] =>
    if p1 = 0 then some (.slti (.ofNat 5 p4) (.ofNat 5 p3) (bit p2) (.ofNat 14 p0)) else
    if p1 = 1 then some (.sltni (.ofNat 5 p4) (.ofNat 5 p3) (bit p2) (.ofNat 14 p0)) else
    none
  | _ => none

/-- Major opcode 0x07 (R58), from the pieces of the word, lowest bits first. -/
def decShiftImm : List Nat → Option Instr
  | [p0, p1, p2, p3, p4, p5] =>
    if p1 = 0 ∧ p2 = 0 then some (.shli (.ofNat 5 p5) (.ofNat 5 p4) (bit p3) (.ofNat 6 p0)) else
    if p1 = 1 ∧ p2 = 0 then some (.shri (.ofNat 5 p5) (.ofNat 5 p4) (bit p3) (.ofNat 6 p0)) else
    if p1 = 2 ∧ p2 = 0 then some (.srai (.ofNat 5 p5) (.ofNat 5 p4) (bit p3) (.ofNat 6 p0)) else
    if p1 = 3 ∧ p2 = 0 then some (.roti (.ofNat 5 p5) (.ofNat 5 p4) (bit p3) (.ofNat 6 p0)) else
    none
  | _ => none

/-- Major opcode 0x08 (R56), from the pieces of the word, lowest bits first. -/
def decLih : List Nat → Option Instr
  | [p0, p1] =>
    some (.lih (.ofNat 5 p1) (.ofNat 21 p0))
  | _ => none

/-- Major opcode 0x10 (R56), from the pieces of the word, lowest bits first. -/
def decLd : List Nat → Option Instr
  | [p0, p1, p2, p3, p4] =>
    some (.ld (.ofNat 5 p4) (.ofNat 5 p3) (bit p2) (.ofNat 3 p1) (.ofNat 12 p0))
  | _ => none

/-- Major opcode 0x11 (R56), from the pieces of the word, lowest bits first. -/
def decSt : List Nat → Option Instr
  | [p0, p1, p2, p3, p4] =>
    if p1 < 4 then some (.st (.ofNat 5 p4) (.ofNat 5 p3) (bit p2) (.ofNat 2 p1) (.ofNat 12 p0)) else
    none
  | _ => none

/-- Major opcode 0x12 (R56), from the pieces of the word, lowest bits first. -/
def decLdc : List Nat → Option Instr
  | [p0, p1, p2, p3, p4] =>
    if p1 = 0 then some (.ldc (.ofNat 5 p4) (.ofNat 5 p3) (bit p2) (.ofNat 12 p0)) else
    none
  | _ => none

/-- Major opcode 0x13 (R56), from the pieces of the word, lowest bits first. -/
def decStc : List Nat → Option Instr
  | [p0, p1, p2, p3, p4] =>
    if p1 = 0 then some (.stc (.ofNat 5 p4) (.ofNat 5 p3) (bit p2) (.ofNat 12 p0)) else
    none
  | _ => none

/-- Major opcode 0x14 (R56), from the pieces of the word, lowest bits first. -/
def decLdw : List Nat → Option Instr
  | [p0, p1, p2, p3, p4] =>
    some (.ldw (.ofNat 5 p4) (.ofNat 5 p3) (bit p2) (.ofNat 3 p1) (.ofNat 12 p0))
  | _ => none

/-- Major opcode 0x15 (R56), from the pieces of the word, lowest bits first. -/
def decStf : List Nat → Option Instr
  | [p0, p1, p2, p3, p4] =>
    if p1 = 3 then some (.stf (.ofNat 5 p4) (.ofNat 5 p3) (bit p2) (.ofNat 12 p0)) else
    if p1 = 7 ∧ p4 = 0 then some (.clrf (.ofNat 5 p3) (bit p2) (.ofNat 12 p0)) else
    none
  | _ => none

/-- Major opcode 0x16 (R60, Table 02-6), from the pieces of the word, lowest bits first. -/
def decBits : List Nat → Option Instr
  | [p0, p1, p2, p3, p4, p5, p6] =>
    if p0 = 0 ∧ p3 = 0 then some (.ldb (.ofNat 5 p6) (.ofNat 5 p5) (bit p4) (.ofNat 5 p2) (.ofNat 5 p1)) else
    if p0 = 0 ∧ p3 = 1 then some (.ldbx (.ofNat 5 p6) (.ofNat 5 p5) (bit p4) (.ofNat 5 p2) (.ofNat 5 p1)) else
    if p0 = 0 ∧ p3 = 2 then some (.stb (.ofNat 5 p6) (.ofNat 5 p5) (bit p4) (.ofNat 5 p2) (.ofNat 5 p1)) else
    none
  | _ => none

/-- Major opcode 0x17 (R56), from the pieces of the word, lowest bits first. -/
def decFld : List Nat → Option Instr
  | [p0, p1, p2, p3, p4] =>
    if p1 < 4 then some (.fld (.ofNat 5 p4) (.ofNat 5 p3) (bit p2) (.ofNat 2 p1) (.ofNat 12 p0)) else
    none
  | _ => none

/-- Major opcode 0x18 (R56), from the pieces of the word, lowest bits first. -/
def decFst : List Nat → Option Instr
  | [p0, p1, p2, p3, p4] =>
    if p1 < 4 then some (.fst (.ofNat 5 p4) (.ofNat 5 p3) (bit p2) (.ofNat 2 p1) (.ofNat 12 p0)) else
    none
  | _ => none

/-- Major opcode 0x1C (R61), from the pieces of the word, lowest bits first. -/
def decAtomic : List Nat → Option Instr
  | [p0, p1, p2, p3, p4, p5, p6, p7] =>
    if p2 = 0 then some (.aadd (.ofNat 5 p7) (.ofNat 5 p6) (.ofNat 5 p5) (bit p4) (bit p3) (.ofNat 2 p1) (.ofNat 3 p0)) else
    if p2 = 1 then some (.aand (.ofNat 5 p7) (.ofNat 5 p6) (.ofNat 5 p5) (bit p4) (bit p3) (.ofNat 2 p1) (.ofNat 3 p0)) else
    if p2 = 2 then some (.aor (.ofNat 5 p7) (.ofNat 5 p6) (.ofNat 5 p5) (bit p4) (bit p3) (.ofNat 2 p1) (.ofNat 3 p0)) else
    if p2 = 3 then some (.axor (.ofNat 5 p7) (.ofNat 5 p6) (.ofNat 5 p5) (bit p4) (bit p3) (.ofNat 2 p1) (.ofNat 3 p0)) else
    if p2 = 4 then some (.amin (.ofNat 5 p7) (.ofNat 5 p6) (.ofNat 5 p5) (bit p4) (bit p3) (.ofNat 2 p1) (.ofNat 3 p0)) else
    if p2 = 5 then some (.amax (.ofNat 5 p7) (.ofNat 5 p6) (.ofNat 5 p5) (bit p4) (bit p3) (.ofNat 2 p1) (.ofNat 3 p0)) else
    if p2 = 6 then some (.aminn (.ofNat 5 p7) (.ofNat 5 p6) (.ofNat 5 p5) (bit p4) (bit p3) (.ofNat 2 p1) (.ofNat 3 p0)) else
    if p2 = 7 then some (.amaxn (.ofNat 5 p7) (.ofNat 5 p6) (.ofNat 5 p5) (bit p4) (bit p3) (.ofNat 2 p1) (.ofNat 3 p0)) else
    if p2 = 8 then some (.aswap (.ofNat 5 p7) (.ofNat 5 p6) (.ofNat 5 p5) (bit p4) (bit p3) (.ofNat 2 p1) (.ofNat 3 p0)) else
    if p2 = 9 then some (.aaddz (.ofNat 5 p7) (.ofNat 5 p6) (.ofNat 5 p5) (bit p4) (bit p3) (.ofNat 2 p1) (.ofNat 3 p0)) else
    none
  | _ => none

/-- Major opcode 0x1D (R61), from the pieces of the word, lowest bits first. -/
def decAtomicFloat : List Nat → Option Instr
  | [p0, p1, p2, p3, p4, p5, p6, p7, p8] =>
    if p2 = 0 then some (.afadd (.ofNat 5 p8) (.ofNat 5 p7) (.ofNat 5 p6) (bit p5) (bit p4) (bit p3) (.ofNat 2 p1) (.ofNat 3 p0)) else
    if p2 = 1 then some (.afmin (.ofNat 5 p8) (.ofNat 5 p7) (.ofNat 5 p6) (bit p5) (bit p4) (bit p3) (.ofNat 2 p1) (.ofNat 3 p0)) else
    if p2 = 2 then some (.afmax (.ofNat 5 p8) (.ofNat 5 p7) (.ofNat 5 p6) (bit p5) (bit p4) (bit p3) (.ofNat 2 p1) (.ofNat 3 p0)) else
    if p2 = 3 then some (.afminn (.ofNat 5 p8) (.ofNat 5 p7) (.ofNat 5 p6) (bit p5) (bit p4) (bit p3) (.ofNat 2 p1) (.ofNat 3 p0)) else
    if p2 = 4 then some (.afmaxn (.ofNat 5 p8) (.ofNat 5 p7) (.ofNat 5 p6) (bit p5) (bit p4) (bit p3) (.ofNat 2 p1) (.ofNat 3 p0)) else
    none
  | _ => none

/-- Major opcode 0x1E (R61), from the pieces of the word, lowest bits first. -/
def decCas : List Nat → Option Instr
  | [p0, p1, p2, p3, p4, p5, p6, p7] =>
    if p2 = 0 then some (.cas (.ofNat 5 p7) (.ofNat 5 p6) (.ofNat 5 p5) (bit p4) (bit p3) (.ofNat 2 p1) (.ofNat 3 p0)) else
    none
  | _ => none

/-- Major opcode 0x20 (R59), from the pieces of the word, lowest bits first. -/
def decBranch : List Nat → Option Instr
  | [p0, p1, p2, p3, p4, p5] =>
    if p1 = 0 then some (.beq (.ofNat 5 p5) (.ofNat 5 p4) (bit p3) (bit p2) (.ofNat 11 p0)) else
    if p1 = 1 then some (.bne (.ofNat 5 p5) (.ofNat 5 p4) (bit p3) (bit p2) (.ofNat 11 p0)) else
    if p1 = 2 then some (.blt (.ofNat 5 p5) (.ofNat 5 p4) (bit p3) (bit p2) (.ofNat 11 p0)) else
    if p1 = 3 then some (.bge (.ofNat 5 p5) (.ofNat 5 p4) (bit p3) (bit p2) (.ofNat 11 p0)) else
    if p1 = 4 then some (.bltn (.ofNat 5 p5) (.ofNat 5 p4) (bit p3) (bit p2) (.ofNat 11 p0)) else
    if p1 = 5 then some (.bgen (.ofNat 5 p5) (.ofNat 5 p4) (bit p3) (bit p2) (.ofNat 11 p0)) else
    none
  | _ => none

/-- Major opcode 0x21 (R56), from the pieces of the word, lowest bits first. -/
def decJal : List Nat → Option Instr
  | [p0, p1] =>
    some (.jal (.ofNat 5 p1) (.ofNat 21 p0))
  | _ => none

/-- Major opcode 0x22 (R56), from the pieces of the word, lowest bits first. -/
def decJalr : List Nat → Option Instr
  | [p0, p1, p2, p3] =>
    some (.jalr (.ofNat 5 p3) (.ofNat 5 p2) (bit p1) (.ofNat 15 p0))
  | _ => none

/-- Major opcode 0x23 (R59), from the pieces of the word, lowest bits first. -/
def decFlow : List Nat → Option Instr
  | [p0, p1, p2, p3, p4, p5] =>
    if p0 = 2 ∧ p1 = 0 ∧ p3 = 0 ∧ p5 = 0 then some (.delay (.ofNat 5 p4) (bit p2)) else
    if p0 = 0 ∧ p1 = 0 ∧ p2 = 0 ∧ p3 = 0 ∧ p4 = 0 ∧ p5 = 0 then some (.nop) else
    if p0 = 1 ∧ p1 = 0 ∧ p2 = 0 ∧ p3 = 0 ∧ p4 = 0 ∧ p5 = 0 then some (.endFiring) else
    if p0 = 3 ∧ p1 = 0 ∧ p2 = 0 ∧ p3 = 0 ∧ p4 = 0 ∧ p5 = 0 then some (.retire) else
    none
  | _ => none

/-- Major opcode 0x24 (R62), from the pieces of the word, lowest bits first. -/
def decSync : List Nat → Option Instr
  | [p0, p1, p2, p3, p4, p5, p6, p7] =>
    if p2 = 0 ∧ p3 = 0 ∧ p4 = 0 ∧ p5 = 0 ∧ p6 = 0 ∧ p7 = 0 then some (.fence (.ofNat 2 p1) (.ofNat 3 p0)) else
    if p0 = 0 ∧ p1 = 0 ∧ p2 = 1 then some (.waita (.ofNat 5 p7) (.ofNat 5 p6) (.ofNat 5 p5) (bit p4) (bit p3)) else
    if p0 = 0 ∧ p1 = 0 ∧ p2 = 4 ∧ p3 = 0 ∧ p5 = 0 then some (.bmin (.ofNat 5 p7) (.ofNat 5 p6) (bit p4)) else
    if p0 = 0 ∧ p1 = 0 ∧ p2 = 2 ∧ p3 = 0 ∧ p4 = 0 ∧ p5 = 0 ∧ p6 = 0 ∧ p7 = 0 then some (.cbar) else
    if p0 = 0 ∧ p1 = 0 ∧ p2 = 3 ∧ p3 = 0 ∧ p4 = 0 ∧ p5 = 0 ∧ p6 = 0 ∧ p7 = 0 then some (.gbar) else
    none
  | _ => none

/-- Major opcode 0x25 (R63), from the pieces of the word, lowest bits first. -/
def decMessage : List Nat → Option Instr
  | [p0, p1, p2, p3, p4, p5, p6, p7] =>
    if p1 = 0 ∧ p2 = 0 ∧ p3 = 0 ∧ p4 = 0 ∧ p5 = 0 ∧ p6 = 0 then some (.pbindRecv (.ofNat 5 p7) (.ofNat 3 p0)) else
    if p0 = 0 ∧ p1 = 1 ∧ p2 = 0 ∧ p3 = 0 ∧ p5 = 0 then some (.pbindStream (.ofNat 5 p7) (.ofNat 5 p6) (bit p4)) else
    if p1 = 2 ∧ p2 = 0 ∧ p3 = 0 ∧ p4 = 0 ∧ p5 = 0 ∧ p6 = 0 then some (.pbindSend (.ofNat 5 p7) (.ofNat 3 p0)) else
    if p0 = 0 ∧ p1 = 0 ∧ p2 = 1 ∧ p3 = 0 ∧ p4 = 0 ∧ p5 = 0 ∧ p6 = 0 then some (.punbind (.ofNat 5 p7)) else
    if p1 = 0 ∧ p2 = 2 ∧ p7 = 0 then some (.msend (.ofNat 5 p6) (.ofNat 5 p5) (bit p4) (bit p3) (.ofNat 3 p0)) else
    if p1 = 0 ∧ p2 = 3 ∧ p3 = 0 ∧ p4 = 0 ∧ p5 = 0 ∧ p6 = 0 then some (.mcount (.ofNat 5 p7) (.ofNat 3 p0)) else
    if p1 = 0 ∧ p2 = 4 ∧ p3 = 0 ∧ p4 = 0 ∧ p5 = 0 ∧ p6 = 0 then some (.mstat (.ofNat 5 p7) (.ofNat 3 p0)) else
    if p1 = 0 ∧ p2 = 5 ∧ p3 = 0 ∧ p5 = 0 ∧ p7 = 0 then some (.mbind (.ofNat 5 p6) (bit p4) (.ofNat 3 p0)) else
    none
  | _ => none

/-- Major opcode 0x26 (R64), from the pieces of the word, lowest bits first. -/
def decTour : List Nat → Option Instr
  | [p0, p1, p2, p3, p4, p5] =>
    if p0 = 0 then some (.tour (.ofNat 5 p5) (.ofNat 5 p4) (.ofNat 5 p3) (bit p2) (bit p1)) else
    if p0 = 1 ∧ p1 = 0 ∧ p3 = 0 ∧ p5 = 0 then some (.cast (.ofNat 5 p4) (bit p2)) else
    if p0 = 2 ∧ p1 = 0 ∧ p3 = 0 then some (.tstat (.ofNat 5 p5) (.ofNat 5 p4) (bit p2)) else
    if p0 = 3 ∧ p1 = 0 ∧ p3 = 0 then some (.tslot (.ofNat 5 p5) (.ofNat 5 p4) (bit p2)) else
    none
  | _ => none

/-- Major opcode 0x27 (R65), from the pieces of the word, lowest bits first. -/
def decCapability : List Nat → Option Instr
  | [p0, p1, p2, p3, p4, p5] =>
    if p0 = 0 ∧ p1 = 0 ∧ p3 = 0 then some (.cmov (.ofNat 5 p5) (.ofNat 5 p4) (bit p2)) else
    if p0 = 1 then some (.cbnd (.ofNat 5 p5) (.ofNat 5 p4) (.ofNat 5 p3) (bit p2) (bit p1)) else
    if p0 = 2 then some (.cadd (.ofNat 5 p5) (.ofNat 5 p4) (.ofNat 5 p3) (bit p2) (bit p1)) else
    if p0 = 3 then some (.cset (.ofNat 5 p5) (.ofNat 5 p4) (.ofNat 5 p3) (bit p2) (bit p1)) else
    if p0 = 4 then some (.cperm (.ofNat 5 p5) (.ofNat 5 p4) (.ofNat 5 p3) (bit p2) (bit p1)) else
    if p0 = 5 ∧ p1 = 0 ∧ p3 = 0 then some (.cbase (.ofNat 5 p5) (.ofNat 5 p4) (bit p2)) else
    if p0 = 6 ∧ p1 = 0 ∧ p3 = 0 then some (.clen (.ofNat 5 p5) (.ofNat 5 p4) (bit p2)) else
    if p0 = 7 ∧ p1 = 0 ∧ p3 = 0 then some (.ccur (.ofNat 5 p5) (.ofNat 5 p4) (bit p2)) else
    if p0 = 8 ∧ p1 = 0 ∧ p3 = 0 then some (.cprm (.ofNat 5 p5) (.ofNat 5 p4) (bit p2)) else
    if p0 = 9 ∧ p1 = 0 ∧ p3 = 0 then some (.ctag (.ofNat 5 p5) (.ofNat 5 p4) (bit p2)) else
    if p0 = 10 ∧ p1 = 0 ∧ p3 = 0 then some (.cclr (.ofNat 5 p5) (.ofNat 5 p4) (bit p2)) else
    none
  | _ => none

/-- Major opcode 0x28 (R66), from the pieces of the word, lowest bits first. -/
def decSystem : List Nat → Option Instr
  | [p0, p1, p2, p3, p4] =>
    if p1 = 0 ∧ p2 = 0 ∧ p3 = 0 then some (.rds (.ofNat 5 p4) (.ofNat 12 p0)) else
    if p1 = 1 ∧ p4 = 0 then some (.wrs (.ofNat 5 p3) (bit p2) (.ofNat 12 p0)) else
    if p1 = 2 ∧ p2 = 0 ∧ p3 = 0 ∧ p4 = 0 then some (.trap (.ofNat 12 p0)) else
    if p0 = 0 ∧ p1 = 4 ∧ p2 = 0 ∧ p3 = 0 then some (.time (.ofNat 5 p4)) else
    if p0 = 0 ∧ p1 = 5 then some (.tlbw (.ofNat 5 p4) (.ofNat 5 p3) (bit p2)) else
    if p0 = 0 ∧ p1 = 6 ∧ p4 = 0 then some (.tlbinv (.ofNat 5 p3) (bit p2)) else
    if p0 = 0 ∧ p1 = 3 ∧ p2 = 0 ∧ p3 = 0 ∧ p4 = 0 then some (.snap) else
    none
  | _ => none

/-- Major opcode 0x30 (R67), from the pieces of the word, lowest bits first. -/
def decFloat : List Nat → Option Instr
  | [p0, p1, p2, p3, p4, p5, p6] =>
    if p1 = 0 then some (.fadd (.ofNat 5 p6) (.ofNat 5 p5) (.ofNat 5 p4) (bit p3) (bit p2) (.ofNat 2 p0)) else
    if p1 = 1 then some (.fsub (.ofNat 5 p6) (.ofNat 5 p5) (.ofNat 5 p4) (bit p3) (bit p2) (.ofNat 2 p0)) else
    if p1 = 2 then some (.fmul (.ofNat 5 p6) (.ofNat 5 p5) (.ofNat 5 p4) (bit p3) (bit p2) (.ofNat 2 p0)) else
    if p1 = 3 then some (.fdiv (.ofNat 5 p6) (.ofNat 5 p5) (.ofNat 5 p4) (bit p3) (bit p2) (.ofNat 2 p0)) else
    if p1 = 4 ∧ p2 = 0 ∧ p4 = 0 then some (.fsqrt (.ofNat 5 p6) (.ofNat 5 p5) (bit p3) (.ofNat 2 p0)) else
    if p1 = 5 then some (.fmin (.ofNat 5 p6) (.ofNat 5 p5) (.ofNat 5 p4) (bit p3) (bit p2) (.ofNat 2 p0)) else
    if p1 = 6 then some (.fmax (.ofNat 5 p6) (.ofNat 5 p5) (.ofNat 5 p4) (bit p3) (bit p2) (.ofNat 2 p0)) else
    if p1 = 7 then some (.fminn (.ofNat 5 p6) (.ofNat 5 p5) (.ofNat 5 p4) (bit p3) (bit p2) (.ofNat 2 p0)) else
    if p1 = 8 then some (.fmaxn (.ofNat 5 p6) (.ofNat 5 p5) (.ofNat 5 p4) (bit p3) (bit p2) (.ofNat 2 p0)) else
    if p1 = 9 ∧ p2 = 0 ∧ p4 = 0 then some (.fabs (.ofNat 5 p6) (.ofNat 5 p5) (bit p3) (.ofNat 2 p0)) else
    if p1 = 10 ∧ p2 = 0 ∧ p4 = 0 then some (.fneg (.ofNat 5 p6) (.ofNat 5 p5) (bit p3) (.ofNat 2 p0)) else
    if p1 = 11 then some (.feq (.ofNat 5 p6) (.ofNat 5 p5) (.ofNat 5 p4) (bit p3) (bit p2) (.ofNat 2 p0)) else
    if p1 = 12 then some (.flt (.ofNat 5 p6) (.ofNat 5 p5) (.ofNat 5 p4) (bit p3) (bit p2) (.ofNat 2 p0)) else
    if p1 = 13 then some (.fle (.ofNat 5 p6) (.ofNat 5 p5) (.ofNat 5 p4) (bit p3) (bit p2) (.ofNat 2 p0)) else
    if p1 = 14 ∧ p2 = 0 ∧ p4 = 0 then some (.fclass (.ofNat 5 p6) (.ofNat 5 p5) (bit p3) (.ofNat 2 p0)) else
    if p0 = 0 ∧ p1 = 15 ∧ p2 = 0 ∧ p4 = 0 then some (.fmvx (.ofNat 5 p6) (.ofNat 5 p5) (bit p3)) else
    if p0 = 0 ∧ p1 = 16 ∧ p2 = 0 ∧ p4 = 0 then some (.fmvf (.ofNat 5 p6) (.ofNat 5 p5) (bit p3)) else
    none
  | _ => none

/-- Major opcode 0x31 (R68), from the pieces of the word, lowest bits first. -/
def decFma : List Nat → Option Instr
  | [p0, p1, p2, p3, p4, p5, p6] =>
    if p0 = 0 ∧ p1 = 0 then some (.fmadd (.ofNat 5 p6) (.ofNat 5 p5) (.ofNat 5 p4) (.ofNat 5 p3) (.ofNat 2 p2)) else
    if p0 = 0 ∧ p1 = 1 then some (.fmsub (.ofNat 5 p6) (.ofNat 5 p5) (.ofNat 5 p4) (.ofNat 5 p3) (.ofNat 2 p2)) else
    if p0 = 0 ∧ p1 = 2 then some (.fnmsub (.ofNat 5 p6) (.ofNat 5 p5) (.ofNat 5 p4) (.ofNat 5 p3) (.ofNat 2 p2)) else
    if p0 = 0 ∧ p1 = 3 then some (.fnmadd (.ofNat 5 p6) (.ofNat 5 p5) (.ofNat 5 p4) (.ofNat 5 p3) (.ofNat 2 p2)) else
    none
  | _ => none

/-- Major opcode 0x34 (R69), from the pieces of the word, lowest bits first. -/
def decVectorInt : List Nat → Option Instr
  | [p0, p1, p2, p3, p4, p5] =>
    if p0 = 0 then some (.vadd (.ofNat 5 p5) (.ofNat 5 p4) (.ofNat 5 p3) (.ofNat 3 p2) (bit p1)) else
    if p0 = 1 then some (.vsub (.ofNat 5 p5) (.ofNat 5 p4) (.ofNat 5 p3) (.ofNat 3 p2) (bit p1)) else
    if p0 = 2 then some (.vmul (.ofNat 5 p5) (.ofNat 5 p4) (.ofNat 5 p3) (.ofNat 3 p2) (bit p1)) else
    if p0 = 3 then some (.vmulh (.ofNat 5 p5) (.ofNat 5 p4) (.ofNat 5 p3) (.ofNat 3 p2) (bit p1)) else
    if p0 = 4 then some (.vmulhn (.ofNat 5 p5) (.ofNat 5 p4) (.ofNat 5 p3) (.ofNat 3 p2) (bit p1)) else
    if p0 = 5 then some (.vand (.ofNat 5 p5) (.ofNat 5 p4) (.ofNat 5 p3) (.ofNat 3 p2) (bit p1)) else
    if p0 = 6 then some (.vor (.ofNat 5 p5) (.ofNat 5 p4) (.ofNat 5 p3) (.ofNat 3 p2) (bit p1)) else
    if p0 = 7 then some (.vxor (.ofNat 5 p5) (.ofNat 5 p4) (.ofNat 5 p3) (.ofNat 3 p2) (bit p1)) else
    if p0 = 8 then some (.vandn (.ofNat 5 p5) (.ofNat 5 p4) (.ofNat 5 p3) (.ofNat 3 p2) (bit p1)) else
    if p0 = 9 then some (.vshl (.ofNat 5 p5) (.ofNat 5 p4) (.ofNat 5 p3) (.ofNat 3 p2) (bit p1)) else
    if p0 = 10 then some (.vshr (.ofNat 5 p5) (.ofNat 5 p4) (.ofNat 5 p3) (.ofNat 3 p2) (bit p1)) else
    if p0 = 11 then some (.vsra (.ofNat 5 p5) (.ofNat 5 p4) (.ofNat 5 p3) (.ofNat 3 p2) (bit p1)) else
    if p0 = 12 then some (.vmin (.ofNat 5 p5) (.ofNat 5 p4) (.ofNat 5 p3) (.ofNat 3 p2) (bit p1)) else
    if p0 = 13 then some (.vmax (.ofNat 5 p5) (.ofNat 5 p4) (.ofNat 5 p3) (.ofNat 3 p2) (bit p1)) else
    if p0 = 14 then some (.vminn (.ofNat 5 p5) (.ofNat 5 p4) (.ofNat 5 p3) (.ofNat 3 p2) (bit p1)) else
    if p0 = 15 then some (.vmaxn (.ofNat 5 p5) (.ofNat 5 p4) (.ofNat 5 p3) (.ofNat 3 p2) (bit p1)) else
    if p0 = 16 then some (.vadds (.ofNat 5 p5) (.ofNat 5 p4) (.ofNat 5 p3) (.ofNat 3 p2) (bit p1)) else
    if p0 = 17 then some (.vaddsn (.ofNat 5 p5) (.ofNat 5 p4) (.ofNat 5 p3) (.ofNat 3 p2) (bit p1)) else
    if p0 = 18 then some (.vsubs (.ofNat 5 p5) (.ofNat 5 p4) (.ofNat 5 p3) (.ofNat 3 p2) (bit p1)) else
    if p0 = 19 then some (.vsubsn (.ofNat 5 p5) (.ofNat 5 p4) (.ofNat 5 p3) (.ofNat 3 p2) (bit p1)) else
    if p0 = 20 ∧ p5 < 8 then some (.vseq (.ofNat 3 p5) (.ofNat 5 p4) (.ofNat 5 p3) (.ofNat 3 p2) (bit p1)) else
    if p0 = 21 ∧ p5 < 8 then some (.vslt (.ofNat 3 p5) (.ofNat 5 p4) (.ofNat 5 p3) (.ofNat 3 p2) (bit p1)) else
    if p0 = 22 ∧ p5 < 8 then some (.vsltn (.ofNat 3 p5) (.ofNat 5 p4) (.ofNat 5 p3) (.ofNat 3 p2) (bit p1)) else
    none
  | _ => none

/-- Major opcode 0x35 (R69), from the pieces of the word, lowest bits first. -/
def decVectorFloat : List Nat → Option Instr
  | [p0, p1, p2, p3, p4, p5, p6] =>
    if p0 = 0 then some (.vfadd (.ofNat 5 p6) (.ofNat 5 p5) (.ofNat 5 p4) (.ofNat 3 p3) (bit p2) (.ofNat 2 p1)) else
    if p0 = 1 then some (.vfsub (.ofNat 5 p6) (.ofNat 5 p5) (.ofNat 5 p4) (.ofNat 3 p3) (bit p2) (.ofNat 2 p1)) else
    if p0 = 2 then some (.vfmul (.ofNat 5 p6) (.ofNat 5 p5) (.ofNat 5 p4) (.ofNat 3 p3) (bit p2) (.ofNat 2 p1)) else
    if p0 = 3 then some (.vfdiv (.ofNat 5 p6) (.ofNat 5 p5) (.ofNat 5 p4) (.ofNat 3 p3) (bit p2) (.ofNat 2 p1)) else
    if p0 = 4 ∧ p2 = 0 ∧ p4 = 0 then some (.vfsqrt (.ofNat 5 p6) (.ofNat 5 p5) (.ofNat 3 p3) (.ofNat 2 p1)) else
    if p0 = 5 then some (.vfmin (.ofNat 5 p6) (.ofNat 5 p5) (.ofNat 5 p4) (.ofNat 3 p3) (bit p2) (.ofNat 2 p1)) else
    if p0 = 6 then some (.vfmax (.ofNat 5 p6) (.ofNat 5 p5) (.ofNat 5 p4) (.ofNat 3 p3) (bit p2) (.ofNat 2 p1)) else
    if p0 = 7 then some (.vfminn (.ofNat 5 p6) (.ofNat 5 p5) (.ofNat 5 p4) (.ofNat 3 p3) (bit p2) (.ofNat 2 p1)) else
    if p0 = 8 then some (.vfmaxn (.ofNat 5 p6) (.ofNat 5 p5) (.ofNat 5 p4) (.ofNat 3 p3) (bit p2) (.ofNat 2 p1)) else
    if p0 = 9 then some (.vfma (.ofNat 5 p6) (.ofNat 5 p5) (.ofNat 5 p4) (.ofNat 3 p3) (bit p2) (.ofNat 2 p1)) else
    if p0 = 10 then some (.vfms (.ofNat 5 p6) (.ofNat 5 p5) (.ofNat 5 p4) (.ofNat 3 p3) (bit p2) (.ofNat 2 p1)) else
    if p0 = 11 ∧ p2 = 0 ∧ p4 = 0 then some (.vfabs (.ofNat 5 p6) (.ofNat 5 p5) (.ofNat 3 p3) (.ofNat 2 p1)) else
    if p0 = 12 ∧ p2 = 0 ∧ p4 = 0 then some (.vfneg (.ofNat 5 p6) (.ofNat 5 p5) (.ofNat 3 p3) (.ofNat 2 p1)) else
    if p0 = 13 ∧ p6 < 8 then some (.vfeq (.ofNat 3 p6) (.ofNat 5 p5) (.ofNat 5 p4) (.ofNat 3 p3) (bit p2) (.ofNat 2 p1)) else
    if p0 = 14 ∧ p6 < 8 then some (.vflt (.ofNat 3 p6) (.ofNat 5 p5) (.ofNat 5 p4) (.ofNat 3 p3) (bit p2) (.ofNat 2 p1)) else
    if p0 = 15 ∧ p6 < 8 then some (.vfle (.ofNat 3 p6) (.ofNat 5 p5) (.ofNat 5 p4) (.ofNat 3 p3) (bit p2) (.ofNat 2 p1)) else
    if p0 = 16 ∧ p2 = 0 ∧ p4 = 0 then some (.vfrec (.ofNat 5 p6) (.ofNat 5 p5) (.ofNat 3 p3) (.ofNat 2 p1)) else
    if p0 = 17 ∧ p2 = 0 ∧ p4 = 0 then some (.vfrsq (.ofNat 5 p6) (.ofNat 5 p5) (.ofNat 3 p3) (.ofNat 2 p1)) else
    if p0 = 18 ∧ p2 = 0 ∧ p4 = 0 then some (.vfexp2 (.ofNat 5 p6) (.ofNat 5 p5) (.ofNat 3 p3) (.ofNat 2 p1)) else
    if p0 = 19 ∧ p2 = 0 ∧ p4 = 0 then some (.vflog2 (.ofNat 5 p6) (.ofNat 5 p5) (.ofNat 3 p3) (.ofNat 2 p1)) else
    if p0 = 20 ∧ p2 = 0 ∧ p4 = 0 then some (.vfredsum (.ofNat 5 p6) (.ofNat 5 p5) (.ofNat 3 p3) (.ofNat 2 p1)) else
    if p0 = 21 ∧ p2 = 0 ∧ p4 = 0 then some (.vfredmin (.ofNat 5 p6) (.ofNat 5 p5) (.ofNat 3 p3) (.ofNat 2 p1)) else
    if p0 = 22 ∧ p2 = 0 ∧ p4 = 0 then some (.vfredmax (.ofNat 5 p6) (.ofNat 5 p5) (.ofNat 3 p3) (.ofNat 2 p1)) else
    none
  | _ => none

/-- Major opcode 0x36 (R69), from the pieces of the word, lowest bits first. -/
def decPermute : List Nat → Option Instr
  | [p0, p1, p2, p3, p4] =>
    if p0 = 0 ∧ p2 = 0 then some (.vmv (.ofNat 5 p4) (.ofNat 5 p3) (.ofNat 3 p1)) else
    if p0 = 1 ∧ p2 = 0 then some (.vbcast (.ofNat 5 p4) (.ofNat 5 p3) (.ofNat 3 p1)) else
    if p0 = 2 ∧ p2 = 0 then some (.vbcastf (.ofNat 5 p4) (.ofNat 5 p3) (.ofNat 3 p1)) else
    if p0 = 3 then some (.vslideup (.ofNat 5 p4) (.ofNat 5 p3) (.ofNat 5 p2) (.ofNat 3 p1)) else
    if p0 = 4 then some (.vslidedn (.ofNat 5 p4) (.ofNat 5 p3) (.ofNat 5 p2) (.ofNat 3 p1)) else
    if p0 = 5 then some (.vgather (.ofNat 5 p4) (.ofNat 5 p3) (.ofNat 5 p2) (.ofNat 3 p1)) else
    if p0 = 6 ∧ p2 = 0 then some (.vcompress (.ofNat 5 p4) (.ofNat 5 p3) (.ofNat 3 p1)) else
    if p0 = 7 ∧ p2 = 0 then some (.vexpand (.ofNat 5 p4) (.ofNat 5 p3) (.ofNat 3 p1)) else
    if p0 = 8 ∧ p1 = 0 then some (.vext (.ofNat 5 p4) (.ofNat 5 p3) (.ofNat 5 p2)) else
    if p0 = 9 ∧ p1 = 0 then some (.vins (.ofNat 5 p4) (.ofNat 5 p3) (.ofNat 5 p2)) else
    if p0 = 10 ∧ p2 = 0 then some (.vredadd (.ofNat 5 p4) (.ofNat 5 p3) (.ofNat 3 p1)) else
    if p0 = 11 ∧ p2 = 0 then some (.vredmin (.ofNat 5 p4) (.ofNat 5 p3) (.ofNat 3 p1)) else
    if p0 = 12 ∧ p2 = 0 then some (.vredmax (.ofNat 5 p4) (.ofNat 5 p3) (.ofNat 3 p1)) else
    if p0 = 13 ∧ p2 = 0 then some (.vredminn (.ofNat 5 p4) (.ofNat 5 p3) (.ofNat 3 p1)) else
    if p0 = 14 ∧ p2 = 0 then some (.vredmaxn (.ofNat 5 p4) (.ofNat 5 p3) (.ofNat 3 p1)) else
    if p0 = 15 ∧ p1 = 0 ∧ p2 < 8 ∧ p3 < 8 ∧ p4 < 8 then some (.mand (.ofNat 3 p4) (.ofNat 3 p3) (.ofNat 3 p2)) else
    if p0 = 16 ∧ p1 = 0 ∧ p2 < 8 ∧ p3 < 8 ∧ p4 < 8 then some (.mor (.ofNat 3 p4) (.ofNat 3 p3) (.ofNat 3 p2)) else
    if p0 = 17 ∧ p1 = 0 ∧ p2 < 8 ∧ p3 < 8 ∧ p4 < 8 then some (.mxor (.ofNat 3 p4) (.ofNat 3 p3) (.ofNat 3 p2)) else
    if p0 = 18 ∧ p1 = 0 ∧ p2 = 0 ∧ p3 < 8 ∧ p4 < 8 then some (.mnot (.ofNat 3 p4) (.ofNat 3 p3)) else
    if p0 = 19 ∧ p1 = 0 ∧ p2 = 0 ∧ p3 < 8 then some (.mpopc (.ofNat 5 p4) (.ofNat 3 p3)) else
    if p0 = 20 ∧ p1 = 0 ∧ p2 = 0 ∧ p3 < 8 then some (.mfirst (.ofNat 5 p4) (.ofNat 3 p3)) else
    if p0 = 21 ∧ p1 = 0 ∧ p2 = 0 then some (.vsetvl (.ofNat 5 p4) (.ofNat 5 p3)) else
    if p0 = 22 ∧ p1 = 0 ∧ p2 = 0 then some (.vclaim (.ofNat 5 p4) (.ofNat 5 p3)) else
    if p0 = 23 ∧ p1 = 0 ∧ p2 = 0 ∧ p3 = 0 ∧ p4 = 0 then some (.vrelease) else
    none
  | _ => none

/-- Major opcode 0x37 (R70), from the pieces of the word, lowest bits first. -/
def decVectorMemory : List Nat → Option Instr
  | [p0, p1, p2, p3, p4, p5, p6] =>
    if p0 = 0 ∧ p2 = 0 ∧ p4 = 0 then some (.vld (.ofNat 5 p6) (.ofNat 5 p5) (.ofNat 3 p3) (.ofNat 2 p1)) else
    if p0 = 0 ∧ p2 = 1 ∧ p4 = 0 then some (.vst (.ofNat 5 p6) (.ofNat 5 p5) (.ofNat 3 p3) (.ofNat 2 p1)) else
    if p0 = 0 ∧ p2 = 2 then some (.vlds (.ofNat 5 p6) (.ofNat 5 p5) (.ofNat 5 p4) (.ofNat 3 p3) (.ofNat 2 p1)) else
    if p0 = 0 ∧ p2 = 3 then some (.vsts (.ofNat 5 p6) (.ofNat 5 p5) (.ofNat 5 p4) (.ofNat 3 p3) (.ofNat 2 p1)) else
    if p0 = 0 ∧ p2 = 4 then some (.vldx (.ofNat 5 p6) (.ofNat 5 p5) (.ofNat 5 p4) (.ofNat 3 p3) (.ofNat 2 p1)) else
    if p0 = 0 ∧ p2 = 5 then some (.vstx (.ofNat 5 p6) (.ofNat 5 p5) (.ofNat 5 p4) (.ofNat 3 p3) (.ofNat 2 p1)) else
    none
  | _ => none

/-- Major opcode 0x38 (R71), from the pieces of the word, lowest bits first. -/
def decConvert : List Nat → Option Instr
  | [p0, p1, p2, p3, p4, p5, p6, p7] =>
    if p0 = 0 then some (.cvtScalarForm (.ofNat 5 p7) (.ofNat 5 p6) (.ofNat 5 p5) (bit p4) (bit p3) (.ofNat 4 p2) (.ofNat 4 p1)) else
    if p0 = 1 ∧ p4 = 0 then some (.cvtVectorForm (.ofNat 5 p7) (.ofNat 5 p6) (.ofNat 5 p5) (bit p3) (.ofNat 4 p2) (.ofNat 4 p1)) else
    none
  | _ => none

/-- Major opcode 0x3C (R72), from the pieces of the word, lowest bits first. -/
def decCopy : List Nat → Option Instr
  | [p0, p1, p2, p3, p4, p5, p6] =>
    if p0 = 0 ∧ p5 < 16 ∧ p6 = 0 then some (.ecfgCe (.ofNat 4 p5) (.ofNat 5 p4) (.ofNat 5 p3) (bit p2) (bit p1)) else
    if p6 = 1 then some (.cpq (.ofNat 5 p5) (.ofNat 5 p4) (.ofNat 5 p3) (bit p2) (bit p1) (.ofNat 3 p0)) else
    if p0 = 0 ∧ p1 = 0 ∧ p3 = 0 ∧ p6 = 2 then some (.cppoll (.ofNat 5 p5) (.ofNat 5 p4) (bit p2)) else
    if p0 = 0 ∧ p1 = 0 ∧ p3 = 0 ∧ p5 = 0 ∧ p6 = 3 then some (.cpwait (.ofNat 5 p4) (bit p2)) else
    none
  | _ => none

/-- Major opcode 0x3D (R72, R73), from the pieces of the word, lowest bits first. -/
def decMatrix : List Nat → Option Instr
  | [p0, p1, p2, p3, p4, p5, p6, p7, p8] =>
    if p7 = 0 ∧ p8 = 0 then some (.mmaE4e4 (.ofNat 5 p6) (.ofNat 5 p5) (bit p4) (bit p3) (bit p2) (bit p1) (bit p0)) else
    if p7 = 0 ∧ p8 = 1 then some (.mmaE4e5 (.ofNat 5 p6) (.ofNat 5 p5) (bit p4) (bit p3) (bit p2) (bit p1) (bit p0)) else
    if p7 = 0 ∧ p8 = 2 then some (.mmaE5e4 (.ofNat 5 p6) (.ofNat 5 p5) (bit p4) (bit p3) (bit p2) (bit p1) (bit p0)) else
    if p7 = 0 ∧ p8 = 3 then some (.mmaE5e5 (.ofNat 5 p6) (.ofNat 5 p5) (bit p4) (bit p3) (bit p2) (bit p1) (bit p0)) else
    if p7 = 0 ∧ p8 = 4 then some (.mmaE3e3 (.ofNat 5 p6) (.ofNat 5 p5) (bit p4) (bit p3) (bit p2) (bit p1) (bit p0)) else
    if p7 = 0 ∧ p8 = 5 then some (.mmaE2e2 (.ofNat 5 p6) (.ofNat 5 p5) (bit p4) (bit p3) (bit p2) (bit p1) (bit p0)) else
    if p7 = 0 ∧ p8 = 6 then some (.mmaI8i8 (.ofNat 5 p6) (.ofNat 5 p5) (bit p4) (bit p3) (bit p2) (bit p1) (bit p0)) else
    if p7 = 0 ∧ p8 = 7 then some (.mmaI4i4 (.ofNat 5 p6) (.ofNat 5 p5) (bit p4) (bit p3) (bit p2) (bit p1) (bit p0)) else
    if p7 = 0 ∧ p8 = 8 then some (.mmaI8q8 (.ofNat 5 p6) (.ofNat 5 p5) (bit p4) (bit p3) (bit p2) (bit p1) (bit p0)) else
    if p7 = 0 ∧ p8 = 9 then some (.mmaI8q4 (.ofNat 5 p6) (.ofNat 5 p5) (bit p4) (bit p3) (bit p2) (bit p1) (bit p0)) else
    if p7 = 0 ∧ p8 = 10 then some (.mmaI4q4 (.ofNat 5 p6) (.ofNat 5 p5) (bit p4) (bit p3) (bit p2) (bit p1) (bit p0)) else
    if p7 = 0 ∧ p8 = 11 then some (.mmaBf16 (.ofNat 5 p6) (.ofNat 5 p5) (bit p4) (bit p3) (bit p2) (bit p1) (bit p0)) else
    if p7 = 0 ∧ p8 = 12 then some (.mmaF16 (.ofNat 5 p6) (.ofNat 5 p5) (bit p4) (bit p3) (bit p2) (bit p1) (bit p0)) else
    if p8 = 13 then some (.mmbE4e4 (.ofNat 5 p7) (.ofNat 5 p6) (.ofNat 5 p5) (bit p4) (bit p3) (bit p2) (bit p1) (bit p0)) else
    if p8 = 14 then some (.mmbE5e5 (.ofNat 5 p7) (.ofNat 5 p6) (.ofNat 5 p5) (bit p4) (bit p3) (bit p2) (bit p1) (bit p0)) else
    if p8 = 15 then some (.mmbE3e3 (.ofNat 5 p7) (.ofNat 5 p6) (.ofNat 5 p5) (bit p4) (bit p3) (bit p2) (bit p1) (bit p0)) else
    if p8 = 16 then some (.mmbE2e2 (.ofNat 5 p7) (.ofNat 5 p6) (.ofNat 5 p5) (bit p4) (bit p3) (bit p2) (bit p1) (bit p0)) else
    if p0 = 0 ∧ p1 = 0 ∧ p2 = 0 ∧ p7 < 16 ∧ p8 = 32 then some (.ecfgMe (.ofNat 4 p7) (.ofNat 5 p6) (.ofNat 5 p5) (bit p4) (bit p3)) else
    if p7 = 0 ∧ p8 = 33 then some (.mdrain (.ofNat 5 p6) (.ofNat 5 p5) (bit p4) (bit p3) (.ofNat 2 (p1 + 2 * p2)) (bit p0)) else
    if p1 = 0 ∧ p2 = 0 ∧ p3 = 0 ∧ p4 = 0 ∧ p5 = 0 ∧ p6 = 0 ∧ p7 = 0 ∧ p8 = 34 then some (.mzero (bit p0)) else
    none
  | _ => none

/-- Major opcode 0x3E (R72), from the pieces of the word, lowest bits first. -/
def decReduce : List Nat → Option Instr
  | [p0, p1, p2, p3, p4, p5, p6] =>
    if p0 = 0 ∧ p6 = 0 then some (.redslot (.ofNat 5 p5) (.ofNat 5 p4) (.ofNat 5 p3) (bit p2) (bit p1)) else
    if p0 = 0 ∧ p5 = 0 ∧ p6 = 1 then some (.redput (.ofNat 5 p4) (.ofNat 5 p3) (bit p2) (bit p1)) else
    if p0 = 0 ∧ p1 = 0 ∧ p3 = 0 ∧ p6 = 2 then some (.redget (.ofNat 5 p5) (.ofNat 5 p4) (bit p2)) else
    if p0 = 0 ∧ p1 = 0 ∧ p3 = 0 ∧ p5 = 0 ∧ p6 = 3 then some (.redfree (.ofNat 5 p4) (bit p2)) else
    none
  | _ => none

/-- The widths of the pieces of a major opcode's words, lowest bits first (Table 02-1 and the sub-maps). -/
def widthsOf : Nat → List Nat
  | 0x01 => [9, 1, 1, 5, 5, 5]
  | 0x02 => [15, 1, 5, 5]
  | 0x03 => [15, 1, 5, 5]
  | 0x04 => [15, 1, 5, 5]
  | 0x05 => [15, 1, 5, 5]
  | 0x06 => [14, 1, 1, 5, 5]
  | 0x07 => [6, 2, 7, 1, 5, 5]
  | 0x08 => [21, 5]
  | 0x10 => [12, 3, 1, 5, 5]
  | 0x11 => [12, 3, 1, 5, 5]
  | 0x12 => [12, 3, 1, 5, 5]
  | 0x13 => [12, 3, 1, 5, 5]
  | 0x14 => [12, 3, 1, 5, 5]
  | 0x15 => [12, 3, 1, 5, 5]
  | 0x16 => [2, 5, 5, 3, 1, 5, 5]
  | 0x17 => [12, 3, 1, 5, 5]
  | 0x18 => [12, 3, 1, 5, 5]
  | 0x1C => [3, 2, 4, 1, 1, 5, 5, 5]
  | 0x1D => [3, 2, 3, 1, 1, 1, 5, 5, 5]
  | 0x1E => [3, 2, 4, 1, 1, 5, 5, 5]
  | 0x20 => [11, 3, 1, 1, 5, 5]
  | 0x21 => [21, 5]
  | 0x22 => [15, 1, 5, 5]
  | 0x23 => [9, 1, 1, 5, 5, 5]
  | 0x24 => [3, 2, 4, 1, 1, 5, 5, 5]
  | 0x25 => [3, 2, 4, 1, 1, 5, 5, 5]
  | 0x26 => [9, 1, 1, 5, 5, 5]
  | 0x27 => [9, 1, 1, 5, 5, 5]
  | 0x28 => [12, 3, 1, 5, 5]
  | 0x30 => [2, 7, 1, 1, 5, 5, 5]
  | 0x31 => [2, 2, 2, 5, 5, 5, 5]
  | 0x34 => [7, 1, 3, 5, 5, 5]
  | 0x35 => [5, 2, 1, 3, 5, 5, 5]
  | 0x36 => [8, 3, 5, 5, 5]
  | 0x37 => [3, 2, 3, 3, 5, 5, 5]
  | 0x38 => [1, 4, 4, 1, 1, 5, 5, 5]
  | 0x3C => [3, 1, 1, 5, 5, 5, 6]
  | 0x3D => [1, 1, 1, 1, 1, 5, 5, 5, 6]
  | 0x3E => [3, 1, 1, 5, 5, 5, 6]
  | _ => []

/-- The instruction that a major opcode and its pieces name, whatever the values of the operands (Table 02-3). -/
def decodePieces (op : Nat) (ps : List Nat) : Option Instr :=
  match op with
  | 0x01 => decAlu ps
  | 0x02 => decAddi ps
  | 0x03 => decAndi ps
  | 0x04 => decOri ps
  | 0x05 => decXori ps
  | 0x06 => decCompareImm ps
  | 0x07 => decShiftImm ps
  | 0x08 => decLih ps
  | 0x10 => decLd ps
  | 0x11 => decSt ps
  | 0x12 => decLdc ps
  | 0x13 => decStc ps
  | 0x14 => decLdw ps
  | 0x15 => decStf ps
  | 0x16 => decBits ps
  | 0x17 => decFld ps
  | 0x18 => decFst ps
  | 0x1C => decAtomic ps
  | 0x1D => decAtomicFloat ps
  | 0x1E => decCas ps
  | 0x20 => decBranch ps
  | 0x21 => decJal ps
  | 0x22 => decJalr ps
  | 0x23 => decFlow ps
  | 0x24 => decSync ps
  | 0x25 => decMessage ps
  | 0x26 => decTour ps
  | 0x27 => decCapability ps
  | 0x28 => decSystem ps
  | 0x30 => decFloat ps
  | 0x31 => decFma ps
  | 0x34 => decVectorInt ps
  | 0x35 => decVectorFloat ps
  | 0x36 => decPermute ps
  | 0x37 => decVectorMemory ps
  | 0x38 => decConvert ps
  | 0x3C => decCopy ps
  | 0x3D => decMatrix ps
  | 0x3E => decReduce ps
  | _ => none

/-- The assigned major opcodes (Table 02-3). -/
def assignedMajors : List Nat :=
  [0x01, 0x02, 0x03, 0x04, 0x05, 0x06, 0x07, 0x08, 0x10, 0x11, 0x12, 0x13, 0x14, 0x15, 0x16, 0x17, 0x18, 0x1C, 0x1D, 0x1E, 0x20, 0x21, 0x22, 0x23, 0x24, 0x25, 0x26, 0x27, 0x28, 0x30, 0x31, 0x34, 0x35, 0x36, 0x37, 0x38, 0x3C, 0x3D, 0x3E]

/-- The instruction a 32-bit number holds, or why it holds none (R54). The core that fetches it decides the rest (R46): see `illegalOn`. -/
def decodeNat (n : Nat) : Except Reject Instr :=
  if n = 0 then .error .zeroWord else
  if assignedMajors.contains (n / 2 ^ 26) then
    match decodePieces (n / 2 ^ 26) (splitFields (widthsOf (n / 2 ^ 26)) (n % 2 ^ 26)) with
    | some i => if i.wf then .ok i else .error (.field (n / 2 ^ 26))
    | none => .error (.field (n / 2 ^ 26))
  else .error (.major (n / 2 ^ 26))

/-- The instruction a word holds; a word that is none traps ILLEGAL, which is the event `ILLEGAL_WORD` (R54, R55). -/
def decodeWord (w : InstrWord) : Instr :=
  match decodeNat w.toNat with
  | .ok i => i
  | .error _ => .illegalWord w

/-- Decodes the first word of a list of bytes, little-endian (R7, R46), and gives the bytes after it. -/
def decode : List Byte → Except Reject (Instr × List Byte)
  | b0 :: b1 :: b2 :: b3 :: rest =>
    match decodeNat (b0.toNat + 256 * (b1.toNat + 256 * (b2.toNat + 256 * b3.toNat))) with
    | .ok i => .ok (i, rest)
    | .error e => .error e
  | _ => .error .short

/-- The bytes of a word as the machine stores it, least significant first (R7, R46). -/
def wordBytes (w : InstrWord) : List Byte :=
  [.ofNat 8 w.toNat, .ofNat 8 (w.toNat / 2 ^ 8), .ofNat 8 (w.toNat / 2 ^ 16), .ofNat 8 (w.toNat / 2 ^ 24)]

/-- What the decoder reads from a row's word, laid out as the table numbers its bits. -/
def decodeTableWord (nbits w : Nat) : Option Instr :=
  if nbits = 32 then
    match decode (wordBytes (.ofNat 32 w)) with
    | .ok (i, _) => some i
    | .error _ => none
  else none

/-- The major opcode and the pieces, lowest bits first, of an instruction's word; an event has none. -/
def Instr.layout : Instr → Option (Nat × List (Nat × Nat))
  | .add d a b u v =>
    some (0x01, [(9, 0), (1, v.toNat), (1, u.toNat), (5, b.toNat), (5, a.toNat), (5, d.toNat)])
  | .sub d a b u v =>
    some (0x01, [(9, 1), (1, v.toNat), (1, u.toNat), (5, b.toNat), (5, a.toNat), (5, d.toNat)])
  | .mul d a b u v =>
    some (0x01, [(9, 2), (1, v.toNat), (1, u.toNat), (5, b.toNat), (5, a.toNat), (5, d.toNat)])
  | .mulh d a b u v =>
    some (0x01, [(9, 3), (1, v.toNat), (1, u.toNat), (5, b.toNat), (5, a.toNat), (5, d.toNat)])
  | .mulhn d a b u v =>
    some (0x01, [(9, 4), (1, v.toNat), (1, u.toNat), (5, b.toNat), (5, a.toNat), (5, d.toNat)])
  | .div d a b u v =>
    some (0x01, [(9, 5), (1, v.toNat), (1, u.toNat), (5, b.toNat), (5, a.toNat), (5, d.toNat)])
  | .divn d a b u v =>
    some (0x01, [(9, 6), (1, v.toNat), (1, u.toNat), (5, b.toNat), (5, a.toNat), (5, d.toNat)])
  | .rem d a b u v =>
    some (0x01, [(9, 7), (1, v.toNat), (1, u.toNat), (5, b.toNat), (5, a.toNat), (5, d.toNat)])
  | .remn d a b u v =>
    some (0x01, [(9, 8), (1, v.toNat), (1, u.toNat), (5, b.toNat), (5, a.toNat), (5, d.toNat)])
  | .and d a b u v =>
    some (0x01, [(9, 9), (1, v.toNat), (1, u.toNat), (5, b.toNat), (5, a.toNat), (5, d.toNat)])
  | .or d a b u v =>
    some (0x01, [(9, 10), (1, v.toNat), (1, u.toNat), (5, b.toNat), (5, a.toNat), (5, d.toNat)])
  | .xor d a b u v =>
    some (0x01, [(9, 11), (1, v.toNat), (1, u.toNat), (5, b.toNat), (5, a.toNat), (5, d.toNat)])
  | .andn d a b u v =>
    some (0x01, [(9, 12), (1, v.toNat), (1, u.toNat), (5, b.toNat), (5, a.toNat), (5, d.toNat)])
  | .shl d a b u v =>
    some (0x01, [(9, 13), (1, v.toNat), (1, u.toNat), (5, b.toNat), (5, a.toNat), (5, d.toNat)])
  | .shr d a b u v =>
    some (0x01, [(9, 14), (1, v.toNat), (1, u.toNat), (5, b.toNat), (5, a.toNat), (5, d.toNat)])
  | .sra d a b u v =>
    some (0x01, [(9, 15), (1, v.toNat), (1, u.toNat), (5, b.toNat), (5, a.toNat), (5, d.toNat)])
  | .rot d a b u v =>
    some (0x01, [(9, 16), (1, v.toNat), (1, u.toNat), (5, b.toNat), (5, a.toNat), (5, d.toNat)])
  | .slt d a b u v =>
    some (0x01, [(9, 17), (1, v.toNat), (1, u.toNat), (5, b.toNat), (5, a.toNat), (5, d.toNat)])
  | .sltn d a b u v =>
    some (0x01, [(9, 18), (1, v.toNat), (1, u.toNat), (5, b.toNat), (5, a.toNat), (5, d.toNat)])
  | .min d a b u v =>
    some (0x01, [(9, 19), (1, v.toNat), (1, u.toNat), (5, b.toNat), (5, a.toNat), (5, d.toNat)])
  | .max d a b u v =>
    some (0x01, [(9, 20), (1, v.toNat), (1, u.toNat), (5, b.toNat), (5, a.toNat), (5, d.toNat)])
  | .minn d a b u v =>
    some (0x01, [(9, 21), (1, v.toNat), (1, u.toNat), (5, b.toNat), (5, a.toNat), (5, d.toNat)])
  | .maxn d a b u v =>
    some (0x01, [(9, 22), (1, v.toNat), (1, u.toNat), (5, b.toNat), (5, a.toNat), (5, d.toNat)])
  | .clz d a u =>
    some (0x01, [(9, 23), (1, 0), (1, u.toNat), (5, 0), (5, a.toNat), (5, d.toNat)])
  | .ctz d a u =>
    some (0x01, [(9, 24), (1, 0), (1, u.toNat), (5, 0), (5, a.toNat), (5, d.toNat)])
  | .popc d a u =>
    some (0x01, [(9, 25), (1, 0), (1, u.toNat), (5, 0), (5, a.toNat), (5, d.toNat)])
  | .bswap d a u =>
    some (0x01, [(9, 26), (1, 0), (1, u.toNat), (5, 0), (5, a.toNat), (5, d.toNat)])
  | .bfx d a b u v =>
    some (0x01, [(9, 27), (1, v.toNat), (1, u.toNat), (5, b.toNat), (5, a.toNat), (5, d.toNat)])
  | .bfi d a b u v =>
    some (0x01, [(9, 28), (1, v.toNat), (1, u.toNat), (5, b.toNat), (5, a.toNat), (5, d.toNat)])
  | .addi d a u imm =>
    some (0x02, [(15, imm.toNat), (1, u.toNat), (5, a.toNat), (5, d.toNat)])
  | .andi d a u imm =>
    some (0x03, [(15, imm.toNat), (1, u.toNat), (5, a.toNat), (5, d.toNat)])
  | .ori d a u imm =>
    some (0x04, [(15, imm.toNat), (1, u.toNat), (5, a.toNat), (5, d.toNat)])
  | .xori d a u imm =>
    some (0x05, [(15, imm.toNat), (1, u.toNat), (5, a.toNat), (5, d.toNat)])
  | .slti d a u imm =>
    some (0x06, [(14, imm.toNat), (1, 0), (1, u.toNat), (5, a.toNat), (5, d.toNat)])
  | .sltni d a u imm =>
    some (0x06, [(14, imm.toNat), (1, 1), (1, u.toNat), (5, a.toNat), (5, d.toNat)])
  | .shli d a u sz =>
    some (0x07, [(6, sz.toNat), (2, 0), (7, 0), (1, u.toNat), (5, a.toNat), (5, d.toNat)])
  | .shri d a u sz =>
    some (0x07, [(6, sz.toNat), (2, 1), (7, 0), (1, u.toNat), (5, a.toNat), (5, d.toNat)])
  | .srai d a u sz =>
    some (0x07, [(6, sz.toNat), (2, 2), (7, 0), (1, u.toNat), (5, a.toNat), (5, d.toNat)])
  | .roti d a u sz =>
    some (0x07, [(6, sz.toNat), (2, 3), (7, 0), (1, u.toNat), (5, a.toNat), (5, d.toNat)])
  | .lih d imm =>
    some (0x08, [(21, imm.toNat), (5, d.toNat)])
  | .ld d c w sz imm =>
    some (0x10, [(12, imm.toNat), (3, sz.toNat), (1, w.toNat), (5, c.toNat), (5, d.toNat)])
  | .st d c w sz imm =>
    some (0x11, [(12, imm.toNat), (3, sz.toNat), (1, w.toNat), (5, c.toNat), (5, d.toNat)])
  | .ldc d c w imm =>
    some (0x12, [(12, imm.toNat), (3, 0), (1, w.toNat), (5, c.toNat), (5, d.toNat)])
  | .stc d c w imm =>
    some (0x13, [(12, imm.toNat), (3, 0), (1, w.toNat), (5, c.toNat), (5, d.toNat)])
  | .ldw d c w sz imm =>
    some (0x14, [(12, imm.toNat), (3, sz.toNat), (1, w.toNat), (5, c.toNat), (5, d.toNat)])
  | .stf d c w imm =>
    some (0x15, [(12, imm.toNat), (3, 3), (1, w.toNat), (5, c.toNat), (5, d.toNat)])
  | .clrf c w imm =>
    some (0x15, [(12, imm.toNat), (3, 7), (1, w.toNat), (5, c.toNat), (5, 0)])
  | .ldb d c w b l =>
    some (0x16, [(2, 0), (5, l.toNat), (5, b.toNat), (3, 0), (1, w.toNat), (5, c.toNat), (5, d.toNat)])
  | .ldbx d c w b l =>
    some (0x16, [(2, 0), (5, l.toNat), (5, b.toNat), (3, 1), (1, w.toNat), (5, c.toNat), (5, d.toNat)])
  | .stb d c w b l =>
    some (0x16, [(2, 0), (5, l.toNat), (5, b.toNat), (3, 2), (1, w.toNat), (5, c.toNat), (5, d.toNat)])
  | .fld d c w sz imm =>
    some (0x17, [(12, imm.toNat), (3, sz.toNat), (1, w.toNat), (5, c.toNat), (5, d.toNat)])
  | .fst d c w sz imm =>
    some (0x18, [(12, imm.toNat), (3, sz.toNat), (1, w.toNat), (5, c.toNat), (5, d.toNat)])
  | .aadd d c b u v o sz =>
    some (0x1C, [(3, sz.toNat), (2, o.toNat), (4, 0), (1, v.toNat), (1, u.toNat), (5, b.toNat), (5, c.toNat), (5, d.toNat)])
  | .aand d c b u v o sz =>
    some (0x1C, [(3, sz.toNat), (2, o.toNat), (4, 1), (1, v.toNat), (1, u.toNat), (5, b.toNat), (5, c.toNat), (5, d.toNat)])
  | .aor d c b u v o sz =>
    some (0x1C, [(3, sz.toNat), (2, o.toNat), (4, 2), (1, v.toNat), (1, u.toNat), (5, b.toNat), (5, c.toNat), (5, d.toNat)])
  | .axor d c b u v o sz =>
    some (0x1C, [(3, sz.toNat), (2, o.toNat), (4, 3), (1, v.toNat), (1, u.toNat), (5, b.toNat), (5, c.toNat), (5, d.toNat)])
  | .amin d c b u v o sz =>
    some (0x1C, [(3, sz.toNat), (2, o.toNat), (4, 4), (1, v.toNat), (1, u.toNat), (5, b.toNat), (5, c.toNat), (5, d.toNat)])
  | .amax d c b u v o sz =>
    some (0x1C, [(3, sz.toNat), (2, o.toNat), (4, 5), (1, v.toNat), (1, u.toNat), (5, b.toNat), (5, c.toNat), (5, d.toNat)])
  | .aminn d c b u v o sz =>
    some (0x1C, [(3, sz.toNat), (2, o.toNat), (4, 6), (1, v.toNat), (1, u.toNat), (5, b.toNat), (5, c.toNat), (5, d.toNat)])
  | .amaxn d c b u v o sz =>
    some (0x1C, [(3, sz.toNat), (2, o.toNat), (4, 7), (1, v.toNat), (1, u.toNat), (5, b.toNat), (5, c.toNat), (5, d.toNat)])
  | .aswap d c b u v o sz =>
    some (0x1C, [(3, sz.toNat), (2, o.toNat), (4, 8), (1, v.toNat), (1, u.toNat), (5, b.toNat), (5, c.toNat), (5, d.toNat)])
  | .aaddz d c b u v o sz =>
    some (0x1C, [(3, sz.toNat), (2, o.toNat), (4, 9), (1, v.toNat), (1, u.toNat), (5, b.toNat), (5, c.toNat), (5, d.toNat)])
  | .afadd d c b u v t o sz =>
    some (0x1D, [(3, sz.toNat), (2, o.toNat), (3, 0), (1, t.toNat), (1, v.toNat), (1, u.toNat), (5, b.toNat), (5, c.toNat), (5, d.toNat)])
  | .afmin d c b u v t o sz =>
    some (0x1D, [(3, sz.toNat), (2, o.toNat), (3, 1), (1, t.toNat), (1, v.toNat), (1, u.toNat), (5, b.toNat), (5, c.toNat), (5, d.toNat)])
  | .afmax d c b u v t o sz =>
    some (0x1D, [(3, sz.toNat), (2, o.toNat), (3, 2), (1, t.toNat), (1, v.toNat), (1, u.toNat), (5, b.toNat), (5, c.toNat), (5, d.toNat)])
  | .afminn d c b u v t o sz =>
    some (0x1D, [(3, sz.toNat), (2, o.toNat), (3, 3), (1, t.toNat), (1, v.toNat), (1, u.toNat), (5, b.toNat), (5, c.toNat), (5, d.toNat)])
  | .afmaxn d c b u v t o sz =>
    some (0x1D, [(3, sz.toNat), (2, o.toNat), (3, 4), (1, t.toNat), (1, v.toNat), (1, u.toNat), (5, b.toNat), (5, c.toNat), (5, d.toNat)])
  | .cas d c b u v o sz =>
    some (0x1E, [(3, sz.toNat), (2, o.toNat), (4, 0), (1, v.toNat), (1, u.toNat), (5, b.toNat), (5, c.toNat), (5, d.toNat)])
  | .beq a b u v o =>
    some (0x20, [(11, o.toNat), (3, 0), (1, v.toNat), (1, u.toNat), (5, b.toNat), (5, a.toNat)])
  | .bne a b u v o =>
    some (0x20, [(11, o.toNat), (3, 1), (1, v.toNat), (1, u.toNat), (5, b.toNat), (5, a.toNat)])
  | .blt a b u v o =>
    some (0x20, [(11, o.toNat), (3, 2), (1, v.toNat), (1, u.toNat), (5, b.toNat), (5, a.toNat)])
  | .bge a b u v o =>
    some (0x20, [(11, o.toNat), (3, 3), (1, v.toNat), (1, u.toNat), (5, b.toNat), (5, a.toNat)])
  | .bltn a b u v o =>
    some (0x20, [(11, o.toNat), (3, 4), (1, v.toNat), (1, u.toNat), (5, b.toNat), (5, a.toNat)])
  | .bgen a b u v o =>
    some (0x20, [(11, o.toNat), (3, 5), (1, v.toNat), (1, u.toNat), (5, b.toNat), (5, a.toNat)])
  | .jal d imm =>
    some (0x21, [(21, imm.toNat), (5, d.toNat)])
  | .jalr d a u imm =>
    some (0x22, [(15, imm.toNat), (1, u.toNat), (5, a.toNat), (5, d.toNat)])
  | .delay a u =>
    some (0x23, [(9, 2), (1, 0), (1, u.toNat), (5, 0), (5, a.toNat), (5, 0)])
  | .fence o sz =>
    some (0x24, [(3, sz.toNat), (2, o.toNat), (4, 0), (1, 0), (1, 0), (5, 0), (5, 0), (5, 0)])
  | .waita d c b u v =>
    some (0x24, [(3, 0), (2, 0), (4, 1), (1, v.toNat), (1, u.toNat), (5, b.toNat), (5, c.toNat), (5, d.toNat)])
  | .bmin d a u =>
    some (0x24, [(3, 0), (2, 0), (4, 4), (1, 0), (1, u.toNat), (5, 0), (5, a.toNat), (5, d.toNat)])
  | .pbindRecv d k =>
    some (0x25, [(3, k.toNat), (2, 0), (4, 0), (1, 0), (1, 0), (5, 0), (5, 0), (5, d.toNat)])
  | .pbindStream d a u =>
    some (0x25, [(3, 0), (2, 1), (4, 0), (1, 0), (1, u.toNat), (5, 0), (5, a.toNat), (5, d.toNat)])
  | .pbindSend d k =>
    some (0x25, [(3, k.toNat), (2, 2), (4, 0), (1, 0), (1, 0), (5, 0), (5, 0), (5, d.toNat)])
  | .punbind d =>
    some (0x25, [(3, 0), (2, 0), (4, 1), (1, 0), (1, 0), (5, 0), (5, 0), (5, d.toNat)])
  | .msend a b u v k =>
    some (0x25, [(3, k.toNat), (2, 0), (4, 2), (1, v.toNat), (1, u.toNat), (5, b.toNat), (5, a.toNat), (5, 0)])
  | .mcount d k =>
    some (0x25, [(3, k.toNat), (2, 0), (4, 3), (1, 0), (1, 0), (5, 0), (5, 0), (5, d.toNat)])
  | .mstat d k =>
    some (0x25, [(3, k.toNat), (2, 0), (4, 4), (1, 0), (1, 0), (5, 0), (5, 0), (5, d.toNat)])
  | .mbind a u k =>
    some (0x25, [(3, k.toNat), (2, 0), (4, 5), (1, 0), (1, u.toNat), (5, 0), (5, a.toNat), (5, 0)])
  | .tour d a c u v =>
    some (0x26, [(9, 0), (1, v.toNat), (1, u.toNat), (5, c.toNat), (5, a.toNat), (5, d.toNat)])
  | .cast a u =>
    some (0x26, [(9, 1), (1, 0), (1, u.toNat), (5, 0), (5, a.toNat), (5, 0)])
  | .tstat d a u =>
    some (0x26, [(9, 2), (1, 0), (1, u.toNat), (5, 0), (5, a.toNat), (5, d.toNat)])
  | .tslot d a u =>
    some (0x26, [(9, 3), (1, 0), (1, u.toNat), (5, 0), (5, a.toNat), (5, d.toNat)])
  | .cmov d c u =>
    some (0x27, [(9, 0), (1, 0), (1, u.toNat), (5, 0), (5, c.toNat), (5, d.toNat)])
  | .cbnd d c b u v =>
    some (0x27, [(9, 1), (1, v.toNat), (1, u.toNat), (5, b.toNat), (5, c.toNat), (5, d.toNat)])
  | .cadd d c b u v =>
    some (0x27, [(9, 2), (1, v.toNat), (1, u.toNat), (5, b.toNat), (5, c.toNat), (5, d.toNat)])
  | .cset d c b u v =>
    some (0x27, [(9, 3), (1, v.toNat), (1, u.toNat), (5, b.toNat), (5, c.toNat), (5, d.toNat)])
  | .cperm d c b u v =>
    some (0x27, [(9, 4), (1, v.toNat), (1, u.toNat), (5, b.toNat), (5, c.toNat), (5, d.toNat)])
  | .cbase d c u =>
    some (0x27, [(9, 5), (1, 0), (1, u.toNat), (5, 0), (5, c.toNat), (5, d.toNat)])
  | .clen d c u =>
    some (0x27, [(9, 6), (1, 0), (1, u.toNat), (5, 0), (5, c.toNat), (5, d.toNat)])
  | .ccur d c u =>
    some (0x27, [(9, 7), (1, 0), (1, u.toNat), (5, 0), (5, c.toNat), (5, d.toNat)])
  | .cprm d c u =>
    some (0x27, [(9, 8), (1, 0), (1, u.toNat), (5, 0), (5, c.toNat), (5, d.toNat)])
  | .ctag d c u =>
    some (0x27, [(9, 9), (1, 0), (1, u.toNat), (5, 0), (5, c.toNat), (5, d.toNat)])
  | .cclr d c u =>
    some (0x27, [(9, 10), (1, 0), (1, u.toNat), (5, 0), (5, c.toNat), (5, d.toNat)])
  | .rds d n =>
    some (0x28, [(12, n.toNat), (3, 0), (1, 0), (5, 0), (5, d.toNat)])
  | .wrs a u n =>
    some (0x28, [(12, n.toNat), (3, 1), (1, u.toNat), (5, a.toNat), (5, 0)])
  | .trap c =>
    some (0x28, [(12, c.toNat), (3, 2), (1, 0), (5, 0), (5, 0)])
  | .time d =>
    some (0x28, [(12, 0), (3, 4), (1, 0), (5, 0), (5, d.toNat)])
  | .tlbw d a u =>
    some (0x28, [(12, 0), (3, 5), (1, u.toNat), (5, a.toNat), (5, d.toNat)])
  | .tlbinv a u =>
    some (0x28, [(12, 0), (3, 6), (1, u.toNat), (5, a.toNat), (5, 0)])
  | .fadd d a b u v t =>
    some (0x30, [(2, t.toNat), (7, 0), (1, v.toNat), (1, u.toNat), (5, b.toNat), (5, a.toNat), (5, d.toNat)])
  | .fsub d a b u v t =>
    some (0x30, [(2, t.toNat), (7, 1), (1, v.toNat), (1, u.toNat), (5, b.toNat), (5, a.toNat), (5, d.toNat)])
  | .fmul d a b u v t =>
    some (0x30, [(2, t.toNat), (7, 2), (1, v.toNat), (1, u.toNat), (5, b.toNat), (5, a.toNat), (5, d.toNat)])
  | .fdiv d a b u v t =>
    some (0x30, [(2, t.toNat), (7, 3), (1, v.toNat), (1, u.toNat), (5, b.toNat), (5, a.toNat), (5, d.toNat)])
  | .fsqrt d a u t =>
    some (0x30, [(2, t.toNat), (7, 4), (1, 0), (1, u.toNat), (5, 0), (5, a.toNat), (5, d.toNat)])
  | .fmin d a b u v t =>
    some (0x30, [(2, t.toNat), (7, 5), (1, v.toNat), (1, u.toNat), (5, b.toNat), (5, a.toNat), (5, d.toNat)])
  | .fmax d a b u v t =>
    some (0x30, [(2, t.toNat), (7, 6), (1, v.toNat), (1, u.toNat), (5, b.toNat), (5, a.toNat), (5, d.toNat)])
  | .fminn d a b u v t =>
    some (0x30, [(2, t.toNat), (7, 7), (1, v.toNat), (1, u.toNat), (5, b.toNat), (5, a.toNat), (5, d.toNat)])
  | .fmaxn d a b u v t =>
    some (0x30, [(2, t.toNat), (7, 8), (1, v.toNat), (1, u.toNat), (5, b.toNat), (5, a.toNat), (5, d.toNat)])
  | .fabs d a u t =>
    some (0x30, [(2, t.toNat), (7, 9), (1, 0), (1, u.toNat), (5, 0), (5, a.toNat), (5, d.toNat)])
  | .fneg d a u t =>
    some (0x30, [(2, t.toNat), (7, 10), (1, 0), (1, u.toNat), (5, 0), (5, a.toNat), (5, d.toNat)])
  | .feq d a b u v t =>
    some (0x30, [(2, t.toNat), (7, 11), (1, v.toNat), (1, u.toNat), (5, b.toNat), (5, a.toNat), (5, d.toNat)])
  | .flt d a b u v t =>
    some (0x30, [(2, t.toNat), (7, 12), (1, v.toNat), (1, u.toNat), (5, b.toNat), (5, a.toNat), (5, d.toNat)])
  | .fle d a b u v t =>
    some (0x30, [(2, t.toNat), (7, 13), (1, v.toNat), (1, u.toNat), (5, b.toNat), (5, a.toNat), (5, d.toNat)])
  | .fclass d a u t =>
    some (0x30, [(2, t.toNat), (7, 14), (1, 0), (1, u.toNat), (5, 0), (5, a.toNat), (5, d.toNat)])
  | .fmvx d a u =>
    some (0x30, [(2, 0), (7, 15), (1, 0), (1, u.toNat), (5, 0), (5, a.toNat), (5, d.toNat)])
  | .fmvf d a u =>
    some (0x30, [(2, 0), (7, 16), (1, 0), (1, u.toNat), (5, 0), (5, a.toNat), (5, d.toNat)])
  | .fmadd d a b c t =>
    some (0x31, [(2, 0), (2, 0), (2, t.toNat), (5, c.toNat), (5, b.toNat), (5, a.toNat), (5, d.toNat)])
  | .fmsub d a b c t =>
    some (0x31, [(2, 0), (2, 1), (2, t.toNat), (5, c.toNat), (5, b.toNat), (5, a.toNat), (5, d.toNat)])
  | .fnmsub d a b c t =>
    some (0x31, [(2, 0), (2, 2), (2, t.toNat), (5, c.toNat), (5, b.toNat), (5, a.toNat), (5, d.toNat)])
  | .fnmadd d a b c t =>
    some (0x31, [(2, 0), (2, 3), (2, t.toNat), (5, c.toNat), (5, b.toNat), (5, a.toNat), (5, d.toNat)])
  | .vadd d a b m sz =>
    some (0x34, [(7, 0), (1, sz.toNat), (3, m.toNat), (5, b.toNat), (5, a.toNat), (5, d.toNat)])
  | .vsub d a b m sz =>
    some (0x34, [(7, 1), (1, sz.toNat), (3, m.toNat), (5, b.toNat), (5, a.toNat), (5, d.toNat)])
  | .vmul d a b m sz =>
    some (0x34, [(7, 2), (1, sz.toNat), (3, m.toNat), (5, b.toNat), (5, a.toNat), (5, d.toNat)])
  | .vmulh d a b m sz =>
    some (0x34, [(7, 3), (1, sz.toNat), (3, m.toNat), (5, b.toNat), (5, a.toNat), (5, d.toNat)])
  | .vmulhn d a b m sz =>
    some (0x34, [(7, 4), (1, sz.toNat), (3, m.toNat), (5, b.toNat), (5, a.toNat), (5, d.toNat)])
  | .vand d a b m sz =>
    some (0x34, [(7, 5), (1, sz.toNat), (3, m.toNat), (5, b.toNat), (5, a.toNat), (5, d.toNat)])
  | .vor d a b m sz =>
    some (0x34, [(7, 6), (1, sz.toNat), (3, m.toNat), (5, b.toNat), (5, a.toNat), (5, d.toNat)])
  | .vxor d a b m sz =>
    some (0x34, [(7, 7), (1, sz.toNat), (3, m.toNat), (5, b.toNat), (5, a.toNat), (5, d.toNat)])
  | .vandn d a b m sz =>
    some (0x34, [(7, 8), (1, sz.toNat), (3, m.toNat), (5, b.toNat), (5, a.toNat), (5, d.toNat)])
  | .vshl d a b m sz =>
    some (0x34, [(7, 9), (1, sz.toNat), (3, m.toNat), (5, b.toNat), (5, a.toNat), (5, d.toNat)])
  | .vshr d a b m sz =>
    some (0x34, [(7, 10), (1, sz.toNat), (3, m.toNat), (5, b.toNat), (5, a.toNat), (5, d.toNat)])
  | .vsra d a b m sz =>
    some (0x34, [(7, 11), (1, sz.toNat), (3, m.toNat), (5, b.toNat), (5, a.toNat), (5, d.toNat)])
  | .vmin d a b m sz =>
    some (0x34, [(7, 12), (1, sz.toNat), (3, m.toNat), (5, b.toNat), (5, a.toNat), (5, d.toNat)])
  | .vmax d a b m sz =>
    some (0x34, [(7, 13), (1, sz.toNat), (3, m.toNat), (5, b.toNat), (5, a.toNat), (5, d.toNat)])
  | .vminn d a b m sz =>
    some (0x34, [(7, 14), (1, sz.toNat), (3, m.toNat), (5, b.toNat), (5, a.toNat), (5, d.toNat)])
  | .vmaxn d a b m sz =>
    some (0x34, [(7, 15), (1, sz.toNat), (3, m.toNat), (5, b.toNat), (5, a.toNat), (5, d.toNat)])
  | .vadds d a b m sz =>
    some (0x34, [(7, 16), (1, sz.toNat), (3, m.toNat), (5, b.toNat), (5, a.toNat), (5, d.toNat)])
  | .vaddsn d a b m sz =>
    some (0x34, [(7, 17), (1, sz.toNat), (3, m.toNat), (5, b.toNat), (5, a.toNat), (5, d.toNat)])
  | .vsubs d a b m sz =>
    some (0x34, [(7, 18), (1, sz.toNat), (3, m.toNat), (5, b.toNat), (5, a.toNat), (5, d.toNat)])
  | .vsubsn d a b m sz =>
    some (0x34, [(7, 19), (1, sz.toNat), (3, m.toNat), (5, b.toNat), (5, a.toNat), (5, d.toNat)])
  | .vseq d a b m sz =>
    some (0x34, [(7, 20), (1, sz.toNat), (3, m.toNat), (5, b.toNat), (5, a.toNat), (5, d.toNat)])
  | .vslt d a b m sz =>
    some (0x34, [(7, 21), (1, sz.toNat), (3, m.toNat), (5, b.toNat), (5, a.toNat), (5, d.toNat)])
  | .vsltn d a b m sz =>
    some (0x34, [(7, 22), (1, sz.toNat), (3, m.toNat), (5, b.toNat), (5, a.toNat), (5, d.toNat)])
  | .vfadd d a b m sz t =>
    some (0x35, [(5, 0), (2, t.toNat), (1, sz.toNat), (3, m.toNat), (5, b.toNat), (5, a.toNat), (5, d.toNat)])
  | .vfsub d a b m sz t =>
    some (0x35, [(5, 1), (2, t.toNat), (1, sz.toNat), (3, m.toNat), (5, b.toNat), (5, a.toNat), (5, d.toNat)])
  | .vfmul d a b m sz t =>
    some (0x35, [(5, 2), (2, t.toNat), (1, sz.toNat), (3, m.toNat), (5, b.toNat), (5, a.toNat), (5, d.toNat)])
  | .vfdiv d a b m sz t =>
    some (0x35, [(5, 3), (2, t.toNat), (1, sz.toNat), (3, m.toNat), (5, b.toNat), (5, a.toNat), (5, d.toNat)])
  | .vfsqrt d a m t =>
    some (0x35, [(5, 4), (2, t.toNat), (1, 0), (3, m.toNat), (5, 0), (5, a.toNat), (5, d.toNat)])
  | .vfmin d a b m sz t =>
    some (0x35, [(5, 5), (2, t.toNat), (1, sz.toNat), (3, m.toNat), (5, b.toNat), (5, a.toNat), (5, d.toNat)])
  | .vfmax d a b m sz t =>
    some (0x35, [(5, 6), (2, t.toNat), (1, sz.toNat), (3, m.toNat), (5, b.toNat), (5, a.toNat), (5, d.toNat)])
  | .vfminn d a b m sz t =>
    some (0x35, [(5, 7), (2, t.toNat), (1, sz.toNat), (3, m.toNat), (5, b.toNat), (5, a.toNat), (5, d.toNat)])
  | .vfmaxn d a b m sz t =>
    some (0x35, [(5, 8), (2, t.toNat), (1, sz.toNat), (3, m.toNat), (5, b.toNat), (5, a.toNat), (5, d.toNat)])
  | .vfma d a b m sz t =>
    some (0x35, [(5, 9), (2, t.toNat), (1, sz.toNat), (3, m.toNat), (5, b.toNat), (5, a.toNat), (5, d.toNat)])
  | .vfms d a b m sz t =>
    some (0x35, [(5, 10), (2, t.toNat), (1, sz.toNat), (3, m.toNat), (5, b.toNat), (5, a.toNat), (5, d.toNat)])
  | .vfabs d a m t =>
    some (0x35, [(5, 11), (2, t.toNat), (1, 0), (3, m.toNat), (5, 0), (5, a.toNat), (5, d.toNat)])
  | .vfneg d a m t =>
    some (0x35, [(5, 12), (2, t.toNat), (1, 0), (3, m.toNat), (5, 0), (5, a.toNat), (5, d.toNat)])
  | .vfeq d a b m sz t =>
    some (0x35, [(5, 13), (2, t.toNat), (1, sz.toNat), (3, m.toNat), (5, b.toNat), (5, a.toNat), (5, d.toNat)])
  | .vflt d a b m sz t =>
    some (0x35, [(5, 14), (2, t.toNat), (1, sz.toNat), (3, m.toNat), (5, b.toNat), (5, a.toNat), (5, d.toNat)])
  | .vfle d a b m sz t =>
    some (0x35, [(5, 15), (2, t.toNat), (1, sz.toNat), (3, m.toNat), (5, b.toNat), (5, a.toNat), (5, d.toNat)])
  | .vfrec d a m t =>
    some (0x35, [(5, 16), (2, t.toNat), (1, 0), (3, m.toNat), (5, 0), (5, a.toNat), (5, d.toNat)])
  | .vfrsq d a m t =>
    some (0x35, [(5, 17), (2, t.toNat), (1, 0), (3, m.toNat), (5, 0), (5, a.toNat), (5, d.toNat)])
  | .vfexp2 d a m t =>
    some (0x35, [(5, 18), (2, t.toNat), (1, 0), (3, m.toNat), (5, 0), (5, a.toNat), (5, d.toNat)])
  | .vflog2 d a m t =>
    some (0x35, [(5, 19), (2, t.toNat), (1, 0), (3, m.toNat), (5, 0), (5, a.toNat), (5, d.toNat)])
  | .vfredsum d a m t =>
    some (0x35, [(5, 20), (2, t.toNat), (1, 0), (3, m.toNat), (5, 0), (5, a.toNat), (5, d.toNat)])
  | .vfredmin d a m t =>
    some (0x35, [(5, 21), (2, t.toNat), (1, 0), (3, m.toNat), (5, 0), (5, a.toNat), (5, d.toNat)])
  | .vfredmax d a m t =>
    some (0x35, [(5, 22), (2, t.toNat), (1, 0), (3, m.toNat), (5, 0), (5, a.toNat), (5, d.toNat)])
  | .vmv d a m =>
    some (0x36, [(8, 0), (3, m.toNat), (5, 0), (5, a.toNat), (5, d.toNat)])
  | .vbcast d a m =>
    some (0x36, [(8, 1), (3, m.toNat), (5, 0), (5, a.toNat), (5, d.toNat)])
  | .vbcastf d a m =>
    some (0x36, [(8, 2), (3, m.toNat), (5, 0), (5, a.toNat), (5, d.toNat)])
  | .vslideup d a b m =>
    some (0x36, [(8, 3), (3, m.toNat), (5, b.toNat), (5, a.toNat), (5, d.toNat)])
  | .vslidedn d a b m =>
    some (0x36, [(8, 4), (3, m.toNat), (5, b.toNat), (5, a.toNat), (5, d.toNat)])
  | .vgather d a b m =>
    some (0x36, [(8, 5), (3, m.toNat), (5, b.toNat), (5, a.toNat), (5, d.toNat)])
  | .vcompress d a m =>
    some (0x36, [(8, 6), (3, m.toNat), (5, 0), (5, a.toNat), (5, d.toNat)])
  | .vexpand d a m =>
    some (0x36, [(8, 7), (3, m.toNat), (5, 0), (5, a.toNat), (5, d.toNat)])
  | .vext d a b =>
    some (0x36, [(8, 8), (3, 0), (5, b.toNat), (5, a.toNat), (5, d.toNat)])
  | .vins d a b =>
    some (0x36, [(8, 9), (3, 0), (5, b.toNat), (5, a.toNat), (5, d.toNat)])
  | .vredadd d a m =>
    some (0x36, [(8, 10), (3, m.toNat), (5, 0), (5, a.toNat), (5, d.toNat)])
  | .vredmin d a m =>
    some (0x36, [(8, 11), (3, m.toNat), (5, 0), (5, a.toNat), (5, d.toNat)])
  | .vredmax d a m =>
    some (0x36, [(8, 12), (3, m.toNat), (5, 0), (5, a.toNat), (5, d.toNat)])
  | .vredminn d a m =>
    some (0x36, [(8, 13), (3, m.toNat), (5, 0), (5, a.toNat), (5, d.toNat)])
  | .vredmaxn d a m =>
    some (0x36, [(8, 14), (3, m.toNat), (5, 0), (5, a.toNat), (5, d.toNat)])
  | .mand d a b =>
    some (0x36, [(8, 15), (3, 0), (5, b.toNat), (5, a.toNat), (5, d.toNat)])
  | .mor d a b =>
    some (0x36, [(8, 16), (3, 0), (5, b.toNat), (5, a.toNat), (5, d.toNat)])
  | .mxor d a b =>
    some (0x36, [(8, 17), (3, 0), (5, b.toNat), (5, a.toNat), (5, d.toNat)])
  | .mnot d a =>
    some (0x36, [(8, 18), (3, 0), (5, 0), (5, a.toNat), (5, d.toNat)])
  | .mpopc d a =>
    some (0x36, [(8, 19), (3, 0), (5, 0), (5, a.toNat), (5, d.toNat)])
  | .mfirst d a =>
    some (0x36, [(8, 20), (3, 0), (5, 0), (5, a.toNat), (5, d.toNat)])
  | .vsetvl d a =>
    some (0x36, [(8, 21), (3, 0), (5, 0), (5, a.toNat), (5, d.toNat)])
  | .vclaim d a =>
    some (0x36, [(8, 22), (3, 0), (5, 0), (5, a.toNat), (5, d.toNat)])
  | .vld d c m w =>
    some (0x37, [(3, 0), (2, w.toNat), (3, 0), (3, m.toNat), (5, 0), (5, c.toNat), (5, d.toNat)])
  | .vst d c m w =>
    some (0x37, [(3, 0), (2, w.toNat), (3, 1), (3, m.toNat), (5, 0), (5, c.toNat), (5, d.toNat)])
  | .vlds d c b m w =>
    some (0x37, [(3, 0), (2, w.toNat), (3, 2), (3, m.toNat), (5, b.toNat), (5, c.toNat), (5, d.toNat)])
  | .vsts d c b m w =>
    some (0x37, [(3, 0), (2, w.toNat), (3, 3), (3, m.toNat), (5, b.toNat), (5, c.toNat), (5, d.toNat)])
  | .vldx d c b m w =>
    some (0x37, [(3, 0), (2, w.toNat), (3, 4), (3, m.toNat), (5, b.toNat), (5, c.toNat), (5, d.toNat)])
  | .vstx d c b m w =>
    some (0x37, [(3, 0), (2, w.toNat), (3, 5), (3, m.toNat), (5, b.toNat), (5, c.toNat), (5, d.toNat)])
  | .cvtScalarForm d a b u v p q =>
    some (0x38, [(1, 0), (4, q.toNat), (4, p.toNat), (1, v.toNat), (1, u.toNat), (5, b.toNat), (5, a.toNat), (5, d.toNat)])
  | .cvtVectorForm d a b v p q =>
    some (0x38, [(1, 1), (4, q.toNat), (4, p.toNat), (1, v.toNat), (1, 0), (5, b.toNat), (5, a.toNat), (5, d.toNat)])
  | .ecfgCe e a b u v =>
    some (0x3C, [(3, 0), (1, v.toNat), (1, u.toNat), (5, b.toNat), (5, a.toNat), (5, e.toNat), (6, 0)])
  | .cpq d a b u v k =>
    some (0x3C, [(3, k.toNat), (1, v.toNat), (1, u.toNat), (5, b.toNat), (5, a.toNat), (5, d.toNat), (6, 1)])
  | .cppoll d a u =>
    some (0x3C, [(3, 0), (1, 0), (1, u.toNat), (5, 0), (5, a.toNat), (5, d.toNat), (6, 2)])
  | .cpwait a u =>
    some (0x3C, [(3, 0), (1, 0), (1, u.toNat), (5, 0), (5, a.toNat), (5, 0), (6, 3)])
  | .mmaE4e4 a b u v z t k =>
    some (0x3D, [(1, k.toNat), (1, t.toNat), (1, z.toNat), (1, v.toNat), (1, u.toNat), (5, b.toNat), (5, a.toNat), (5, 0), (6, 0)])
  | .mmaE4e5 a b u v z t k =>
    some (0x3D, [(1, k.toNat), (1, t.toNat), (1, z.toNat), (1, v.toNat), (1, u.toNat), (5, b.toNat), (5, a.toNat), (5, 0), (6, 1)])
  | .mmaE5e4 a b u v z t k =>
    some (0x3D, [(1, k.toNat), (1, t.toNat), (1, z.toNat), (1, v.toNat), (1, u.toNat), (5, b.toNat), (5, a.toNat), (5, 0), (6, 2)])
  | .mmaE5e5 a b u v z t k =>
    some (0x3D, [(1, k.toNat), (1, t.toNat), (1, z.toNat), (1, v.toNat), (1, u.toNat), (5, b.toNat), (5, a.toNat), (5, 0), (6, 3)])
  | .mmaE3e3 a b u v z t k =>
    some (0x3D, [(1, k.toNat), (1, t.toNat), (1, z.toNat), (1, v.toNat), (1, u.toNat), (5, b.toNat), (5, a.toNat), (5, 0), (6, 4)])
  | .mmaE2e2 a b u v z t k =>
    some (0x3D, [(1, k.toNat), (1, t.toNat), (1, z.toNat), (1, v.toNat), (1, u.toNat), (5, b.toNat), (5, a.toNat), (5, 0), (6, 5)])
  | .mmaI8i8 a b u v z t k =>
    some (0x3D, [(1, k.toNat), (1, t.toNat), (1, z.toNat), (1, v.toNat), (1, u.toNat), (5, b.toNat), (5, a.toNat), (5, 0), (6, 6)])
  | .mmaI4i4 a b u v z t k =>
    some (0x3D, [(1, k.toNat), (1, t.toNat), (1, z.toNat), (1, v.toNat), (1, u.toNat), (5, b.toNat), (5, a.toNat), (5, 0), (6, 7)])
  | .mmaI8q8 a b u v z t k =>
    some (0x3D, [(1, k.toNat), (1, t.toNat), (1, z.toNat), (1, v.toNat), (1, u.toNat), (5, b.toNat), (5, a.toNat), (5, 0), (6, 8)])
  | .mmaI8q4 a b u v z t k =>
    some (0x3D, [(1, k.toNat), (1, t.toNat), (1, z.toNat), (1, v.toNat), (1, u.toNat), (5, b.toNat), (5, a.toNat), (5, 0), (6, 9)])
  | .mmaI4q4 a b u v z t k =>
    some (0x3D, [(1, k.toNat), (1, t.toNat), (1, z.toNat), (1, v.toNat), (1, u.toNat), (5, b.toNat), (5, a.toNat), (5, 0), (6, 10)])
  | .mmaBf16 a b u v z t k =>
    some (0x3D, [(1, k.toNat), (1, t.toNat), (1, z.toNat), (1, v.toNat), (1, u.toNat), (5, b.toNat), (5, a.toNat), (5, 0), (6, 11)])
  | .mmaF16 a b u v z t k =>
    some (0x3D, [(1, k.toNat), (1, t.toNat), (1, z.toNat), (1, v.toNat), (1, u.toNat), (5, b.toNat), (5, a.toNat), (5, 0), (6, 12)])
  | .mmbE4e4 f a b u v z t k =>
    some (0x3D, [(1, k.toNat), (1, t.toNat), (1, z.toNat), (1, v.toNat), (1, u.toNat), (5, b.toNat), (5, a.toNat), (5, f.toNat), (6, 13)])
  | .mmbE5e5 f a b u v z t k =>
    some (0x3D, [(1, k.toNat), (1, t.toNat), (1, z.toNat), (1, v.toNat), (1, u.toNat), (5, b.toNat), (5, a.toNat), (5, f.toNat), (6, 14)])
  | .mmbE3e3 f a b u v z t k =>
    some (0x3D, [(1, k.toNat), (1, t.toNat), (1, z.toNat), (1, v.toNat), (1, u.toNat), (5, b.toNat), (5, a.toNat), (5, f.toNat), (6, 15)])
  | .mmbE2e2 f a b u v z t k =>
    some (0x3D, [(1, k.toNat), (1, t.toNat), (1, z.toNat), (1, v.toNat), (1, u.toNat), (5, b.toNat), (5, a.toNat), (5, f.toNat), (6, 16)])
  | .ecfgMe e a b u v =>
    some (0x3D, [(1, 0), (1, 0), (1, 0), (1, v.toNat), (1, u.toNat), (5, b.toNat), (5, a.toNat), (5, e.toNat), (6, 32)])
  | .mdrain a b u v f k =>
    some (0x3D, [(1, k.toNat), (1, (f.toNat) % 2), (1, f.toNat / 2), (1, v.toNat), (1, u.toNat), (5, b.toNat), (5, a.toNat), (5, 0), (6, 33)])
  | .mzero k =>
    some (0x3D, [(1, k.toNat), (1, 0), (1, 0), (1, 0), (1, 0), (5, 0), (5, 0), (5, 0), (6, 34)])
  | .redslot d a b u v =>
    some (0x3E, [(3, 0), (1, v.toNat), (1, u.toNat), (5, b.toNat), (5, a.toNat), (5, d.toNat), (6, 0)])
  | .redput a b u v =>
    some (0x3E, [(3, 0), (1, v.toNat), (1, u.toNat), (5, b.toNat), (5, a.toNat), (5, 0), (6, 1)])
  | .redget d a u =>
    some (0x3E, [(3, 0), (1, 0), (1, u.toNat), (5, 0), (5, a.toNat), (5, d.toNat), (6, 2)])
  | .redfree a u =>
    some (0x3E, [(3, 0), (1, 0), (1, u.toNat), (5, 0), (5, a.toNat), (5, 0), (6, 3)])
  | .nop =>
    some (0x23, [(9, 0), (1, 0), (1, 0), (5, 0), (5, 0), (5, 0)])
  | .endFiring =>
    some (0x23, [(9, 1), (1, 0), (1, 0), (5, 0), (5, 0), (5, 0)])
  | .retire =>
    some (0x23, [(9, 3), (1, 0), (1, 0), (5, 0), (5, 0), (5, 0)])
  | .cbar =>
    some (0x24, [(3, 0), (2, 0), (4, 2), (1, 0), (1, 0), (5, 0), (5, 0), (5, 0)])
  | .gbar =>
    some (0x24, [(3, 0), (2, 0), (4, 3), (1, 0), (1, 0), (5, 0), (5, 0), (5, 0)])
  | .snap =>
    some (0x28, [(12, 0), (3, 3), (1, 0), (5, 0), (5, 0)])
  | .vrelease =>
    some (0x36, [(8, 23), (3, 0), (5, 0), (5, 0), (5, 0)])
  | .illegalWord .. => none
  | .launchMessage .. => none
  | .placeRope .. => none
  | .ropeStart .. => none
  | .startMessageReoffer .. => none
  | .firingStart .. => none
  | .messageInject .. => none
  | .messageOffer .. => none
  | .messageAnswer .. => none
  | .budgetExpiry .. => none
  | .valueArrival .. => none
  | .delayExpiry .. => none
  | .storeDrain .. => none
  | .ldwSatisfy .. => none
  | .copyJobStart .. => none
  | .copyJobDone .. => none
  | .streamDeliver .. => none
  | .tourJobStart .. => none
  | .hitch .. => none
  | .hitchReport .. => none
  | .arrivalReoffer .. => none
  | .holdExpiry .. => none
  | .tileOnward .. => none
  | .completionReoffer .. => none
  | .tourSlotScrubDone .. => none
  | .stepStart .. => none
  | .scaleWrite .. => none
  | .stepComplete .. => none
  | .sequencerCommit .. => none
  | .waitaWake .. => none
  | .waitaTimeout .. => none
  | .clusterBarrierComplete .. => none
  | .barrierTreeComplete .. => none
  | .notifyReoffer .. => none
  | .routeSwap .. => none
  | .routeSwapActivate .. => none
  | .limiterRefill .. => none
  | .redslotServe .. => none
  | .contributionArrival .. => none
  | .redgetServe .. => none
  | .redfreeServe .. => none
  | .remoteWriteData .. => none
  | .remoteWriteCompletion .. => none
  | .trapMessageReoffer .. => none
  | .trapAbort .. => none
  | .trapResume .. => none
  | .trapRetry .. => none
  | .trapReplace .. => none
  | .trapwaitExpiry .. => none
  | .tscMissRequest .. => none
  | .tscWalkDone .. => none
  | .faultRetry .. => none
  | .faultDeny .. => none
  | .faultEmulated .. => none
  | .shootdown .. => none
  | .sliceEnd .. => none
  | .switchSlice .. => none
  | .switchSave .. => none
  | .restore .. => none
  | .spillRingDrain .. => none
  | .gangStop .. => none
  | .halt .. => none
  | .release .. => none
  | .managementSnapshot .. => none
  | .snapshotRead .. => none
  | .telemetryFrame .. => none
  | .framesStale => none
  | .safeMaskWithdraw => none
  | .shedDeadline .. => none
  | .classRestore .. => none
  | .currentWindow .. => none
  | .meterWindow .. => none
  | .idleLowRail .. => none
  | .railSwitch .. => none
  | .stackSample .. => none
  | .ropeRetire .. => none
  | .endCable .. => none
  | .query .. => none
  | .attest .. => none
  | .packageReset => none
  | .recoveryImageLoad .. => none
  | .firmwareWrite .. => none
  | .partitionDefine .. => none
  | .vfCreate .. => none
  | .meshrateWrite .. => none
  | .vfctlWrite .. => none
  | .endpointTableWrite .. => none
  | .shadowRootWrite .. => none
  | .droopConfigWrite .. => none
  | .voteWrite .. => none
  | .allotWrite .. => none
  | .dramShareWrite .. => none
  | .slopeWrite .. => none
  | .packetCounterRead .. => none
  | .appliedAtHome .. => none
  | .mdrainWritesApplied .. => none
  | .faultAnswerTimeout .. => none
  | .icacheMissFill .. => none
  | .deliveryContextAssign .. => none
  | .droppedPacket .. => none

/-- The word of an instruction; an event has none (R47). -/
def encode (i : Instr) : Option InstrWord :=
  i.layout.map fun l => .ofNat 32 (2 ^ 26 * l.1 + joinFields l.2)

end Sys2Proof
end

