-- ==== Sys2Proof/Machine/State.lean ====
section
/-! DEFINITION. The state of the machine: everything the spec gives it, as plain data, and the state after reset. -/

namespace Sys2Proof.Machine

/-- Why the machine stops. -/
inductive Fault where
  /-- The agenda, which stands for the world outside and for time, names a cluster or a core that the package does not have (R2, R3).
  Raised by `step` only. Safe: the hardware has no such party, so it has no behaviour that is lost. -/
  | noSuchCore
  deriving DecidableEq, Repr

/-- Why an instruction has no meaning. -/
inductive Refusal where
  /-- The instruction of this mnemonic has no meaning in this model. Raised by `exec` only. Safe: nothing can be proved of it. -/
  | notModelled (mnemonic : String)
  deriving DecidableEq, Repr

/-- The trap codes of Table 16-1 (R310). -/
inductive TrapCode where
  | illegal | empty | rate | budget | align | captag | capspace | capperm | capbounds | tourRevoked
  | xlate | pagefault | ecc | fpx | engine | port | retire | soft
  deriving DecidableEq, Repr

/-- A capability: its fields and its hidden tag (Table 05-1, R129). PERM holds R, W, X and CAP from bit 0 (Table 05-5). -/
structure Cap where
  cursor : BitVec 52
  base : BitVec 52
  mant : BitVec 12
  exp : BitVec 5
  perm : BitVec 4
  space : BitVec 3
  tag : Bool
  deriving DecidableEq, Repr

/-- The null capability (R129). -/
def Cap.null : Cap := ⟨0, 0, 0, 0, 0, 0, false⟩

/-- A table from numbers to data; the last entry of a key that was set stands for it. -/
abbrev Table (α : Type) := List (Nat × α)

/-- Memory: every byte of device memory, of the scratchpads and of the tile stores, by flat location (`Loc`), with what
goes with it: the words that are empty (R139), the granules that are tagged (R137), the words that hold an uncorrectable error (R342).
An unlisted byte reads zero, an unlisted word is full, an unlisted granule untagged, an unlisted word sound (Table 20-4, step 4). -/
structure Memory where
  bytes : List Host.Cell
  empties : List Nat
  tags : List Nat
  bad : List Nat
  deriving DecidableEq, Repr

/-- What a port register of x24 to x27 is bound to (R53, R109, R155, R265); a send port keeps the words of its partial message (R259);
a stream its job with its generation, the words buffered and the number of words still to come (R156). -/
inductive Binding where
  | unbound
  | recv (port : Nat)
  | send (port : Nat) (words : List Word64)
  | stream (job : Nat) (gen : BitVec 8) (words : List Word64) (left : Nat)
  deriving DecidableEq, Repr

/-- A register: one with a full/empty bit (x, f, c), a vector or a mask register, a copy or a matrix engine register (R48, R149, R198, R224). -/
inductive Reg where
  | x (n : BitVec 5)
  | f (n : BitVec 5)
  | c (n : BitVec 5)
  | v (n : BitVec 5)
  | m (n : BitVec 3)
  | ce (n : BitVec 4)
  | me (n : BitVec 4)
  deriving DecidableEq, Repr

/-- The registers that a firing starts with (R108) and that no other firing sees (R110). -/
structure Regs where
  x : Vector Word64 32
  f : Vector Word64 32
  c : Vector Cap 32
  v : Vector (BitVec 4096) 32
  m : Vector (BitVec 128) 8
  ce : Vector (BitVec 128) 16
  me : Vector (BitVec 128) 16
  /-- The empty bits of the x, f and c registers, and the pending marks of the vector registers (R114, R198). -/
  xEmpty : BitVec 32
  fEmpty : BitVec 32
  cEmpty : BitVec 32
  vPending : BitVec 32
  /-- Registers that hold an uncorrectable soft error: x, f, c, v, m, ce and me registers from bit 0, 32, 64, 96, 128, 136 and 152 (R342). -/
  bad : BitVec 168
  flags : BitVec 5
  enable : BitVec 5
  rm : BitVec 3
  sat8 : Bool
  pc : Word64
  /-- The grant of lanes, and the vector length (R193 to R196). -/
  lanes : Nat
  vl : Nat
  /-- The bindings of x24 to x27. -/
  bind : Vector Binding 4
  deriving DecidableEq, Repr

/-- Everything at the values of a firing start but for what depends on the actor (R108). -/
def Regs.zero : Regs where
  x := Vector.replicate 32 0
  f := Vector.replicate 32 0
  c := Vector.replicate 32 Cap.null
  v := Vector.replicate 32 0
  m := Vector.replicate 8 0
  ce := Vector.replicate 16 0
  me := Vector.replicate 16 0
  xEmpty := 0
  fEmpty := 0
  cEmpty := 0
  vPending := 0
  bad := 0
  flags := 0
  enable := 0
  rm := 0
  sat8 := false
  pc := 0
  lanes := 0
  vl := 0
  bind := Vector.replicate 4 .unbound

/-- A message: its type code and words (R20), and for a `cap` message the hidden tag of the capability in words 0 and 1 (R268). -/
structure Msg where
  typ : BitVec 8
  words : List Word64
  tag : Bool
  deriving DecidableEq, Repr

/-- An input port of a placed actor (R20 to R26): its messages, oldest first; how many of them the running firing claimed;
how many words of the first one are read; and its spill ring (R336). -/
structure InPort where
  typ : BitVec 8
  capacity : Nat
  rate : Nat
  msgs : List Msg
  claimed : Nat
  readWords : Nat
  ring : List Msg
  deriving DecidableEq, Repr

/-- A send port of a placed actor (R27, R257, R261): destination word, next SEQ, whether it injected anything since placement, how many
messages this firing injected, the refusals of them by SEQ and reason, latest first, and the messages without an answer, by SEQ and firing. -/
structure OutPort where
  typ : BitVec 8
  rate : Nat
  dest : Word64
  seq : BitVec 16
  used : Bool
  sent : Nat
  refusals : List (BitVec 16 × BitVec 3)
  unanswered : List (BitVec 16 × Nat)
  deriving DecidableEq, Repr

/-- An entry of an actor's handler table (R40, R269). -/
structure Handler where
  mask : BitVec 8
  entry : Nat
  on : Bool
  deriving DecidableEq, Repr

/-- What holds an actor slot. HELD, IDLE and READY of Table 04-1 are `waiting`; `slotStatus` tells them apart. -/
inductive Phase where
  | vacant | waiting | firing | parked | retired
  deriving DecidableEq, Repr

/-- An actor slot of a core (R98) and the actor it holds. -/
structure Slot where
  phase : Phase
  rope : Nat
  strand : Nat
  actor : Nat
  limit : BitVec 21
  barred : Bool
  ins : List InPort
  outs : List OutPort
  handlers : List Handler
  /-- The state region: scratchpad offset, declared bytes and placed bytes (R39, R45). -/
  stateBase : Nat
  stateBytes : Nat
  stateLen : Nat
  /-- The scratch allotment of the strand on this core; length 0 is none (R38). -/
  scratchBase : Nat
  scratchLen : Nat
  deriving DecidableEq, Repr

/-- A slot that holds no actor; BUDGET.LIMIT has its reset value (Table 04-2). -/
def Slot.vacant : Slot := ⟨.vacant, 0, 0, 0, 0x100000, false, [], [], [], 0, 0, 0, 0, 0⟩

/-- A store in a core's store buffer (R136): for each byte its location, value and the bits it writes (only `stb` writes a part of
a byte); what it does to its word's full/empty bit (R139) and to its granules' tags (R137); whether its page is replicated and,
if so, whether it already went to the sequencer (R248); and the entry of the buffer that it takes, which the elements of a vector store in one
64-byte block share, though each is an event of its own (R217, R218, R240). -/
structure StoreEntry where
  no : Nat
  bytes : List (Nat × Byte × Byte)
  fullBit : Option (Nat × Bool)
  tags : List (Nat × Bool)
  replicated : Bool
  sent : Bool
  unit : Nat
  deriving DecidableEq, Repr

/-- What an atomic does to its word (R272 to R274). -/
inductive AtomicOp where
  | add | and | or | xor | min | max | minn | maxn | swap | addz
  | fadd | fmin | fmax | fminn | fmaxn
  | cas (expected : Word64)
  deriving DecidableEq, Repr

/-- How a loaded value fills its destination (R140, R144): bytes and sign, boxed into an f register, a capability, or a field of bits. -/
inductive Fill where
  | bits (lo width : Nat) (signed : Bool)
  | signed (bytes : Nat)
  | zeroed (bytes : Nat)
  | boxed (bytes : Nat)
  | cap (keepTag : Bool)
  deriving DecidableEq, Repr

/-- A value on its way to a register. -/
inductive Value where
  | word (w : Word64)
  | cap (c : Cap)
  | vec (b : BitVec 4096)
  deriving DecidableEq, Repr

/-- One element of a vector load: its lane position, location, bytes, and DETAIL of a trap of its access (R217, Table 16-3). -/
structure ElemLoad where
  pos : Nat
  loc : Nat
  bytes : Nat
  replicated : Bool
  detail : Word64
  deriving DecidableEq, Repr

/-- What an outstanding long-latency producer still has to do (R114). -/
inductive Pending where
  /-- The load or atomic is performed, and its value only has to arrive. -/
  | ready (v : Value)
  /-- An engine's answer is decided and only has to arrive. -/
  | answer (v : Value)
  /-- What a `waita` has read, which only has to arrive; R136 does not count it among the outstanding loads (R114, R278). -/
  | waited (v : Value)
  /-- `cppoll` (R152): the job's record is read as the value arrives. -/
  | poll (job : Word64)
  /-- A load not performed yet: location, bytes, whether its page is replicated, and how the value fills the register. -/
  | load (loc bytes : Nat) (replicated : Bool) (fill : Fill)
  /-- A load that waits for its word to be full; and its value, with whether no error is in it, once a write has made the word full, for as long as it stays full (R143, R147, R342). -/
  | loadFull (loc : Nat) (fill : Fill) (seen : Option (Value × Bool))
  /-- A `waita` whose monitor is armed (R278). -/
  | monitor
  /-- A `waita` that has issued, and whose first read is still to come: the operand, the location, and whether its page is replicated (R247, R278). -/
  | arm (operand : Word64) (loc : Nat) (replicated : Bool)
  /-- A `waita` that was armed after its issue: location, whether its page is replicated, time of arming, and whether a wake event came (R278, R279). -/
  | armed (loc : Nat) (replicated : Bool) (since : Nat) (woken : Bool)
  /-- A vector load: the elements still to be performed and the register's value so far. -/
  | vload (elems : List ElemLoad) (width : Nat) (acc : BitVec 4096)
  /-- An atomic not performed yet: location, bytes, operation, operand, order, scope; the cursor and the issuing rope, for `aaddz`;
  how the old value fills the destination. -/
  | atomic (loc bytes : Nat) (op : AtomicOp) (operand : Word64) (order : BitVec 2) (scope : BitVec 3) (cursor : BitVec 52) (rope : Nat)
      (replicated : Bool) (fill : Fill)
  /-- `mstat` (R261): the port; the messages it waits for; how many the firing had injected, and the SEQ of the latest injection. -/
  | mstat (port : Nat) (wait : List (BitVec 16)) (sent : Nat) (last : BitVec 16)
  /-- `redslot`, waiting for its router (R299). -/
  | redslot
  /-- `redget`, waiting for its router (R303). -/
  | redget
  /-- The answer is a trap, raised at the next instruction boundary (R311). -/
  | fail (code : TrapCode) (detail : Word64)
  deriving DecidableEq, Repr

/-- An outstanding long-latency producer (R114): its number, the address it issued at, its firing and its destination. -/
structure Producer where
  no : Nat
  pc : Word64
  firing : Nat
  dest : Option Reg
  /-- DETAIL of a trap that its answer raises (Table 16-3). -/
  detail : Word64
  pending : Pending
  /-- An interlocked access that is performed after its issue: its destination is not EMPTY, and holds up what reads or writes it (R116, R247). -/
  late : Bool
  deriving DecidableEq, Repr

/-- What a firing waits on with its issue stopped. -/
inductive Wait where
  | none
  /-- `delay`: the timebase value that ends it (R128). -/
  | delay (till : Nat)
  /-- `waita` with its monitor armed: the number of its producer, location, whether its page is replicated, time of arming, and whether a wake event came (R278, R279). -/
  | waita (no loc : Nat) (replicated : Bool) (since : Nat) (woken : Bool)
  /-- `cbar`: arrived at the strand's cluster barrier (R280). -/
  | cbar
  /-- `gbar` or `bmin`: arrived at the rope's barrier tree, with the destination of a `bmin` (R281, R282). -/
  | tree (rd : Option (BitVec 5))
  /-- A gang form at the wired barrier (R231): pair, operand words and the registers that give them, scale register, zero-first, tile source, bank, and the
  number below which every access of the core has to be performed first. -/
  | gang (pair : Nat) (op1 op2 : Word64) (a b : BitVec 5) (fs : BitVec 5) (zero tile bank : Bool) (opNo : Nat)
  /-- `mdrain` with its writes under way: destination space, cursor of row 0, row pitch, format, saturation, bank, the next row (R235). -/
  | mdrain (space : BitVec 3) (from_ pitch : Nat) (fmt : BitVec 2) (sat bank : Bool) (row : Nat)
  /-- A vector store of more than 16 blocks: the elements that have not entered the store buffer (R218). -/
  | vstore (elems : List StoreEntry)
  /-- `cpwait` on a job (R153). -/
  | cpwait (job : Word64)
  /-- The instruction cache misses (R103). -/
  | icache
  /-- `end` or `retire` waits for the outstanding producers of its firing (R111). -/
  | finishing
  deriving DecidableEq, Repr

/-- Why a firing is PARKED. -/
inductive Park where
  /-- A trap awaits its supervisor: code, DETAIL, the address reported, when it parked, and where a RESUME goes on; for a trap that `end`
  or `retire` reports, that instruction goes on (R311, R312, R315). -/
  | trap (code : TrapCode) (detail pc : Word64) (since : Nat) (next : Option Word64)
  /-- The translation of an access is being fetched: virtual address and direction (R321); and the destination of a load, which is empty meanwhile (R141). -/
  | translation (va : BitVec 52) (write : Bool) (dest : Option Reg)
  deriving DecidableEq, Repr

/-- One entry in a core's send queue (R260): what it sends, and the number below which every access of the core has to be performed first (R245). -/
structure SendEntry where
  opNo : Nat
  slot : Nat
  rope : Nat
  firing : Nat
  /-- The send port, or none for a `redput` contribution. -/
  port : Option Nat
  dest : Word64
  msg : Msg
  /-- SEQ of a message, and the location of its actor's capability granule (R268). -/
  seq : BitVec 16
  granule : Nat
  deriving DecidableEq, Repr

/-- A TLB entry (R329). -/
structure TlbEntry where
  vpn : BitVec 36
  vf : BitVec 9
  size : BitVec 2
  frame : BitVec 23
  r : Bool
  w : Bool
  repl : Bool
  deriving DecidableEq, Repr

/-- The latched snapshot registers of a core (Table 16-15). -/
structure Snap where
  seq : BitVec 16
  cause : BitVec 3
  cyc : Word64
  sent : Word64
  recv : Word64
  pc : BitVec 22
  valid : Bool
  deriving DecidableEq, Repr

/-- What a RESUME or REPLACE of an FPX trap still has to write (R201): the destination and its default result. -/
inductive FpDefault where
  | none
  | x (rd : BitVec 5) (v : Word64)
  | f (fd : BitVec 5) (v : Word64)
  | v (vd : BitVec 5) (b : BitVec 4096)
  | m (md : BitVec 3) (b : BitVec 128)
  deriving DecidableEq, Repr

/-- A compute core, or a TSC (whose firings are firmware's, R330). -/
structure Core where
  regs : Regs
  slots : Vector Slot 16
  /-- The slot that is FIRING or PARKED (R99), the handler of its firing and the number of the firing on this core. -/
  running : Option (Fin 16)
  handler : BitVec 3
  firingNo : Nat
  /-- The stream jobs that the firing has queued (R156). -/
  streams : Nat
  /-- The cycles that the running firing has left, and its LIMIT when it started (R105, R106). -/
  left : BitVec 21
  budget : BitVec 21
  wait : Wait
  park : Option Park
  fpDefault : FpDefault
  prods : List Producer
  stores : List StoreEntry
  /-- The number of the next store, load or atomic of this core, in program order. -/
  opNo : Nat
  /-- Release fences with their number and scope, kept while an older access is outstanding (R244, case 7). -/
  fences : List (Nat × BitVec 3)
  sendQ : List SendEntry
  /-- Writes to HBIND that wait for the boundary, oldest first, and BAD (R269, R270). -/
  hbind : List Word64
  hbad : Bool
  pointers : Vector (BitVec 4) 8
  parkseq : BitVec 16
  cycles : Word64
  tlb : Vector (Option TlbEntry) 64
  tlbPtr : BitVec 6
  /-- The pages of later entries that took addresses from the entry at a place of the TLB: that entry gives no translation there any more (R250). -/
  tlbOld : List (Nat × TlbEntry)
  snap : Snap
  sent : Word64
  recv : Word64
  /-- The virtual addresses of the accesses of the instruction at the program counter that the hypervisor emulated, with its values (R326). -/
  emul : List (BitVec 52 × Word64)
  /-- Scale registers that a started step still has to write: step, register, firing, value (R223, R229). -/
  scales : List (Nat × BitVec 5 × Nat × Word64)
  /-- Where execution goes on after the one instruction that a RETRY of a producer's trap issues again, innermost first (R311, R315). -/
  after : List Word64
  /-- The model's own: whether the next interlocked access is performed after its issue, as R247 allows (log entry 2). -/
  late : Bool
  deriving DecidableEq, Repr

/-- A core after reset: every slot VACANT, every scheduler pointer 15 (R100), counters zero; registers at zero (log entry 1). -/
def Core.reset : Core where
  regs := Regs.zero
  slots := Vector.replicate 16 Slot.vacant
  running := none
  handler := 0
  firingNo := 0
  streams := 0
  left := 0
  budget := 0
  wait := .none
  park := none
  fpDefault := .none
  prods := []
  stores := []
  opNo := 0
  fences := []
  sendQ := []
  hbind := []
  hbad := false
  pointers := Vector.replicate 8 15
  parkseq := 0
  cycles := 0
  tlb := Vector.replicate 64 none
  tlbPtr := 0
  tlbOld := []
  snap := ⟨0, 0, 0, 0, 0, 0, false⟩
  sent := 0
  recv := 0
  emul := []
  scales := []
  after := []
  late := false

/-- The states of a copy job (Table 06-2). -/
inductive JobState where
  | queued | running | done | fault | touring
  deriving DecidableEq, Repr

/-- One side of a transfer: the space, the address of row 0, the distance between rows (R150). -/
structure Side where
  space : BitVec 3
  addr : Nat
  stride : Int
  deriving DecidableEq, Repr

/-- What a job of the copy unit does (R150, R156, R157). -/
inductive JobWork where
  | none
  | copy (src dst : Side)
  | stream (src : Side)
  | tour (src : Side) (itinerary : Nat)
  deriving DecidableEq, Repr

/-- The record of a job identifier (R148, R152): its generation, state and cause, the bytes done, and the job it names:
the issuing core, firing and rope, the work, the rows and the number below which every access of the core has to be performed first (R151, R246); the words of a stream that no register is bound to; by their places, the words of the row being copied that are read and not written yet, or those
of a tile that are read; whether a stream is bound; whether the identifier is allocated; whether a tour waits aside for a slot (R165). -/
structure Job where
  gen : BitVec 8
  state : JobState
  cause : BitVec 8
  done : Nat
  taken : Bool
  rope : Nat
  core : Nat
  firing : Nat
  work : JobWork
  rowBytes : Nat
  rows : Nat
  opNo : Nat
  buf : List Word64
  row : List (Nat × Word64)
  bound : Bool
  aside : Bool
  deriving DecidableEq, Repr

/-- An identifier that no job has used: generation 0 (R148). -/
def Job.free : Job := ⟨0, .done, 0, 0, false, 0, 0, 0, .none, 0, 0, 0, [], [], false, false⟩

/-- What a tour slot holds (R158, R163). -/
inductive SlotUse where
  | free | scrubbing | tile (tour : Nat)
  deriving DecidableEq, Repr

/-- Where a tile stands with its stop (R158 to R166). -/
inductive TourPhase where
  /-- A slot is granted: the tile's source is read, or the tile is on its way or handed over; the hitch is next (R158, R163, R165). -/
  | granted
  /-- The arrival message is held by the Halyard: offered and refused FULL, or taken back at a switch-out (R158, R167). -/
  | held
  /-- The arrival message is accepted and unclaimed. -/
  | arrived
  /-- A firing that claimed the arrival holds the tile: cluster of the stop is the tile's; core, slot and firing (R159). -/
  | visited (core slot firing : Nat)
  /-- Cast, expired or handed on: the Halyard sends the tile onward once its accesses drained (R162, R163). -/
  | leaving
  /-- Waits for a slot of the next stop's cluster since the request cycle given (R164). -/
  | waiting (since : Nat)
  /-- Waits for an entry of the completion queue since the cycle given (R166). -/
  | finishing (since : Nat)
  /-- The completion message is in the completion queue. -/
  | completing
  deriving DecidableEq, Repr

/-- A tour under way (R157 to R167). -/
structure Tour where
  origin : Nat
  job : Nat
  rope : Nat
  itinerary : Nat
  len : Nat
  /-- The cluster and slot that hold the tile. -/
  at_ : Option (Nat × Nat)
  /-- The cluster and slot granted for the next hitch. -/
  grant : Option (Nat × Nat)
  stop : Nat
  lap : Bool
  lapRun : Bool
  mask : BitVec 64
  phase : TourPhase
  /-- The hold count runs from this value of CYCLES of the stop's core; none while it does not run (R159). -/
  holdFrom : Option Nat
  slotWait : Nat
  expiries : Nat
  fault : Bool
  /-- Whether the origin unit has seen the first hitch (R152). -/
  reported : Bool
  deriving DecidableEq, Repr

/-- A tour slot: its generation and what it holds (R158). -/
structure TourSlot where
  gen : BitVec 16
  use : SlotUse
  deriving DecidableEq, Repr

/-- An accumulator bank of a slice: owner (rope and strand), 16 × 128 f32 values from bit 0, and poison (R221, R238). -/
structure Bank where
  owner : Option (Nat × Nat)
  data : BitVec 65536
  poison : Bool
  deriving DecidableEq, Repr

/-- One core's part in a started step (R226, R228): its bank, its zero-first bit, its geometry me0, the location of its activation tensor, its operand word rs1, its
scale exponent, and, once every operand is read, the sums that its bank takes, 16 × 128 f32 values from bit 0, and whether a word read was in error (R188, R238). -/
structure StepPart where
  core : Nat
  bank : Bool
  zero : Bool
  geo : BitVec 128
  baseA : Nat
  op1 : Word64
  scale : Option Nat
  sums : Option (BitVec 65536 × Bool)
  deriving DecidableEq, Repr

/-- A step that started and has not completed (R223): its pair, its block of B with the location of its region, HLEN, group size and tour slot (R227); the operand words that
are read already, each with whether it was in error (R233); and the parts of its cores. -/
structure MatStep where
  no : Nat
  /-- The strand whose gang issued it: rope and strand. -/
  owner : Nat × Nat
  pair : Nat
  baseB : Nat
  hlen : Nat
  group : Nat
  blk : Nat
  tile : Option Nat
  seen : List (Nat × Word64 × Bool)
  parts : List StepPart
  deriving DecidableEq, Repr

/-- A held reduction slot (R296). -/
structure RedHeld where
  vf : Nat
  rope : Nat
  coll : BitVec 8
  oneShot : Bool
  fmt : BitVec 3
  count : Nat
  parent : Word64
  inst : BitVec 2
  part : Option Word64
  got : Nat
  full : Bool
  deriving DecidableEq, Repr

/-- A reduction slot of a router. -/
structure RedSlot where
  gen : BitVec 16
  held : Option RedHeld
  deriving DecidableEq, Repr

/-- A request at a router: `redslot`, `redget` or `redfree` of a core (R299, R303, R304). -/
structure RedReq where
  no : Nat
  stamp : Nat
  part : Nat
  cluster : Nat
  core : Nat
  rope : Nat
  producer : Nat
  word1 : Word64
  word2 : Word64
  instrWord : InstrWord
  /-- Whether its packet was injected; one that found its limiter empty waits at injection (R294). -/
  sent : Bool
  deriving DecidableEq, Repr

/-- A contribution on its way to a slot, or held there: from a core (with what reports its refusal) or from a child slot (R301, R302). -/
structure Contribution where
  no : Nat
  rope : Nat
  handle : Word64
  value : Word64
  /-- The sending core and slot; none for a partial. -/
  origin : Option (CoreId × Nat)
  /-- The cluster and slot of the child that offers its partial. -/
  child : Option (Nat × Nat)
  deriving DecidableEq, Repr

/-- Who waits for a translation: a core of the cluster, or a job of its copy unit (R321, R154). -/
inductive Waiter where
  | core (k : Nat)
  | job (id : Nat)
  deriving DecidableEq, Repr

/-- A miss on its way to the TSC, or a walk (R322). -/
structure Walk where
  no : Nat
  vf : Nat
  va : BitVec 52
  write : Bool
  waiters : List Waiter
  /-- The fault message went to the hypervisor at this time (R325). -/
  asked : Option Nat
  deriving DecidableEq, Repr

/-- An entry of a cluster's completion queue (R166). -/
structure Completion where
  no : Nat
  tour : Nat
  msg : Msg
  deriving DecidableEq, Repr

/-- What one cluster holds beside its cores. -/
structure Cluster where
  jobs : Vector Job 64
  jobPtr : BitVec 6
  /-- The job queue, oldest first (R148). -/
  queue : List Nat
  slots : Vector TourSlot 32
  completions : List Completion
  banks : Vector Bank 16
  steps : List MatStep
  /-- The retired strands, as rope and strand, whose banks are cleared once their last started step has completed (R238). -/
  doomed : List (Nat × Nat)
  redSlots : Vector RedSlot 8
  redHold : List Contribution
  redReqs : List RedReq
  redGets : List RedReq
  redFrees : List RedReq
  redPackets : List Contribution
  redPtr : BitVec 4
  cache : List TlbEntry
  misses : List Walk
  walks : List Walk
  /-- The number that the TSC gives its next walk, modulo 2^16 (Table 16-11). -/
  walkNext : Nat
  /-- Whether the cluster is on the high rail, and when it last had a firing or work (R359). -/
  high : Bool
  busyAt : Nat
  /-- The lane arbiter (R195): the first core cycle in which no core has taken shared lanes yet; and the shared lanes that the ends of firings returned, each with the core
  cycle from which on they are free. -/
  lanesNext : Nat
  lanesOwed : List (Nat × Nat)
  deriving DecidableEq, Repr

/-- A cluster after reset: R148, R158, R221, R296, R300, R322, R359. -/
def Cluster.reset : Cluster where
  jobs := Vector.replicate 64 Job.free
  jobPtr := 63
  queue := []
  slots := Vector.replicate 32 ⟨0, .free⟩
  completions := []
  banks := Vector.replicate 16 ⟨none, 0, false⟩
  steps := []
  doomed := []
  redSlots := Vector.replicate 8 ⟨0, none⟩
  redHold := []
  redReqs := []
  redGets := []
  redFrees := []
  redPackets := []
  redPtr := 15
  cache := []
  misses := []
  walks := []
  walkNext := 0
  high := true
  busyAt := 0
  lanesNext := 0
  lanesOwed := []

/-- A port as an image declares it (R40). -/
structure PortDecl where
  typ : BitVec 8
  capacity : Nat
  rate : Nat
  deriving DecidableEq, Repr

/-- An actor as an image declares it (R39, R40, Table 01-6). -/
structure ActorDecl where
  core : Nat
  ins : List PortDecl
  outs : List PortDecl
  handlers : List (BitVec 8 × Nat)
  stateBytes : Nat
  init : Option Nat
  deriving DecidableEq, Repr

/-- A strand as an image declares it (R38). -/
structure StrandDecl where
  scratch : Nat
  actors : List ActorDecl
  deriving DecidableEq, Repr

/-- An itinerary as an image declares it (R41). -/
structure ItinDecl where
  stops : List Nat
  lap : Bool
  port : Nat
  actor : Nat
  hold : Nat
  deriving DecidableEq, Repr

/-- A rope as an image declares it (R37). -/
structure RopeDecl where
  cls : BitVec 3
  supervisor : Option Nat
  strands : List StrandDecl
  itins : List ItinDecl
  deriving DecidableEq, Repr

/-- A loaded text: one copy for each pair of VF and image (R45). -/
structure Text where
  vf : Nat
  image : BitVec 52
  bytes : List Byte
  /-- The words, by number, that hold an uncorrectable soft error (R342). -/
  bad : List Nat
  deriving DecidableEq, Repr

/-- The extent that a strand holds on a core of its cluster (R89, R92). -/
structure Extent where
  core : Nat
  base : Nat
  len : Nat
  deriving DecidableEq, Repr

/-- A placed strand: its cluster, extents, the cores whose `cbar` arrived (R280), and whether it retired (R368). -/
structure Strand where
  cluster : Nat
  extents : List Extent
  arrived : List Nat
  retired : Bool
  deriving DecidableEq, Repr

/-- The outcomes of Table 20-1. -/
inductive RopeOutcome where
  | ok | depfail | ended | gangstop | lostimage
  deriving DecidableEq, Repr

/-- How a shed stands with a rope (R352 to R354). -/
inductive ShedState where
  | none
  /-- A shed request is under way: the rope stops at its shed point or at this time. -/
  | asked (deadline : Nat)
  /-- The rope is stopped. -/
  | stopped
  deriving DecidableEq, Repr

/-- What a tour, or a copy job from device memory, of a rope read, for the reread counter (R169): its cluster, its job value, whether it is a tour, whether it was
counted, and its source ranges as physical bytes, as far as it has read. -/
structure SourceNote where
  cluster : Nat
  job : Nat
  tour : Bool
  counted : Bool
  ranges : List (Nat × Nat)
  deriving DecidableEq, Repr

/-- A placed rope (R17, R88 to R97). -/
structure Rope where
  vf : Nat
  cable : Nat
  /-- The rope's position in its cable's ROPES list. -/
  pos : Nat
  decl : RopeDecl
  image : BitVec 52
  context : Nat
  strands : List Strand
  /-- The placement table (Table 03-6). -/
  placement : List (BitVec 32)
  /-- The argument block: its device virtual address and placed length (R45). -/
  argVa : BitVec 52
  argLen : Nat
  /-- The launcher's start messages not accepted yet: logical actors (R96). -/
  toStart : List Nat
  scrubbed : Bool
  fireable : Bool
  shed : ShedState
  /-- The arrivals at the barrier tree: cluster, core and a `bmin`'s value (R281, R282). -/
  tree : List (Nat × Nat × Option Word64)
  reread : BitVec 32
  notifyLost : BitVec 32
  /-- The sources of the rope's tours and copies, newest first (R169). -/
  sources : List SourceNote
  /-- Ended by END, GANGSTOP or LOSTIMAGE before its strands retired (R370). -/
  ending : Option RopeOutcome
  retired : Bool
  deriving DecidableEq, Repr

/-- The cable states of Table 03-3. -/
inductive CableState where
  | queued | inLaunch | running | complete
  deriving DecidableEq, Repr

/-- A cable (R18, R76, R79). -/
structure Cable where
  vf : Nat
  name : BitVec 16
  cls : BitVec 3
  ropes : List Nat
  deps : List (BitVec 16)
  image : BitVec 52
  args : List Byte
  done : Word64
  reply : Word64
  tag : Word64
  state : CableState
  acceptedAt : Nat
  /-- The rope placed last, counted from 1; the numbers of the placed ropes; the outcome of each position. -/
  next : Nat
  placed : List Nat
  outcomes : List (Nat × RopeOutcome)
  outcome : RopeOutcome
  decider : Nat
  elapsed : Nat
  firings : Nat
  cycles : Nat
  reread : Nat
  lost : Nat
  deriving DecidableEq, Repr

/-- A save image (Table 16-14): the slots with what belongs to them, and what each extent held, by its first location. The state of a rope's
barriers stays in the rope's own record. -/
structure SaveImage where
  slots : List (CoreId × Nat × Slot)
  words : List (Nat × Memory)
  /-- Whether the image can still be read (R337). -/
  readable : Bool
  deriving DecidableEq, Repr

/-- A virtual function (R77, R80, R83, R91, R295, R323, R332, R335). -/
structure Vf where
  part : Nat
  slice : BitVec 32
  classB : Bool
  floor : BitVec 3
  trapWait : BitVec 8
  faultEp : BitVec 12
  seqDie : BitVec 2
  endpoints : Table Endpoint
  root : BitVec 39
  launchPort : List Msg
  completion : Table Nat
  ptr : Nat
  throttleAcc : Word64
  overrun : BitVec 32
  gap : BitVec 32
  saved : Option SaveImage
  /-- Completions of remote writes held while the VF is switched out: address and count (R308). -/
  heldWrites : List (Word64 × Nat)
  deriving DecidableEq, Repr

/-- How a slice stands (R333, R334). -/
inductive SlicePhase where
  /-- No VF holds the slice; the VF whose slice ended last, and when. -/
  | idle (last : Option (Nat × Nat))
  /-- The VF holds the slice since the time given, when its partition's cores had counted so many cycles together. -/
  | running (vf since cyc : Nat)
  /-- The slice of the VF ended at the time given; its firings run to their boundaries, of which the last was at the second time. -/
  | ending (vf since last : Nat)
  /-- The VF is saved; its slice ended at the time given. -/
  | saved (vf since : Nat)
  deriving DecidableEq, Repr

/-- A partition (R86, R294, R333, R358, R360, R362). -/
structure Part where
  base : Nat
  len : Nat
  barctx : Nat
  rate : BitVec 32
  burst : BitVec 16
  /-- The injection limiter's bucket of each cluster, in thousandths of a byte, and when it was last refilled (R294). -/
  buckets : Table (Int × Nat)
  /-- The loads and atomics, by the key of their core and their number, that were on the mesh when the swap of the network's routes began (R293). -/
  crossing : List (Nat × Nat)
  rotation : Nat
  slicePhase : SlicePhase
  /-- Once the ticks of the running slice have passed: when, the cycles that the partition's cores had counted together by then, and the time of the latest firing
  boundary since (R335). -/
  lapsed : Option (Nat × Nat × Nat)
  allot : BitVec 12
  lastWin : BitVec 16
  throttle : BitVec 5
  calmWindows : Nat
  fillAcc : Word64
  votes : Vector (BitVec 16) 4
  shares : Vector Nat 4
  /-- A fatal fault calls for a gang stop (R338); the partition is gang-stopped (R339). -/
  fatal : Bool
  halted : Bool
  /-- How far the latest snapshot trigger has to spread: each core, by its key, with the count of its cycles at which it has latched; and the free value of the counters
  that the units latched then (R5, R340; log entry 55). -/
  spread : List (Nat × Nat)
  latched : Option Nat
  deriving DecidableEq, Repr

/-- A partition after reset: disabled (R86). -/
def Part.reset : Part where
  base := 0
  len := 0
  barctx := 0
  rate := 0
  burst := 0
  buckets := []
  crossing := []
  rotation := 0
  slicePhase := .idle none
  lapsed := none
  allot := 0
  lastWin := 0
  throttle := 0
  calmWindows := 0
  fillAcc := 0
  votes := Vector.replicate 4 0
  shares := Vector.replicate 4 0
  fatal := false
  halted := false
  spread := []
  latched := none

/-- Who sends a message (R263). -/
inductive Sender where
  | port (at_ : CoreId) (slot port rope : Nat)
  | launcher (vf : Nat)
  | halyard (tour : Nat)
  | completion (cluster entry : Nat)
  | atomicUnit (cluster rope : Nat)
  | trapUnit (at_ : CoreId) (rope : Nat)
  | tsc (cluster : Nat)
  | host (vf endpoint : Nat)
  deriving DecidableEq, Repr

/-- A message on the mesh (R260, R291): its number, sender, the sender's own VF and cluster, its destination address,
and what a send port needs for its answer (R261, R262). -/
structure Packet where
  no : Nat
  sender : Sender
  vf : Nat
  cluster : Nat
  dest : Word64
  msg : Msg
  seq : BitVec 16
  /-- The rope position for a launcher's start message, to find the actor it is for (R96). -/
  startOf : Option (Nat × Nat)
  deriving DecidableEq, Repr

/-- What a mailbox unit answers (R264); the codes are LASTWHY's (Table 11-3). -/
inductive Answer where
  | accepted | full | type | spillFull | noActor | instance_
  deriving DecidableEq, Repr

/-- A store or an atomic on its way to its home on another die, or to the sequencer (R244, R248). -/
structure Update where
  no : Nat
  at_ : CoreId
  /-- A store, or the number of the producer of an atomic. -/
  work : StoreEntry ⊕ Nat
  /-- At the sequencer: the dies whose replicas have marked the word pending and acknowledged (R248). -/
  acks : List Nat
  deriving DecidableEq, Repr

/-- A notification that waits in a home's notify queue (R275): until every access of a core below a number is performed (R245), or for room in its port. -/
structure Notice where
  no : Nat
  packet : Packet
  after : Option (CoreId × Nat)
  deriving DecidableEq, Repr

/-- A trap message that waits: for the core's earlier accesses, of which the first later one has the number given (R245), or for room in the
supervisor's port (R312). -/
structure HeldTrap where
  at_ : CoreId
  /-- The rope whose firing trapped, which waits for its message (R369). -/
  rope : Nat
  opNo : Nat
  packet : Packet
  deriving DecidableEq, Repr

/-- A `sys:2` message accepted at a firmware system port, that firmware has not served yet (R315, R326, R327). -/
structure SysReq where
  no : Nat
  vf : Nat
  service : Nat
  word0 : Word64
  word1 : Word64
  reply : Packet
  /-- The clusters whose TSC has answered a shootdown (R327). -/
  done : List Nat
  /-- When the port accepted it (R316, R326). -/
  at_ : Nat
  deriving DecidableEq, Repr

/-- A delivery context (R305): its VF, whether it is ordered (ROD), its entropy values, and the place of the next one. -/
structure DeliveryContext where
  vf : Nat
  ordered : Bool
  entropy : List (BitVec 16)
  next : Nat
  deriving DecidableEq, Repr

/-- A remote write transfer: its delivery context and the VF of that, bytes landed of the total, and its completion address (R307). -/
structure Transfer where
  ctx : Nat
  vf : Nat
  total : Nat
  landed : Nat
  address : Word64
  deriving DecidableEq, Repr

/-- A droop point: its configuration word and whether it is active (R349, R350). -/
structure DroopPoint where
  word : Word64
  active : Bool
  deriving DecidableEq, Repr

/-- The power controller and the shelf (R347 to R362). -/
structure Power where
  points : Vector DroopPoint 8
  control : Word64
  /-- Configuration words written that wait for the next accepted frame (R349). -/
  pendingWrites : List (Nat × Word64)
  seq : BitVec 16
  freq : BitVec 32
  vbus : BitVec 32
  bad : BitVec 16
  gaps : BitVec 16
  heard : Bool
  stale : Bool
  lastFrame : Nat
  /-- When frames began to be accepted without a gap to staleness (R351). -/
  freshSince : Nat
  curve : BitVec 8
  safe : BitVec 8
  shed : BitVec 8
  /-- For each class, when it became unnamed (R355). -/
  unnamedSince : List (Nat × Nat)
  lastShed : BitVec 32
  /-- The frame time of the latest shed that is not complete, and its classes (R353). -/
  shedFrom : Option (Nat × BitVec 8)
  lastRest : BitVec 32
  lastRestore : Option Nat
  restoreRising : Bool
  down : BitVec 16
  up : BitVec 16
  missed : BitVec 16
  /-- The estimate of the last window, in milliamperes, and the load of each cluster in it (R356). -/
  current : Nat
  loads : List (Nat × Nat)
  /-- By how much the load of each cluster fell since filler began to run, in milliamperes: who pays for it (R356). -/
  fallen : List (Nat × Nat)
  /-- Votes that ceased to count, or were lowered, and hold a rail up until their partition's clusters on the die leave it: die, mV, clusters (R360). -/
  heldVotes : List (Nat × Nat × List Nat)
  /-- Each die's high rail: target and voltage now, mV (R360). -/
  target : Vector Nat 4
  nowMv : Vector Nat 4
  thermal : Vector Nat 4
  temp : Vector Nat 4
  coolSamples : Vector Nat 4
  selfRefresh : Vector Bool 4
  deriving DecidableEq, Repr

/-- The power controller after reset (Tables 18-2 and 18-6): every class but 0 is shed, frames are stale. -/
def Power.reset : Power where
  points := Vector.replicate 8 ⟨0, false⟩
  control := 0x0A00C8FE
  pendingWrites := []
  seq := 0
  freq := 0
  vbus := 0
  bad := 0
  gaps := 0
  heard := false
  stale := true
  lastFrame := 0
  freshSince := 0
  curve := 0
  safe := 0xFE
  shed := 0xFE
  unnamedSince := []
  lastShed := 0
  shedFrom := none
  lastRest := 0
  lastRestore := none
  restoreRising := false
  down := 25
  up := 25
  missed := 0
  current := 0
  loads := []
  fallen := []
  heldVotes := []
  target := Vector.replicate 4 850
  nowMv := Vector.replicate 4 850
  thermal := Vector.replicate 4 0
  temp := Vector.replicate 4 0
  coolSamples := Vector.replicate 4 0
  selfRefresh := Vector.replicate 4 false

/-- The boot of the package (R375 to R378): the step of Table 20-4 that ended last, recovery, the flash slots,
the digest and SVN of the running image, the fused minimum, and the attestation key. -/
structure Boot where
  step : Nat
  recovery : Bool
  slotA : List Byte
  slotB : List Byte
  digest : BitVec 384
  svn : BitVec 32
  minSvn : BitVec 8
  /-- The number of the boot's attestation key (R378). -/
  attestKey : Nat
  deriving DecidableEq, Repr

/-- What leaves the package (R306, R374): a message to a host endpoint, the answer to a host's message, the answer to a management command; a packet of a RUD context carries
its entropy value (R305). -/
inductive HostOut where
  | message (vf endpoint : Nat) (msg : Msg)
  | answer (vf endpoint : Nat) (a : Answer)
  | done
  | refusedCommand
  | noActor
  | cable (state : CableState) (words : List Word64)
  | evidence (fields : List (List Byte))
  | counters (words : List Nat)
  | snapshot (words units : List Word64)
  | writeError (vf : Nat) (entropy : BitVec 16)
  | writeRefused (vf : Nat) (entropy : BitVec 16)
  deriving DecidableEq, Repr

/-- What moves next: the model's own, not the spec's (log entry 2). -/
inductive Turn where
  /-- One core cycle of a core, which issues at most one instruction. -/
  | core (at_ : CoreId)
  /-- An event of the table of operations and events. -/
  | event (e : Instr)
  /-- The timebase advances by a number of ticks. -/
  | tick (n : Nat)
  /-- The next fetch of a core misses in its instruction cache (R103). -/
  | icacheMiss (at_ : CoreId)
  /-- A job moves a word of its row or tile, by its place, ahead of others (R246). -/
  | jobWord (cl job word : Nat)
  /-- An outstanding vector load reads an element, by its place among those that it has not read, ahead of others (R217, R247). -/
  | vectorWord (at_ : CoreId) (prod elem : Nat)
  /-- The next interlocked access of a core is performed after its issue (R247). -/
  | lateAccess (at_ : CoreId)
  /-- A die's replica marks the word of an update at the sequencer pending, and acknowledges (R248, step 3). -/
  | replicaAck (update die : Nat)
  /-- An uncorrectable soft error appears in a memory word, by its flat location (R342). -/
  | memoryError (loc : Nat)
  /-- A soft error is corrected in place, and counted (R342). -/
  | correctedError
  /-- An uncorrectable soft error appears in a word of a loaded text: its place in `texts` and the word's number (R342). -/
  | textError (text word : Nat)
  /-- An uncorrectable soft error appears in a register (R342). -/
  | registerError (at_ : CoreId) (r : Reg)
  /-- An uncorrectable soft error appears in state that is fatal to a partition (R338). -/
  | fatalError (part : Nat)
  /-- The image of a switched-out class-B VF can no longer be read (R337). -/
  | imageLost (vf : Nat)
  /-- A host sends a message: its delivery context, its endpoint, the address and the message (R306). -/
  | hostSend (ctx endpoint : Nat) (dest : Word64) (msg : Msg)
  /-- A started step reads an operand word: its cluster, its number, the word's flat location (R233). -/
  | stepRead (cl step loc : Nat)
  /-- The step of the boot that is under way ends (Table 20-4). -/
  | bootStep
  deriving DecidableEq, Repr

/-- The machine. -/
structure State where
  mem : Memory
  /-- TIMEBASE (R320). -/
  now : Word64
  cores : Table Core
  clusters : Table Cluster
  texts : List Text
  tours : Table Tour
  ropes : Table Rope
  cables : Table Cable
  vfs : Table Vf
  parts : Vector Part 16
  /-- Stores and atomics on their way to a home on another die (R244). -/
  flying : List Update
  /-- Stores and atomics to replicated pages, in the sequencer's order (R248). -/
  sequencer : List Update
  /-- Messages on the mesh, and answers on their way back. -/
  flight : List Packet
  answers : List (Packet × Answer)
  notices : List Notice
  heldTraps : List HeldTrap
  sysReqs : List SysReq
  transfers : Table Transfer
  /-- Route banks of each virtual network (0 to 15 the partitions, 16 the system): the active and the standby routes that differ from
  dimension order, and whether a swap waits for the network to drain (R293). -/
  routes : Table (List RouteRow × List RouteRow × Bool)
  power : Power
  boot : Boot
  /-- Ultra Ethernet: packets dropped for each reason, and the delivery contexts that are assigned (R305). -/
  dropped : Vector Nat 2
  contexts : Table DeliveryContext
  /-- Corrected soft errors (R342). -/
  corrected : Nat
  hostOut : List HostOut
  /-- The model's own fields: the number for the next new thing, the counter of the free values, the core whose turn an instruction
  is, and the agenda (log entries 2 and 3). -/
  fresh : Nat
  freeNo : Nat
  cur : CoreId
  agenda : List Turn
  deriving DecidableEq, Repr

/-- The machine right after package reset, before the boot of R375. -/
def State.reset : State where
  mem := ⟨[], [], [], []⟩
  now := 0
  cores := []
  clusters := []
  texts := []
  tours := []
  ropes := []
  cables := []
  vfs := []
  parts := Vector.replicate 16 Part.reset
  flying := []
  sequencer := []
  flight := []
  answers := []
  notices := []
  heldTraps := []
  sysReqs := []
  transfers := []
  routes := []
  power := Power.reset
  boot := ⟨0, false, [], [], 0, 0, 0, 0⟩
  dropped := Vector.replicate 2 0
  contexts := []
  corrected := 0
  hostOut := []
  fresh := 0
  freeNo := 0
  cur := ⟨0, 0⟩
  agenda := []

end Sys2Proof.Machine
end

