-- ==== Sys2Proof/Machine/Mem.lean ====
section
/-! DEFINITION. Memory: flat locations, homes, and the named operations over bytes, full/empty bits, tags and soft errors. -/

namespace Sys2Proof.Machine

/-- A physical device address (R323). -/
def locDram (pa : Nat) : Nat := pa % 2 ^ 39

/-- A byte of the scratchpad of a core of a cluster (R130). -/
def locScratch (cluster core off : Nat) : Nat :=
  2 ^ 39 + cluster * 2 ^ 22 + core * 2 ^ 19 + off % 2 ^ 19

/-- A byte of a tour slot of a cluster (R130). -/
def locTile (cluster slot off : Nat) : Nat :=
  2 ^ 39 + 2 ^ 30 + cluster * 2 ^ 21 + slot * 2 ^ 16 + off % 2 ^ 16

/-- The quadrant die of a cluster, by its Hilbert index: 0 to 63 are Q0, 64 to 127 Q2, 128 to 191 Q3, 192 to 255 Q1 (R85). -/
def dieOf (cluster : Nat) : Nat :=
  match cluster / 64 with
  | 0 => 0
  | 1 => 2
  | 2 => 3
  | _ => 1

/-- The die that is the home of a location (Table 10-1); an ordinary page's home is PA[38:37] (R323). -/
def homeDie (loc : Nat) : Nat :=
  if loc < 2 ^ 39 then loc / 2 ^ 37
  else if loc < 2 ^ 39 + 2 ^ 30 then dieOf ((loc - 2 ^ 39) / 2 ^ 22)
  else dieOf ((loc - 2 ^ 39 - 2 ^ 30) / 2 ^ 21)

/-- The cluster whose scratchpads or tile store hold a location; none for device memory. -/
def clusterOfLoc (loc : Nat) : Option Nat :=
  if loc < 2 ^ 39 then none
  else if loc < 2 ^ 39 + 2 ^ 30 then some ((loc - 2 ^ 39) / 2 ^ 22)
  else some ((loc - 2 ^ 39 - 2 ^ 30) / 2 ^ 21)

/-- The core whose scratchpad holds a location. -/
def coreOfLoc (loc : Nat) : Option CoreId :=
  if 2 ^ 39 ≤ loc ∧ loc < 2 ^ 39 + 2 ^ 30 then
    some ⟨(loc - 2 ^ 39) / 2 ^ 22, (loc - 2 ^ 39) / 2 ^ 19 % 8⟩
  else none

/-- The byte a list of cells holds at an address; an unlisted byte reads zero. -/
def cellAt (a : Nat) : List Host.Cell → Byte
  | [] => 0
  | (b, v) :: r => if a < b then 0 else if a = b then v else cellAt a r

/-- Writes one byte, keeping the cells in order and listing no zero. -/
def setCell (a : Nat) (v : Byte) : List Host.Cell → List Host.Cell
  | [] => if v = 0 then [] else [(a, v)]
  | (b, w) :: r =>
    if a < b then (if v = 0 then (b, w) :: r else (a, v) :: (b, w) :: r)
    else if a = b then (if v = 0 then r else (a, v) :: r)
    else (b, w) :: setCell a v r

/-- Puts a number into a rising list. -/
def insertNat (a : Nat) : List Nat → List Nat
  | [] => [a]
  | b :: r => if a < b then a :: b :: r else if a = b then b :: r else b :: insertNat a r

/-- Takes a number out of a rising list. -/
def eraseNat (a : Nat) : List Nat → List Nat
  | [] => []
  | b :: r => if a < b then b :: r else if a = b then r else b :: eraseNat a r

/-- Cells in the canonical form: addresses rising from the bound, no zero listed. -/
def cellsFrom (lo : Nat) : List Host.Cell → Bool
  | [] => true
  | (a, v) :: r => decide (lo ≤ a) && decide (v ≠ 0) && cellsFrom (a + 1) r

/-- A strictly rising list from the bound. -/
def risingFrom (lo : Nat) : List Nat → Bool
  | [] => true
  | a :: r => decide (lo ≤ a) && risingFrom (a + 1) r

/-- The canonical form of memory: equal memories are equal data. -/
def Memory.wf (m : Memory) : Bool :=
  cellsFrom 0 m.bytes && risingFrom 0 m.empties && risingFrom 0 m.tags && risingFrom 0 m.bad

/-- The byte at a location. -/
def Memory.byte (m : Memory) (loc : Nat) : Byte := cellAt loc m.bytes

/-- Writes the byte at a location, and nothing else. -/
def Memory.setByte (m : Memory) (loc : Nat) (v : Byte) : Memory := { m with bytes := setCell loc v m.bytes }

/-- Writes the bits of a byte that the mask names. -/
def Memory.putByte (m : Memory) (loc : Nat) (v mask : Byte) : Memory :=
  m.setByte loc ((m.byte loc &&& ~~~mask) ||| (v &&& mask))

/-- The bytes from a location on. -/
def Memory.read (m : Memory) (loc n : Nat) : List Byte := (List.range n).map fun i => m.byte (loc + i)

/-- Little-endian: the number that bytes make (R7). -/
def leNat : List Byte → Nat
  | [] => 0
  | b :: r => b.toNat + 256 * leNat r

/-- The bytes of a number, least significant first. -/
def leBytes : Nat → Nat → List Byte
  | 0, _ => []
  | n + 1, v => .ofNat 8 v :: leBytes n (v / 256)

/-- Writes bytes from a location on. -/
def Memory.write (m : Memory) (loc : Nat) : List Byte → Memory
  | [] => m
  | b :: r => (m.setByte loc b).write (loc + 1) r

/-- The full/empty bit of the word at a location (R139); device memory has none, so its words are full. -/
def Memory.full (m : Memory) (loc : Nat) : Bool := !m.empties.contains (loc / 8)

/-- Sets the word at a location full or empty. -/
def Memory.setFull (m : Memory) (loc : Nat) (full : Bool) : Memory :=
  if full then { m with empties := eraseNat (loc / 8) m.empties } else { m with empties := insertNat (loc / 8) m.empties }

/-- The tag of the granule at a location (R137). -/
def Memory.tag (m : Memory) (loc : Nat) : Bool := m.tags.contains (loc / 16)

/-- Sets the tag of the granule at a location. -/
def Memory.setTag (m : Memory) (loc : Nat) (t : Bool) : Memory :=
  if t then { m with tags := insertNat (loc / 16) m.tags } else { m with tags := eraseNat (loc / 16) m.tags }

/-- Whether a word of the range holds an uncorrectable error (R342). -/
def Memory.badIn (m : Memory) (loc n : Nat) : Bool := m.bad.any fun w => decide (loc < w * 8 + 8 ∧ w * 8 < loc + n)

/-- Marks a word as holding an uncorrectable error. -/
def Memory.setBad (m : Memory) (loc : Nat) : Memory := { m with bad := insertNat (loc / 8) m.bad }

/-- A word written whole is sound again. -/
def Memory.clearBad (m : Memory) (loc : Nat) : Memory := { m with bad := eraseNat (loc / 8) m.bad }

/-- Writes one 64-bit word as a copy job, a tour and `mdrain` do: full, and with the granule's tag cleared (R137, R139). -/
def Memory.engineWord (m : Memory) (loc : Nat) (bytes : List Byte) : Memory :=
  let m := (m.write loc bytes).setTag loc false
  if loc < 2 ^ 39 then m.clearBad loc else (m.setFull loc true).clearBad loc

/-- Scrubs a range: zero, full, untagged (R95). -/
def Memory.scrub (m : Memory) (loc n : Nat) : Memory where
  bytes := m.bytes.filter fun c => decide (c.1 < loc ∨ loc + n ≤ c.1)
  empties := m.empties.filter fun w => decide (w * 8 + 8 ≤ loc ∨ loc + n ≤ w * 8)
  tags := m.tags.filter fun g => decide (g * 16 + 16 ≤ loc ∨ loc + n ≤ g * 16)
  bad := m.bad.filter fun w => decide (w * 8 + 8 ≤ loc ∨ loc + n ≤ w * 8)

/-- Keeps what a range holds and nothing else (R336). -/
def Memory.restrict (m : Memory) (loc n : Nat) : Memory where
  bytes := m.bytes.filter fun c => decide (loc ≤ c.1 ∧ c.1 < loc + n)
  empties := m.empties.filter fun w => decide (loc ≤ w * 8 ∧ w * 8 < loc + n)
  tags := m.tags.filter fun g => decide (loc ≤ g * 16 ∧ g * 16 < loc + n)
  bad := m.bad.filter fun w => decide (loc ≤ w * 8 ∧ w * 8 < loc + n)

/-- Writes back what `restrict` kept, over a scrubbed range (R337). -/
def Memory.merge (m k : Memory) : Memory where
  bytes := k.bytes.foldl (fun b c => setCell c.1 c.2 b) m.bytes
  empties := k.empties.foldl (fun l w => insertNat w l) m.empties
  tags := k.tags.foldl (fun l g => insertNat g l) m.tags
  bad := k.bad.foldl (fun l w => insertNat w l) m.bad

/-- Copies the bytes of a range to another place, as engine writes, word by word in rising order. -/
def Memory.copyWords (m : Memory) (src dst : Nat) : Nat → Memory
  | 0 => m
  | n + 1 => (m.engineWord dst (m.read src 8)).copyWords (src + 8) (dst + 8) n

/-- The words that an entry writes whole. -/
def StoreEntry.wholeWords (e : StoreEntry) : List Nat :=
  (e.bytes.map fun b => b.1 / 8).eraseDups.filter fun w => (List.range 8).all fun i =>
    e.bytes.any fun b => b.1 == w * 8 + i && b.2.2 == 0xFF

/-- Applies a store-buffer entry at its home (R136, R137, R139). -/
def Memory.apply (m : Memory) (e : StoreEntry) : Memory :=
  let m := e.bytes.foldl (fun m b => m.putByte b.1 b.2.1 b.2.2) m
  let m := match e.fullBit with
    | some (loc, b) => if loc < 2 ^ 39 then m else m.setFull loc b
    | none => m
  let m := e.tags.foldl (fun m t => m.setTag t.1 t.2) m
  e.wholeWords.foldl (fun m w => m.clearBad (w * 8)) m

end Sys2Proof.Machine
end

