-- ==== Sys2Proof/Machine/Ops.lean ====
section
/-! DEFINITION. The named operations over the state: cores, registers, slots, ports, ropes, messages; taking a trap and returning from one. -/

namespace Sys2Proof.Machine

/-- What a step answers. -/
abbrev Out := Host.Outcome State Fault Refusal

/-- The entry of a key. -/
def Table.get {α : Type} : Table α → Nat → Option α
  | [], _ => none
  | (k, v) :: r, n => if k = n then some v else Table.get r n

/-- Sets the entry of a key. -/
def Table.set {α : Type} : Table α → Nat → α → Table α
  | [], n, v => [(n, v)]
  | (k, w) :: r, n, v => if k = n then (k, v) :: r else (k, w) :: Table.set r n v

/-- Removes the entry of a key. -/
def Table.erase {α : Type} (t : Table α) (n : Nat) : Table α := t.filter fun e => decide (e.1 ≠ n)

/-- The key of a core. -/
def CoreId.key (c : CoreId) : Nat := c.cluster * 16 + c.core

/-- The core of a key. -/
def coreOfKey (k : Nat) : CoreId := ⟨k / 16, k % 16⟩

/-- A core; one that no step touched is as after reset. -/
def State.core (s : State) (c : CoreId) : Core := (s.cores.get (CoreId.key c)).getD Core.reset

/-- Puts a core back. -/
def State.setCore (s : State) (c : CoreId) (k : Core) : State := { s with cores := s.cores.set (CoreId.key c) k }

/-- Changes a core. -/
def State.modCore (s : State) (c : CoreId) (f : Core → Core) : State := s.setCore c (f (s.core c))

/-- Changes the registers of a core. -/
def State.modRegs (s : State) (c : CoreId) (f : Regs → Regs) : State :=
  s.modCore c fun k => { k with regs := f k.regs }

/-- A cluster; one that no step touched is as after reset. -/
def State.cluster (s : State) (cl : Nat) : Cluster := (s.clusters.get cl).getD Cluster.reset

/-- Changes a cluster. -/
def State.modCluster (s : State) (cl : Nat) (f : Cluster → Cluster) : State :=
  { s with clusters := s.clusters.set cl (f (s.cluster cl)) }

/-- Changes a rope, if there is one of the number. -/
def State.modRope (s : State) (r : Nat) (f : Rope → Rope) : State :=
  match s.ropes.get r with
  | some x => { s with ropes := s.ropes.set r (f x) }
  | none => s

/-- Changes a cable, if there is one of the number. -/
def State.modCable (s : State) (n : Nat) (f : Cable → Cable) : State :=
  match s.cables.get n with
  | some x => { s with cables := s.cables.set n (f x) }
  | none => s

/-- Changes a VF, if there is one of the number. -/
def State.modVf (s : State) (n : Nat) (f : Vf → Vf) : State :=
  match s.vfs.get n with
  | some x => { s with vfs := s.vfs.set n (f x) }
  | none => s

/-- Changes a tour, if there is one of the number. -/
def State.modTour (s : State) (n : Nat) (f : Tour → Tour) : State :=
  match s.tours.get n with
  | some x => { s with tours := s.tours.set n (f x) }
  | none => s

/-- The partition of the number; a number above 15 names none, and stands for a disabled one. -/
def State.part (s : State) (p : Nat) : Part := (s.parts.toList)[p]?.getD Part.reset

/-- Changes a partition. -/
def State.modPart (s : State) (p : Nat) (f : Part → Part) : State :=
  if h : p < 16 then { s with parts := s.parts.set p (f s.parts[p]) } else s

/-- The slot of a core. -/
def Core.slot (k : Core) (i : Nat) : Slot := (k.slots.toList)[i]?.getD Slot.vacant

/-- Changes a slot of a core. -/
def Core.modSlot (k : Core) (i : Nat) (f : Slot → Slot) : Core :=
  if h : i < 16 then { k with slots := k.slots.set i (f k.slots[i]) } else k

/-- Changes a slot. -/
def State.modSlot (s : State) (c : CoreId) (i : Nat) (f : Slot → Slot) : State := s.modCore c fun k => k.modSlot i f

/-- The slot of the running firing; a core without one has a vacant slot here. -/
def Core.curSlot (k : Core) : Slot :=
  match k.running with
  | some i => k.slots[i]
  | none => Slot.vacant

/-- The number of the slot of the running firing. -/
def Core.curIndex (k : Core) : Nat :=
  match k.running with
  | some i => i.val
  | none => 0

/-- Changes the slot of the running firing. -/
def Core.modCur (k : Core) (f : Slot → Slot) : Core :=
  match k.running with
  | some i => { k with slots := k.slots.set i (f k.slots[i]) }
  | none => k

/-- The rope of a core's running firing. -/
def State.ropeAt (s : State) (c : CoreId) : Option Rope := s.ropes.get (s.core c).curSlot.rope

/-- The VF of a core's running firing. -/
def State.vfAt (s : State) (c : CoreId) : Nat :=
  match s.ropeAt c with
  | some r => r.vf
  | none => 0

/-- The partition of a VF. -/
def State.partOfVf (s : State) (vf : Nat) : Nat :=
  match s.vfs.get vf with
  | some v => v.part
  | none => 0

/-- A list with one entry changed. -/
def modAt {α : Type} (l : List α) (i : Nat) (f : α → α) : List α :=
  match l, i with
  | [], _ => []
  | x :: r, 0 => f x :: r
  | x :: r, n + 1 => x :: modAt r n f

/-- The bits of a number from a place on, as many as given. -/
def bitsOf (w lo n : Nat) : Nat := w / 2 ^ lo % 2 ^ n

/-- A natural number, saturated. -/
def satNat (n max : Nat) : Nat := if n ≤ max then n else max

/-- Sign-extends an n-bit pattern to 64 bits. -/
def sext64 (n : Nat) (v : Nat) : Word64 := BitVec.signExtend 64 (BitVec.ofNat n v)

/-- 1 for true. -/
def b2n (b : Bool) : Nat := if b then 1 else 0

/-! ## Time and the program counter -/

/-- The core cycle that a turn of a core is: CYCLES rises, and the budget falls while a firing runs (R105, R320). -/
def Core.tick (k : Core) : Core :=
  { k with cycles := k.cycles + 1, left := if k.running.isSome && k.left != 0 then k.left - 1 else k.left }

/-- The instruction completes: the program counter goes to a new place in one core cycle. -/
def State.jump (s : State) (c : CoreId) (pc : Word64) : State :=
  s.modCore c fun k => { k.tick with emul := [], regs := { k.regs with pc := pc } }

/-- The instruction completes: the program counter moves to the next word in one core cycle. -/
def State.advance (s : State) (c : CoreId) : State :=
  s.jump c ((s.core c).regs.pc + 4)

/-- The instruction does not issue in this core cycle. -/
def State.stall (s : State) (c : CoreId) : State := s.modCore c Core.tick

/-- Stops issue after the instruction at the program counter has taken its first core cycle. -/
def State.waitFor (s : State) (c : CoreId) (w : Wait) : State :=
  s.modCore c fun k => { k.tick with wait := w }

/-- The program counter past the instruction of a wait, and what is still to be taken up after it: an instruction that a RETRY issued again goes on where execution stood (R311, R315). -/
def Core.pastWait (k : Core) : Core :=
  match k.after with
  | a :: rest => { k with after := rest, regs := { k.regs with pc := a } }
  | [] => { k with regs := { k.regs with pc := k.regs.pc + 4 } }

/-- Ends a wait: the program counter moves on; the cycles were counted while it lasted. -/
def State.endWait (s : State) (c : CoreId) : State := s.modCore c fun k => { k.pastWait with wait := .none, emul := [] }

/-- A `delay` whose count has passed is over at the next boundary of a core cycle, whatever the agenda names (R128). -/
def State.wakeDelay (s : State) (c : CoreId) : State :=
  match (s.core c).wait with
  | .delay till => if till ≤ s.now.toNat then s.endWait c else s
  | _ => s

/-! ## Actors, ropes and slots -/

/-- The logical actor number of a slot (R19). -/
def Slot.logical (t : Slot) : Nat := 128 * t.strand + t.actor

/-- Where a logical actor is placed: its core and slot, by the placement table (R94). -/
def Rope.place (r : Rope) (logical : Nat) : Option (CoreId × Nat) :=
  match r.placement[logical]? with
  | some e =>
    if e.getLsbD 15 then some (⟨bitsOf e.toNat 0 8, bitsOf e.toNat 8 3⟩, bitsOf e.toNat 11 4) else none
  | none => none

/-- The declaration of a strand. -/
def Rope.strandDecl (r : Rope) (i : Nat) : Option StrandDecl := r.decl.strands[i]?

/-- The gang of a strand: the cores that hold at least one of its actors (R222). -/
def Rope.gang (r : Rope) (strand : Nat) : List Nat :=
  match r.decl.strands[strand]? with
  | some d => (List.range 8).filter fun k => d.actors.any fun a => a.core == k
  | none => []

/-- When a slice that began at a time ends by its ticks: a SLICE of 0 has no limit (R333, Table 16-12). -/
def Vf.sliceEnd (v : Vf) (since : Nat) : Option Nat := if v.slice = 0 then none else some (since + max 1000 v.slice.toNat)

/-- Whether a VF holds its partition's time slice: its ticks have not passed (R98, R333). -/
def State.holdsSlice (s : State) (vf : Nat) : Bool :=
  match (s.part (s.partOfVf vf)).slicePhase with
  | .running v since _ => v == vf && (match (s.vfs.get vf).bind fun v => v.sliceEnd since with | some t => decide (s.now.toNat < t) | none => true)
  | _ => false

/-- Whether a shed has stopped a rope at a time: at its shed point, or at its deadline (R352, R353, R354). -/
def Rope.stopped (r : Rope) (now : Nat) : Bool :=
  match r.shed with
  | .none => false
  | .asked t => decide (t ≤ now)
  | .stopped => true

/-- Whether a rope can fire (R98): its start messages are accepted, it is not shed, its VF holds the slice, nothing ends it. -/
def State.canFire (s : State) (r : Rope) : Bool :=
  r.fireable && !r.stopped s.now.toNat && s.holdsSlice r.vf && r.ending.isNone && !(s.part (s.partOfVf r.vf)).halted

/-- The messages at a port that no firing claimed. -/
def InPort.unclaimed (p : InPort) : Nat := p.msgs.length - p.claimed

/-- Whether a handler is enabled: every port of its list holds its rate of unclaimed messages (R23). -/
def Slot.enabled (t : Slot) (h : Handler) : Bool :=
  h.on && h.mask != 0 && (List.range 8).all fun k =>
    !h.mask.getLsbD k || (match t.ins[k]? with | some p => decide (p.rate ≤ p.unclaimed) && decide (0 < p.rate) | none => false)

/-- The enabled handler of the lowest index (R24). -/
def Slot.chosen (t : Slot) : Option Nat := t.handlers.findIdx? t.enabled

/-- The states of Table 04-1. -/
inductive SlotStatus where
  | vacant | held | idle | ready | firing | parked | retired
  deriving DecidableEq, Repr

/-- The state of an actor slot (R98). -/
def State.slotStatus (s : State) (c : CoreId) (i : Nat) : SlotStatus :=
  let t := (s.core c).slot i
  match t.phase with
  | .vacant => .vacant
  | .firing => .firing
  | .parked => .parked
  | .retired => .retired
  | .waiting =>
    match s.ropes.get t.rope with
    | some r => if s.canFire r then (if t.chosen.isSome then .ready else .idle) else .held
    | none => .held

/-- FIRINGID of the running firing (Table 04-3). -/
def State.firingId (s : State) (c : CoreId) : Word64 :=
  let k := s.core c
  let t := k.curSlot
  let (cls, pos) := match s.ropes.get t.rope with
    | some r => (r.decl.cls.toNat, r.pos)
    | none => (0, 0)
  .ofNat 64 (k.curIndex + 2 ^ 4 * k.handler.toNat + 2 ^ 8 * cls + 2 ^ 16 * t.logical + 2 ^ 32 * pos)

/-- The mailbox address of a port of an actor (Table 11-1). -/
def mailboxAddress (vf context logical port : Nat) : Word64 :=
  .ofNat 64 (logical + 2 ^ 15 * port + 2 ^ 18 * context + 2 ^ 24 * vf)

/-- The lowest-indexed port of a kind (R41, R314): 1 tile, 3 sys. -/
def firstPortOfKind (ins : List PortDecl) (kind : Nat) : Option Nat :=
  ins.findIdx? fun p => bitsOf p.typ.toNat 3 2 == kind

/-- The declaration of a logical actor. -/
def RopeDecl.actor (d : RopeDecl) (logical : Nat) : Option ActorDecl :=
  match d.strands[logical / 128]? with
  | some sd => sd.actors[logical % 128]?
  | none => none

/-- The home cluster of a VF: that at position 0 of its partition (R75). -/
def State.homeOf (s : State) (vf : Nat) : Nat := (s.part (s.partOfVf vf)).base

/-! ## Messages -/

/-- Puts a message on the mesh (R260, R263). -/
def State.inject (s : State) (sender : Sender) (vf cluster : Nat) (dest : Word64) (msg : Msg) (seq : BitVec 16)
    (startOf : Option (Nat × Nat)) : State :=
  { s with flight := s.flight ++ [⟨s.fresh, sender, vf, cluster, dest, msg, seq, startOf⟩], fresh := s.fresh + 1 }

/-- A message of plain words of a type code. -/
def plainMsg (typ : BitVec 8) (words : List Word64) : Msg := ⟨typ, words, false⟩

/-! ## Tours: who holds a slot -/

/-- The tile in a tour slot. -/
def State.tileIn (s : State) (cl slot : Nat) : Option (Nat × Tour) :=
  match ((s.cluster cl).slots.toList)[slot]? with
  | some t =>
    match t.use with
    | .tile n => (s.tours.get n).map fun x => (n, x)
    | _ => none
  | none => none

/-- The itinerary of a tour. -/
def State.itinerary (s : State) (t : Tour) : Option ItinDecl := (s.ropes.get t.rope).bind fun r => r.decl.itins[t.itinerary]?

/-- The core and slot of the actor of a tour's stop. -/
def State.placeOfStop (s : State) (t : Tour) (stop : Nat) : Option (CoreId × Nat) :=
  (s.ropes.get t.rope).bind fun r => ((r.decl.itins[t.itinerary]?).bind fun d => d.stops[stop]?).bind r.place

/-- The core and slot of the actor of the stop where a tile is. -/
def State.stopActor (s : State) (t : Tour) : Option (CoreId × Nat) := s.placeOfStop t t.stop

/-- Whether a tile's hold count has passed its limit, so that it expired before the cycle that its stop's core is in (R159). -/
def State.tileOverdue (s : State) (t : Tour) : Bool :=
  match s.stopActor t, s.itinerary t, t.holdFrom with
  | some (c, _), some d, some h => decide (h + d.hold < (s.core c).cycles.toNat)
  | _, _, _ => false

/-- Whether the actor of a core's running firing holds a tour slot of its cluster: from the hitch until the slot is revoked (R134, R158). -/
def State.holdsTile (s : State) (c : CoreId) (slot : Nat) : Bool :=
  match s.tileIn c.cluster slot with
  | some (_, t) =>
    match t.phase with
    | .visited k i n => t.at_ == some (c.cluster, slot) && k == c.core && i == (s.core c).curIndex && n == (s.core c).firingNo
        && (s.core c).running.isSome
    | .held | .arrived => !s.tileOverdue t && t.at_ == some (c.cluster, slot) && (s.core c).running.isSome && s.stopActor t == some (c, (s.core c).curIndex)
    | _ => false
  | none => false

/-- The handle of a tile at its stop (Table 06-5, word 0). -/
def State.tileHandle (s : State) (t : Tour) : Nat :=
  match t.at_ with
  | some (cl, slot) =>
    let gen := match ((s.cluster cl).slots.toList)[slot]? with | some x => x.gen.toNat | none => 0
    slot + 2 ^ 8 * t.job + 2 ^ 16 * gen + 2 ^ 32 * t.stop + 2 ^ 38 * b2n t.lap
  | none => 0

/-- The tour whose tile a handle names, if the running firing's actor holds it: SLOT and GEN match the hitch (R158). -/
def State.heldTour (s : State) (c : CoreId) (handle : Word64) : Option (Nat × Tour) :=
  let slot := bitsOf handle.toNat 0 5
  match s.tileIn c.cluster slot with
  | some (n, t) =>
    if s.holdsTile c slot && bitsOf (s.tileHandle t) 16 16 == bitsOf handle.toNat 16 16 then some (n, t) else none
  | none => none

/-- Casts a tile off (R162): revoked for its holder; the Halyard sends it onward. Where the stop's actor casts a tile whose arrival message no firing has claimed,
the message stays in its port, and the stop counts as visited: the model's choice, since the spec is silent (log entry 75). -/
def State.castTour (s : State) (n : Nat) : State := s.modTour n fun t => { t with phase := .leaving, holdFrom := none }

/-- Whether the running firing of a core holds this tile. -/
def State.holder (s : State) (c : CoreId) (t : Tour) : Bool :=
  match t.phase, t.at_ with
  | .visited k i n, some (cl, _) =>
    cl == c.cluster && k == c.core && i == (s.core c).curIndex && n == (s.core c).firingNo
  | _, _ => false

/-- Changes every tile that the running firing of a core holds. -/
def State.modHeld (s : State) (c : CoreId) (f : Tour → Tour) : State :=
  { s with tours := s.tours.map fun e => if s.holder c e.2 then (e.1, f e.2) else e }

/-- What becomes of a held tile when the park of its firing is over: one whose hold count passed its limit in the park expired there, which counts in
EXPIRIES and sets no bit (R162); another goes on as given. -/
def State.afterPark (s : State) (t : Tour) (keep : Tour) : Tour :=
  if s.tileOverdue t then { t with phase := .leaving, holdFrom := none, expiries := t.expiries + 1 } else keep

/-- Casts every tile that a firing of a core still holds (R162). -/
def State.castAll (s : State) (c : CoreId) : State :=
  s.modHeld c fun t => s.afterPark t { t with phase := .leaving, holdFrom := none }

/-! ## Jobs of the copy unit -/

/-- A job of a cluster's copy unit. -/
def Cluster.job (k : Cluster) (id : Nat) : Job := (k.jobs.toList)[id]?.getD Job.free

/-- Changes a job. -/
def Cluster.modJob (k : Cluster) (id : Nat) (f : Job → Job) : Cluster :=
  if h : id < 64 then { k with jobs := k.jobs.set id (f k.jobs[id]) } else k

/-- Changes a job of a cluster. -/
def State.modJob (s : State) (cl id : Nat) (f : Job → Job) : State := s.modCluster cl fun k => k.modJob id f

/-- Takes a waiter out of the misses and the walks of a cluster. -/
def Cluster.dropWaiter (k : Cluster) (w : Waiter) : Cluster :=
  let drop (l : List Walk) : List Walk :=
    (l.map fun x => { x with waiters := x.waiters.filter (· != w) }).filter fun x => !x.waiters.isEmpty || x.asked.isSome
  { k with misses := drop k.misses, walks := drop k.walks }

/-- Ends a job in FAULT with a cause; it leaves the queue, and its identifier is free unless it is a tour's; it waits for no translation
any more (R148, R154). -/
def Cluster.faultJob (k : Cluster) (id : Nat) (cause : Nat) : Cluster :=
  let k := k.modJob id fun j =>
    { j with state := .fault, cause := .ofNat 8 cause, taken := (match j.work with | .tour .. => true | _ => false) }
  { k.dropWaiter (.job id) with queue := k.queue.filter (· != id) }

/-- Cancels the stream jobs of a core's firing, with CAUSE EMPTY (R154, R156): all that are not done; their words are discarded. -/
def Cluster.cancelStreams (k : Cluster) (core firing : Nat) : Cluster :=
  (List.range 64).foldl (fun k id =>
    let j := k.job id
    match j.work with
    | .stream _ =>
      if j.core = core ∧ j.firing = firing then
        (if j.state = .queued ∨ j.state = .running then k.faultJob id 2 else k).modJob id
          fun j => { j with buf := [], bound := false }
      else k
    | _ => k) k

/-- The jobs that the unit carries (R151, R165). -/
def Cluster.carried (k : Cluster) : Nat := (k.queue.filter fun id => (k.job id).state == .running && !(k.job id).aside).length

/-- Whether a tour was granted its slot. -/
def State.granted (s : State) (cl id : Nat) : Bool := s.tours.any fun e => e.2.origin == cl && e.2.job == id && e.2.grant.isSome


/-- A free place among the four jobs that a unit carries is given to the first tour of its queue that waited aside and has its slot (R165). -/
def Cluster.seat (k : Cluster) (granted : Nat → Bool) : Cluster :=
  if k.carried < 4 then
    match k.queue.find? fun id => (k.job id).aside && granted id with
    | some id => k.modJob id fun j => { j with aside := false }
    | none => k
  else k

/-- The free places of a unit are given to the tours that waited aside and have their slots. -/
def State.seatTours (s : State) (cl : Nat) : State := s.modCluster cl fun k => (List.range 4).foldl (fun k _ => k.seat (s.granted cl)) k

/-! ## Order of a core's accesses -/

/-- An access of a core, as R244 sees it. -/
structure MemOp where
  no : Nat
  loc : Nat
  bytes : Nat
  load : Bool
  store : Bool
  atomic : Bool
  acq : Bool
  rel : Bool
  scope : BitVec 3
  replicated : Bool
  deriving DecidableEq, Repr

/-- Whether an access is die-local (R241). -/
def MemOp.dieLocal (a : MemOp) (c : CoreId) : Bool := a.replicated || homeDie a.loc == dieOf c.cluster

/-- The locations that a scope covers, for an issuing core (Table 10-2). -/
def covers (scope : BitVec 3) (c : CoreId) (a : MemOp) : Bool :=
  match scope.toNat with
  | 0 => coreOfLoc a.loc == some c
  | 1 => clusterOfLoc a.loc == some c.cluster
  | 2 => a.dieLocal c
  | _ => true

/-- Whether two accesses share a byte. -/
def MemOp.overlaps (a b : MemOp) : Bool := decide (a.loc < b.loc + b.bytes ∧ b.loc < a.loc + a.bytes)

/-- Whether two accesses share a 64-bit word. -/
def MemOp.sharesWord (a b : MemOp) : Bool := decide (a.loc / 8 ≤ (b.loc + b.bytes - 1) / 8 ∧ b.loc / 8 ≤ (a.loc + a.bytes - 1) / 8)

/-- Preserved program order between two accesses of one core, the first earlier than the second (R244, cases 1 and 3 to 7; a dependence
waits for its value anyway). A release fence between them orders the first before a second that stores. -/
def ppo (c : CoreId) (fences : List (Nat × BitVec 3)) (a b : MemOp) : Bool :=
  let pureStoreLoad := a.store && !a.load && b.load && !b.store
  (a.overlaps b && !pureStoreLoad)
    || (a.dieLocal c && b.dieLocal c && !pureStoreLoad)
    || (a.atomic && b.dieLocal c) || (b.atomic && a.dieLocal c)
    || (a.atomic && a.acq && covers a.scope c b)
    || (b.atomic && b.rel && covers b.scope c a)
    || (b.store && fences.any fun f => decide (a.no < f.1 ∧ f.1 ≤ b.no) && covers f.2 c a && covers f.2 c b)

/-- A load of some bytes. -/
def loadOp (no loc bytes : Nat) (repl : Bool) : MemOp := ⟨no, loc, bytes, true, false, false, false, false, 0, repl⟩

/-- The accesses of a producer that are not performed yet. -/
def Producer.ops (p : Producer) : List MemOp :=
  match p.pending with
  | .load loc n repl _ => [loadOp p.no loc n repl]
  | .loadFull loc _ _ => [loadOp p.no (loc / 8 * 8) 8 false]
  | .arm _ loc repl => [loadOp p.no loc 8 repl]
  | .armed loc repl _ _ => [loadOp p.no loc 8 repl]
  | .vload es _ _ => es.map fun e => loadOp p.no e.loc e.bytes e.replicated
  | .atomic loc bytes _ _ order scope _ _ repl _ => [⟨p.no, loc, bytes, true, true, true, order.getLsbD 0, order.getLsbD 1, scope, repl⟩]
  | _ => []

/-- The access that a store-buffer entry is: from its lowest byte to its highest. -/
def StoreEntry.op (e : StoreEntry) : MemOp :=
  let (lo, hi) := match e.bytes, e.fullBit with
    | (a, _, _) :: r, _ => (r.foldl (fun n b => min n b.1) a, r.foldl (fun n b => max n b.1) a)
    | [], some (a, _) => (a, a + 7)
    | [], none => (0, 0)
  ⟨e.no, lo, hi - lo + 1, false, true, false, false, false, 0, e.replicated⟩

/-- The stores of a core on their way to a home on another die. -/
def State.flyingOf (s : State) (c : CoreId) : List MemOp :=
  s.flying.filterMap fun u =>
    if u.at_ = c then (match u.work with | .inl e => some e.op | .inr _ => none) else none

/-- Every access of a core that is not performed yet: outstanding loads and atomics, buffered stores, stores in flight. -/
def State.unperformed (s : State) (c : CoreId) : List MemOp :=
  let k := s.core c
  (k.prods.map Producer.ops).flatten ++ k.stores.map StoreEntry.op ++ s.flyingOf c

/-- Whether the stack of a die takes no access: in self-refresh after a thermal trip, or at step 3 still, whose activation cap is 0% (R361, Table 18-4;
log entry 56). -/
def State.stackAsleep (s : State) (die : Nat) : Bool :=
  (s.power.selfRefresh.toList[die]?).getD false || s.power.thermal.toList[die]? == some 3

/-- Whether a location lies in a stack of device memory that takes no access. -/
def State.asleep (s : State) (loc : Nat) : Bool := decide (loc < 2 ^ 39) && s.stackAsleep (homeDie loc)

/-- Whether the copy of a location that a core of a cluster reads takes no access: of a replicated page, that of its own die (Table 10-1). -/
def State.copyAsleep (s : State) (cl loc : Nat) (replicated : Bool) : Bool := if replicated then s.stackAsleep (dieOf cl) else s.asleep loc

/-- Whether a write to a location has to wait: one to a replicated page reaches all four dies. -/
def State.writeAsleep (s : State) (loc : Nat) (replicated : Bool) : Bool := if replicated then (List.range 4).any s.stackAsleep else s.asleep loc

/-! ## Networks -/

/-- Whether a virtual network drains for a route swap, so that nothing is injected into it (R293). -/
def State.draining (s : State) (net : Nat) : Bool :=
  match s.routes.get net with
  | some (_, _, d) => d
  | none => false

/-- The virtual network of the system (R291). -/
def systemNet : Nat := 16

/-- The capacity of a partition's bucket, in thousandths of a byte (R294). -/
def Part.capacity (p : Part) : Int := p.burst.toNat * 1024 * 1000

/-- The level of a cluster's bucket at a time: RATE bytes for each 1,000 ticks since it was settled, up to the capacity; one that was never charged is full (R294). -/
def Part.level (p : Part) (cl now : Nat) : Int :=
  match p.buckets.get cl with
  | some (level, at_) => min p.capacity (level + p.rate.toNat * (now - at_))
  | none => p.capacity

/-- Settles the level of a cluster's bucket at a time, less what a charge takes. -/
def Part.settleBucket (p : Part) (cl now : Nat) (bytes : Int) : Part :=
  { p with buckets := p.buckets.set cl (p.level cl now - bytes * 1000, now) }

/-- Whether a packet of a partition may be injected in a cluster: RATE 0 means no limit; an empty bucket makes it wait (R294). A packet larger than what is left in a
bucket that is not empty goes, and drives it below zero: the model's choice (log entry 7). -/
def State.limiterOpen (s : State) (part cl : Nat) : Bool :=
  (s.part part).rate == 0 || decide (0 < (s.part part).level cl s.now.toNat)

/-- Charges the bytes of a packet to a partition's bucket in a cluster; a reply may drive it below zero (R294). -/
def State.charge (s : State) (part cl payload : Nat) : State :=
  if (s.part part).rate = 0 then s else s.modPart part fun p => p.settleBucket cl s.now.toNat (Config.packetBytes payload)

/-- The partition of a cluster. -/
def State.partOfCluster (s : State) (cl : Nat) : Option Nat :=
  (List.range 16).find? fun p => (s.part p).len != 0 && decide ((s.part p).base ≤ cl ∧ cl < (s.part p).base + (s.part p).len)

/-- Whether a cluster may send an access to a location: one to device memory waits while its partition's bucket is empty (R294). -/
def State.netOpen (s : State) (cl loc : Nat) : Bool :=
  decide (2 ^ 39 ≤ loc) || match s.partOfCluster cl with | some p => s.limiterOpen p cl | none => true

/-- Whether a cluster's virtual network drains, so that no access to a location of device memory leaves it (R293). -/
def State.netDrains (s : State) (cl loc : Nat) : Bool :=
  decide (loc < 2 ^ 39) && match s.partOfCluster cl with | some p => s.draining p | none => false

/-- Whether a load or an atomic of a core, by its number, may go on its way to a location: it was on the mesh when the swap of its network's routes began,
or the network does not drain and its limiter is not empty (R293, R294). -/
def State.mayCross (s : State) (c : CoreId) (no loc : Nat) : Bool :=
  (match s.partOfCluster c.cluster with | some p => (s.part p).crossing.contains (CoreId.key c, no) | none => false)
    || (!s.netDrains c.cluster loc && s.netOpen c.cluster loc)

/-- Charges an access of a cluster to a location of device memory: its request, and its reply, each by its payload (R294). -/
def State.chargeAccess (s : State) (cl loc request reply : Nat) : State :=
  if loc < 2 ^ 39 then (match s.partOfCluster cl with | some p => (s.charge p cl request).charge p cl reply | none => s) else s

/-! ## When an access is performed -/

/-- Whether an access may be performed now: no earlier access of the core that R244 puts before it is outstanding, and
a load comes after its core's earlier stores to the same bytes that are on their way (R247). -/
def State.mayPerform (s : State) (c : CoreId) (b : MemOp) : Bool :=
  !s.copyAsleep c.cluster b.loc b.replicated && (s.unperformed c).all fun a => !(decide (a.no < b.no) && ppo c (s.core c).fences a b)

/-- Whether every access of the core below a number is performed (R245, R246). -/
def State.allPerformed (s : State) (c : CoreId) (no : Nat) : Bool :=
  (s.unperformed c).all fun a => decide (no ≤ a.no)

/-- Whether every store of the core below a number has been applied at its home (R277). -/
def State.storesApplied (s : State) (c : CoreId) : Bool :=
  (s.core c).stores.isEmpty && (s.flyingOf c).isEmpty

/-- Whether a producer is an atomic that is not performed yet. -/
def Producer.isAtomic (p : Producer) : Bool :=
  match p.pending with
  | .atomic .. => true
  | _ => false

/-- Whether every store and every atomic of a core has been applied at its home. -/
def State.writesApplied (s : State) (c : CoreId) : Bool := s.storesApplied c && !(s.core c).prods.any Producer.isAtomic

/-- The full/empty bit of a word as a core sees it: from its youngest `stf` or `clrf`, else from memory (R136). -/
def Core.fullAt (k : Core) (mem : Memory) (loc : Nat) : Bool :=
  k.stores.foldl (fun b e => match e.fullBit with
    | some (a, f) => if a / 8 = loc / 8 then f else b
    | none => b) (mem.full loc)

/-- A core with only the stores and the producers older than an access: what that access may take its value from. -/
def Core.older (k : Core) (no : Nat) : Core :=
  { k with stores := k.stores.filter fun e => decide (e.no < no), prods := k.prods.filter fun q => decide (q.no < no) }

/-- Whether a producer is a `waita` that has not read its word for the last time (R278). -/
def Producer.waiting (p : Producer) : Bool :=
  match p.pending with
  | .monitor | .arm .. | .armed .. => true
  | _ => false

/-- The monitor of a core's `waita` is given up, and its register stays as it was (R278). -/
def State.dropMonitor (s : State) (c : CoreId) : State := s.modCore c fun k => { k with prods := k.prods.filter fun p => !p.waiting }

/-! ## Rails -/

/-- Whether a cluster is idle: no core holds a FIRING or PARKED slot, and no engine has work (R359). -/
def State.clusterIdle (s : State) (cl : Nat) : Bool :=
  let k := s.cluster cl
  (List.range 8).all (fun c => (s.core ⟨cl, c⟩).running.isNone) && k.queue.isEmpty && k.steps.isEmpty
    && k.jobs.toList.all fun j => j.state != .running && j.state != .queued

/-- The throttle step of a cluster (R358). -/
def State.throttleOf (s : State) (cl : Nat) : Nat :=
  match s.partOfCluster cl with
  | some p => (s.part p).throttle.toNat
  | none => 0

/-- Whether a cluster has been idle for 10 µs, so that it is on the low rail (R359). -/
def State.idleLong (s : State) (cl : Nat) : Bool := s.clusterIdle cl && decide ((s.cluster cl).busyAt + 10000 ≤ s.now.toNat)

/-- Puts a cluster on the rail it belongs on: the high one, unless it is throttled or has been idle for 10 µs (R358, R359). -/
def State.settleRail (s : State) (cl : Nat) : State :=
  let high := s.throttleOf cl == 0 && !s.idleLong cl
  s.modCluster cl fun k => { k with high := high }

/-- A firing starts in a cluster: it is idle no more, and back on the high rail unless it is throttled (R359). -/
def State.wakeCluster (s : State) (cl : Nat) : State :=
  (s.modCluster cl fun k => { k with busyAt := s.now.toNat }).settleRail cl

/-- Notes of every cluster that has a firing or work that it had some until now (R359). -/
def State.noteBusy (s : State) : State :=
  { s with clusters := s.clusters.map fun e => if s.clusterIdle e.1 then e else (e.1, { e.2 with busyAt := s.now.toNat }) }

/-! ## Boundaries of a firing -/


/-- Discards a firing's claims at a port: every claimed message that is not wholly read, and the rest of a partly read message (R25, R26). -/
def InPort.discard (p : InPort) : InPort :=
  if p.rate = 0 then
    if p.readWords = 0 then p else { p with msgs := p.msgs.drop 1, readWords := 0 }
  else { p with msgs := p.msgs.drop p.claimed, claimed := 0, readWords := 0 }

/-- Applies a write to HBIND at the boundary (R270). -/
def applyHbind (hs : List Handler) (w : Word64) : List Handler :=
  modAt hs (bitsOf w.toNat 0 3) fun _ => ⟨.ofNat 8 (bitsOf w.toNat 8 8), bitsOf w.toNat 32 22, w.getLsbD 16⟩

/-- The cluster's shared lanes that firings hold: what each grant has beyond its 16 reserved lanes (R192). -/
def State.lanesTaken (s : State) (cl : Nat) : Nat :=
  ((List.range 8).map fun k => (s.core ⟨cl, k⟩).regs.lanes - 16).sum

/-- The shared lanes of a firing that is over are returned, and are free from a core cycle on (R195); what every core of the cluster has free by now is kept no more. -/
def State.returnLanes (s : State) (c : CoreId) (from_ : Nat) : State :=
  s.modCluster c.cluster fun k => { k with lanesOwed :=
    (k.lanesOwed.filter fun e => (List.range 8).any fun n => decide ((s.core ⟨c.cluster, n⟩).cycles.toNat < e.1)) ++ [(from_, (s.core c).regs.lanes - 16)] }

/-- Notes the time of a firing's boundary while the slice of its VF ends, or after its ticks have passed (R335). -/
def State.noteBoundary (s : State) (c : CoreId) : State :=
  s.modPart (s.partOfVf (s.vfAt c)) fun p =>
    match p.slicePhase with
    | .ending vf since _ => { p with slicePhase := .ending vf since s.now.toNat }
    | .running .. => { p with lapsed := p.lapsed.map fun e => (e.1, e.2.1, s.now.toNat) }
    | _ => p

/-- What `end`, `retire` and abort do to a firing before the slot's state is set (R111, R317): claims, bindings, lanes, streams, tiles, HBIND;
and the cable's count of the cycles of its firings (Table 20-2). -/
def State.endEffects (s : State) (c : CoreId) : State :=
  let k := s.core c
  let s := (s.modCluster c.cluster fun cl => cl.cancelStreams c.core k.firingNo).seatTours c.cluster
  let s := (s.castAll c).noteBoundary c
  let s := match s.ropes.get k.curSlot.rope with
    | some r => s.modCable r.cable fun x =>
        { x with cycles := satNat (x.cycles + (k.budget.toNat - k.left.toNat)) (2 ^ 64 - 1) }
    | none => s
  s.modCore c fun k =>
    let k := k.modCur fun t => { t with ins := t.ins.map InPort.discard, handlers := k.hbind.foldl applyHbind t.handlers }
    { k with
      regs := { k.regs with bind := Vector.replicate 4 .unbound, lanes := 0, vl := 0 }
      hbind := []
      wait := .none
      park := none
      fpDefault := .none
      emul := []
      after := []
      -- what the firing still waits for is dropped; an atomic that was issued is still performed, and its value discarded (R141, R317)
      prods := k.prods.filter fun p => p.isAtomic || decide (p.firing ≠ k.firingNo) }

/-- The slot of the ended firing is free to fire again: HELD, IDLE or READY as `slotStatus` says (R98). -/
def State.release (s : State) (c : CoreId) : State :=
  s.modCore c fun k => { k.modCur fun t => { t with phase := .waiting } with running := none }

/-- Withdraws the arrival of a core's firing from its barriers (R283). -/
def State.withdraw (s : State) (c : CoreId) : State :=
  let t := (s.core c).curSlot
  match (s.core c).wait with
  | .cbar => s.modRope t.rope fun r =>
      { r with strands := modAt r.strands t.strand fun st => { st with arrived := st.arrived.filter (· != c.core) } }
  | .tree _ => s.modRope t.rope fun r =>
      { r with tree := r.tree.filter fun a => decide ((a.1, a.2.1) ≠ (c.cluster, c.core)) }
  | _ => s

/-- The requests of a core's `redget`s are abandoned (R303). -/
def State.dropRedgets (s : State) (c : CoreId) : State :=
  { s with clusters := s.clusters.map fun e =>
      (e.1, { e.2 with redGets := e.2.redGets.filter fun q => decide ((q.cluster, q.core) ≠ (c.cluster, c.core)) }) }

/-- Aborts the firing of a core (R317). Its lanes come back before the takes of a core cycle: they are free in the first one in which no take has come yet (R195; log
entry 16). -/
def State.abort (s : State) (c : CoreId) : State :=
  ((((s.withdraw c).dropRedgets c).returnLanes c (s.cluster c.cluster).lanesNext).endEffects c).release c

/-! ## Taking a trap -/

/-- The number of a trap code (Table 16-1). -/
def TrapCode.num : TrapCode → Nat
  | .illegal => 1 | .empty => 2 | .rate => 3 | .budget => 4 | .align => 5 | .captag => 6 | .capspace => 7 | .capperm => 8
  | .capbounds => 9 | .tourRevoked => 10 | .xlate => 11 | .pagefault => 12 | .ecc => 13 | .fpx => 14 | .engine => 15
  | .port => 16 | .retire => 17 | .soft => 18

/-- The trap message (Table 16-2). -/
def State.trapMsg (s : State) (c : CoreId) (code : TrapCode) (detail pc : Word64) : Msg :=
  let k := s.core c
  plainMsg 0x1B [.ofNat 64 (code.num + 2 ^ 8 * c.cluster + 2 ^ 16 * c.core + 2 ^ 19 * k.curIndex + 2 ^ 32 * k.parkseq.toNat),
    s.firingId c, .ofNat 64 (bitsOf pc.toNat 0 22), detail]

/-- Sends the message of a core's trap, of a firing of a rope: it is injected once what the core issued below a number is performed (R245), and behind a message that
is held already. -/
def State.sendTrap (s : State) (c : CoreId) (rope no : Nat) (sender : Sender) (vf cluster : Nat) (dest : Word64) (msg : Msg) : State :=
  if s.allPerformed c no && !s.heldTraps.any fun h => h.at_ == c then s.inject sender vf cluster dest msg 0 none
  else { s with
    heldTraps := s.heldTraps ++ [⟨c, rope, no, ⟨s.fresh, sender, vf, cluster, dest, msg, 0, none⟩⟩]
    fresh := s.fresh + 1 }

/-- Takes a trap (R312, R314): PARKSEQ rises, the slot becomes PARKED, and the trap message goes to the rope's supervisor.
Without a supervisor, and for a trap of the supervisor itself, the launcher aborts the firing at once and the message goes to the
REPLY address of the rope's cable. `pc` is the address reported, `next` where a RESUME goes on; it is none for a trap that `end` or `retire` reports. -/
def State.takeTrap (s : State) (c : CoreId) (code : TrapCode) (detail pc : Word64) (next : Option Word64) : State :=
  let s := if code = .budget then ((s.withdraw c).dropRedgets c).dropMonitor c else s
  let s := s.modCore c fun k =>
    { k.modCur fun t => { t with phase := .parked } with
      parkseq := k.parkseq + 1
      wait := .none
      emul := []
      park := some (.trap code detail pc s.now.toNat next) }
  let msg := s.trapMsg c code detail pc
  let t := (s.core c).curSlot
  let no := (s.core c).opNo
  -- a tile held across the park has its hold count run again from 0 (R162)
  let s := s.modHeld c fun x => s.afterPark x { x with holdFrom := some (s.core c).cycles.toNat }
  match s.ropes.get t.rope with
  | none => s
  | some r =>
    let reply := match s.cables.get r.cable with | some x => x.reply | none => 0
    match r.decl.supervisor with
    | some sup =>
      if sup = t.logical then (s.abort c).sendTrap c t.rope no (.launcher r.vf) r.vf (s.homeOf r.vf) reply msg
      else
        let port := match r.decl.actor sup with | some a => (firstPortOfKind a.ins 3).getD 0 | none => 0
        s.sendTrap c t.rope no (.trapUnit c t.rope) r.vf c.cluster (mailboxAddress r.vf r.context sup port) msg
    | none => (s.abort c).sendTrap c t.rope no (.launcher r.vf) r.vf (s.homeOf r.vf) reply msg

/-- The instruction at the program counter traps: nothing of it happened, and one core cycle passed. -/
def State.trapHere (s : State) (c : CoreId) (code : TrapCode) (detail : Word64) : State :=
  (s.stall c).takeTrap c code detail (s.core c).regs.pc (some ((s.core c).regs.pc + 4))

/-- Leaves the park of a trap: the firing runs on (R315). A tile's hold count stops again; one that passed its limit in the park expired there (R162). -/
def State.unpark (s : State) (c : CoreId) : State :=
  (s.modCore c fun k => { k.modCur fun t => { t with phase := .firing } with park := none }).modHeld c fun x =>
    s.afterPark x { x with holdFrom := none }

/-! ## Shed points -/

/-- The shed request to a rope takes effect: its shed point completed (R352). -/
def Rope.atShedPoint (r : Rope) : Rope :=
  match r.shed with
  | .asked _ => { r with shed := .stopped }
  | _ => r

/-- Whether a shed request to the rope has not yet taken effect, while a firing of the rope can still start: none can once the rope is ended or its strands have retired
(R353, R368, R370). -/
def Rope.shedPending (r : Rope) (now : Nat) : Bool :=
  r.shed != .none && !r.stopped now && !r.retired && r.ending.isNone && !r.strands.all (fun st => st.retired)

/-- Shed-complete (R353): no rope of the classes that the latest shed named is still to stop, so LASTSHED reads the time it took, which the
deadline bounds. -/
def State.settleShed (s : State) : State :=
  match s.power.shedFrom with
  | none => s
  | some (t, classes) =>
    if s.ropes.any fun e => classes.getLsbD e.2.decl.cls.toNat && e.2.shedPending s.now.toNat then s
    else { s with power := { s.power with shedFrom := none, lastShed := .ofNat 32 (satNat (s.now.toNat - t) 1500000) } }

/-! ## Lost notifications -/

/-- One more notification of a rope is lost (R275, R276). -/
def State.loseNotice (s : State) (rope : Nat) : State :=
  s.modRope rope fun r => { r with notifyLost := if r.notifyLost = 0xFFFFFFFF then r.notifyLost else r.notifyLost + 1 }

/-! ## Registers -/

/-- An x register as software reads it (R49); a bound port register is read through `takeX`. -/
def Regs.readX (r : Regs) (n : BitVec 5) : Word64 := if n = 0 then 0 else r.x.get n.toFin

/-- An f register. -/
def Regs.readF (r : Regs) (n : BitVec 5) : Word64 := r.f.get n.toFin

/-- A capability register; c0 is null (R49). -/
def Regs.readC (r : Regs) (n : BitVec 5) : Cap := if n = 0 then Cap.null else r.c.get n.toFin

/-- The binding of an x register; only x24 to x27 can be bound (R53). -/
def Regs.binding (r : Regs) (n : BitVec 5) : Binding :=
  if h : 24 ≤ n.toNat ∧ n.toNat < 28 then r.bind[n.toNat - 24]'(by omega) else .unbound

/-- Binds a port register. -/
def Regs.setBinding (r : Regs) (n : BitVec 5) (b : Binding) : Regs :=
  if h : 24 ≤ n.toNat ∧ n.toNat < 28 then { r with bind := r.bind.set (n.toNat - 24) b (by omega) } else r

/-- Whether a register with a full/empty bit is empty (R48, R114); x0 and c0 are always full (R49). -/
def Regs.isEmpty (r : Regs) : Reg → Bool
  | .x n => n != 0 && r.xEmpty.getLsbD n.toNat
  | .f n => r.fEmpty.getLsbD n.toNat
  | .c n => n != 0 && r.cEmpty.getLsbD n.toNat
  | .v n => r.vPending.getLsbD n.toNat
  | _ => false

/-- The place of a register among the marks of the registers that hold an uncorrectable error (R342). -/
def Reg.errorBit : Reg → Nat
  | .x n => n.toNat
  | .f n => 32 + n.toNat
  | .c n => 64 + n.toNat
  | .v n => 96 + n.toNat
  | .m n => 128 + n.toNat
  | .ce n => 136 + n.toNat
  | .me n => 152 + n.toNat

/-- One bit of a mask set or cleared. -/
def setBit {w : Nat} (m : BitVec w) (n : Nat) (b : Bool) : BitVec w :=
  if b then m ||| BitVec.twoPow w n else m &&& ~~~BitVec.twoPow w n

/-- Marks a register empty or full. -/
def Regs.mark (r : Regs) (g : Reg) (empty : Bool) : Regs :=
  match g with
  | .x n => { r with xEmpty := setBit r.xEmpty n.toNat empty }
  | .f n => { r with fEmpty := setBit r.fEmpty n.toNat empty }
  | .c n => { r with cEmpty := setBit r.cEmpty n.toNat empty }
  | .v n => { r with vPending := setBit r.vPending n.toNat empty }
  | _ => r

/-- Writes an x register that is not bound: x0 discards (R49); the register is full and sound. -/
def Regs.putX (r : Regs) (n : BitVec 5) (v : Word64) : Regs :=
  if n = 0 then r
  else { r with x := r.x.set n.toNat v n.isLt, xEmpty := setBit r.xEmpty n.toNat false, bad := setBit r.bad n.toNat false }

/-- Writes an f register. -/
def Regs.putF (r : Regs) (n : BitVec 5) (v : Word64) : Regs :=
  { r with f := r.f.set n.toNat v n.isLt, fEmpty := setBit r.fEmpty n.toNat false, bad := setBit r.bad (32 + n.toNat) false }

/-- Writes a capability register; c0 discards (R49). -/
def Regs.putC (r : Regs) (n : BitVec 5) (v : Cap) : Regs :=
  if n = 0 then r
  else { r with c := r.c.set n.toNat v n.isLt, cEmpty := setBit r.cEmpty n.toNat false, bad := setBit r.bad (64 + n.toNat) false }

/-- A vector register. -/
def Regs.readV (r : Regs) (n : BitVec 5) : BitVec 4096 := r.v.get n.toFin

/-- Writes a vector register; it is sound again only if all of it was written. -/
def Regs.putV (r : Regs) (n : BitVec 5) (v : BitVec 4096) (whole : Bool) : Regs :=
  { r with
    v := r.v.set n.toNat v n.isLt
    vPending := setBit r.vPending n.toNat false
    bad := if whole then setBit r.bad (96 + n.toNat) false else r.bad }

/-- A mask register. -/
def Regs.readM (r : Regs) (n : BitVec 3) : BitVec 128 := r.m.get n.toFin

/-- Writes a mask register; it is sound again only if all of it was written. -/
def Regs.putM (r : Regs) (n : BitVec 3) (v : BitVec 128) (whole : Bool) : Regs :=
  { r with m := r.m.set n.toNat v n.isLt, bad := if whole then setBit r.bad (128 + n.toNat) false else r.bad }

/-- Writes a copy engine register (R149). -/
def Regs.putCe (r : Regs) (n : BitVec 4) (v : BitVec 128) : Regs :=
  { r with ce := r.ce.set n.toNat v n.isLt, bad := setBit r.bad (136 + n.toNat) false }

/-- Writes a matrix geometry register (R224). -/
def Regs.putMe (r : Regs) (n : BitVec 4) (v : BitVec 128) : Regs :=
  { r with me := r.me.set n.toNat v n.isLt, bad := setBit r.bad (152 + n.toNat) false }

/-! ## Capabilities as bits -/

/-- The length of a region: MANT × 2^EXP (R129). -/
def Cap.len (c : Cap) : Nat := c.mant.toNat * 2 ^ c.exp.toNat

/-- The 128 bits of a capability (Table 05-1). -/
def Cap.toNat (c : Cap) : Nat :=
  c.cursor.toNat + 2 ^ 52 * c.base.toNat + 2 ^ 104 * c.mant.toNat + 2 ^ 116 * c.exp.toNat + 2 ^ 121 * c.perm.toNat + 2 ^ 125 * c.space.toNat

/-- The capability that 128 bits and a tag are (Table 05-1). -/
def Cap.ofNat (n : Nat) (tag : Bool) : Cap :=
  ⟨.ofNat 52 n, .ofNat 52 (n / 2 ^ 52), .ofNat 12 (n / 2 ^ 104), .ofNat 5 (n / 2 ^ 116), .ofNat 4 (n / 2 ^ 121), .ofNat 3 (n / 2 ^ 125), tag⟩

/-- The exponent that RoundLen takes: the smallest one for which the mantissa fits (R131); 32 where none does. -/
def roundExp (n : Nat) : Nat :=
  ((List.range 32).find? fun e => decide ((n + 2 ^ e - 1) / 2 ^ e ≤ 4095)).getD 32

/-- RoundLen: the smallest representable length at or above n (R131). -/
def roundLen (n : Nat) : Nat := (n + 2 ^ roundExp n - 1) / 2 ^ roundExp n * 2 ^ roundExp n

/-- A capability with the encoding of RoundLen(n) as its length. -/
def Cap.withLen (c : Cap) (n : Nat) : Cap :=
  { c with mant := .ofNat 12 ((n + 2 ^ roundExp n - 1) / 2 ^ roundExp n), exp := .ofNat 5 (roundExp n) }

/-- Bits [21:19] of an address set to a core's number. -/
def nameCore (a : BitVec 52) (k : Nat) : BitVec 52 := .ofNat 52 (a.toNat % 2 ^ 19 + k * 2 ^ 19 + a.toNat / 2 ^ 22 * 2 ^ 22)

/-- The space-2 form of a space-1 capability of a core (R138). -/
def Cap.toPeer (c : Cap) (k : Nat) : Cap :=
  if c.tag && c.space == 1 then { c with space := 2, cursor := nameCore c.cursor k, base := nameCore c.base k } else c

/-- The space-1 form of a space-2 capability that names the core itself (R138). -/
def Cap.toOwn (c : Cap) (k : Nat) : Cap :=
  if c.tag && c.space == 2 && bitsOf c.cursor.toNat 19 3 == k && bitsOf c.base.toNat 19 3 == k
    then { c with space := 1, cursor := nameCore c.cursor 0, base := nameCore c.base 0 } else c

/-- A capability as the core loads it from a place that lies in the scratchpad of `owner`, if it lies in one (R138). -/
def Cap.localise (c : Cap) (k : Nat) (owner : Option Nat) : Cap :=
  match owner with
  | some o => if o = k then c.toOwn k else (c.toPeer o).toOwn k
  | none => c.toOwn k

end Sys2Proof.Machine
end

