-- ==== Sys2Proof/Machine/Operands.lean ====
section
/-! DEFINITION. Operands: the issue of an instruction (R52), reads and writes of registers, bound port registers among them,
the access check (R133), translation by the TLB (R321), and what loads and stores do with the store buffer (R136, R140). -/

namespace Sys2Proof.Machine

/-! ## What becomes of an instruction -/

/-- What an instruction does once its sources are full. -/
inductive Act where
  /-- It completes, or takes its first cycle. -/
  | done (s : State)
  /-- It traps, from the state given: nothing was read or popped. -/
  | trap (s : State) (code : TrapCode) (detail : Word64)
  /-- It stalls at issue. -/
  | stall
  /-- Its access misses in the TLB (R321); a load names its destination (R141). -/
  | miss (va : BitVec 52) (write : Bool) (dest : Option Reg)

/-- Marks the destination of a long-latency producer empty (R114); x0, c0 and a bound port register are not marked. -/
def State.markEmpty (s : State) (c : CoreId) (g : Reg) : State :=
  match g with
  | .x n =>
    match (s.core c).regs.binding n with
    | .unbound => if n = 0 then s else s.modRegs c fun r => r.mark g true
    | _ => s
  | .c n => if n = 0 then s else s.modRegs c fun r => r.mark g true
  | _ => s.modRegs c fun r => r.mark g true

/-- Marks the destination of a producer empty, if it has one. -/
def State.markDest (s : State) (c : CoreId) (dest : Option Reg) : State :=
  match dest with
  | some g => s.markEmpty c g
  | none => s

/-- The core's firing parks for a translation, and the miss goes to the TSC (R321); the destination of a load is empty meanwhile (R141). -/
def State.parkForTranslation (s : State) (c : CoreId) (va : BitVec 52) (write : Bool) (dest : Option Reg) : State :=
  let vf := s.vfAt c
  let s := (s.markDest c dest).modCore c fun k =>
    { k.modCur fun t => { t with phase := .parked } with cycles := k.cycles + 1, park := some (.translation va write dest) }
  let s := s.modHeld c fun x => { x with holdFrom := some (s.core c).cycles.toNat }
  { s.modCluster c.cluster fun k => { k with misses := k.misses ++ [⟨s.fresh, vf, va, write, [.core c.core], none⟩] } with
    fresh := s.fresh + 1 }

/-- The state that an act leads to. -/
def Act.out (c : CoreId) (s : State) : Act → Out
  | .done t => .next t
  | .trap t code detail => .next (t.trapHere c code detail)
  | .stall => .next (s.stall c)
  | .miss va w g => .next (s.parkForTranslation c va w g)

/-! ## Sources and destinations -/

/-- A source with its wait bit (R51). -/
structure Src where
  reg : Reg
  wait : Bool
  deriving DecidableEq, Repr

/-- The words of a port that a firing may still read: its claim, or everything at a port of rate 0 (R25, R26). -/
def InPort.readable (p : InPort) : Nat :=
  let ms := if p.rate = 0 then p.msgs else p.msgs.take p.claimed
  (ms.map fun m => m.words.length).sum - p.readWords

/-- How a read of some words of an x register stands (R53). -/
inductive Avail where
  | full | empty
  | trap (code : TrapCode) (detail : Word64)
  deriving DecidableEq, Repr

/-- DETAIL of RATE and PORT: the port index, and whether it is a send port (Table 16-3). -/
def portDetail (k : Nat) (send : Bool) : Word64 := .ofNat 64 (k + 8 * b2n send)

/-- DETAIL of a read of a stream past its end (Table 16-3, R156). -/
def streamDetail (n : BitVec 5) (job : Nat) : Word64 := .ofNat 64 (n.toNat - 24 + 16 + 2 ^ 8 * job)

/-- The words that a stream job has not delivered (R156). -/
def Job.undelivered (j : Job) : Nat := j.rowBytes / 8 * j.rows - j.done / 8

/-- The job that a job value names, for a firing of a core (R148, R152): none for a stale value, a job of another rope, or another word. -/
def State.jobNamed (s : State) (c : CoreId) (v : Word64) : Option (Nat × Job) :=
  let id := bitsOf v.toNat 0 6
  let j := (s.cluster c.cluster).job id
  if v.toNat < 2 ^ 16 ∧ bitsOf v.toNat 6 2 = 0 ∧ bitsOf v.toNat 8 8 = j.gen.toNat ∧ j.gen ≠ 0 ∧ j.rope = (s.core c).curSlot.rope
    then some (id, j) else none

/-- The code of a job's state (Table 06-2). -/
def JobState.code : JobState → Nat
  | .queued => 0
  | .running => 1
  | .done => 2
  | .fault => 3
  | .touring => 5

/-- The status word of a job (Table 06-2). -/
def Job.status (j : Job) : Word64 := .ofNat 64 (j.state.code + 2 ^ 8 * j.cause.toNat + 2 ^ 32 * satNat j.done (2 ^ 32 - 1))

/-- The status that a firing of a core sees for a job value; STALE reads 4 (R152). -/
def State.jobStatus (s : State) (c : CoreId) (v : Word64) : Word64 :=
  match s.jobNamed c v with
  | some (_, j) => j.status
  | none => 4

/-- Whether `need` words can be read from an x register (R53). -/
def State.availX (s : State) (c : CoreId) (n : BitVec 5) (need : Nat) : Avail :=
  let k := s.core c
  match k.regs.binding n with
  | .unbound => if k.regs.isEmpty (.x n) then .empty else .full
  | .recv p =>
    match k.curSlot.ins[p]? with
    | some q => if need ≤ q.readable then .full else if q.rate = 0 then .empty else .trap .rate (portDetail p false)
    | none => .trap .rate (portDetail p false)
  | .send p _ => .trap .port (portDetail p true)
  | .stream id _ ws left =>
    if need ≤ ws.length then .full else if need ≤ ws.length + left then .empty else .trap .rate (streamDetail n id)

/-- Whether a scale register of a started step is still to be written (R223). -/
def Core.scalePending (k : Core) (g : Reg) : Bool :=
  match g with
  | .f n => k.scales.any fun e => e.2.1 == n && e.2.2.1 == k.firingNo
  | _ => false

/-- Whether a register waits for an interlocked access that is performed after its issue: it is not EMPTY, and holds up its readers and writers (R116); x0 and c0
are always full (R49). -/
def Core.latePending (k : Core) (g : Reg) : Bool :=
  g != .x 0 && g != .c 0 && k.prods.any fun p => p.late && p.dest == some g && p.firing == k.firingNo

/-- How often an x register stands among the sources. -/
def needOf (srcs : List Src) (g : Reg) : Nat := (srcs.filter fun s => s.reg == g).length

/-- How a source stands. -/
def State.availSrc (s : State) (c : CoreId) (srcs : List Src) (q : Src) : Avail :=
  match q.reg with
  | .x n => s.availX c n (needOf srcs q.reg)
  | g => if (s.core c).regs.isEmpty g then .empty else .full

/-- DETAIL of EMPTY: the register and its file (Table 16-3). -/
def emptyDetail : Reg → Word64
  | .x n => .ofNat 64 n.toNat
  | .f n => .ofNat 64 (n.toNat + 32)
  | .c n => .ofNat 64 (n.toNat + 64)
  | _ => 0

/-- Whether a register holds an uncorrectable soft error (R342). -/
def Regs.isBad (r : Regs) (g : Reg) : Bool := g != .x 0 && g != .c 0 && r.bad.getLsbD g.errorBit

/-- What the tests at issue find. -/
inductive Test where
  | go | stall
  | trap (code : TrapCode) (detail : Word64)
  deriving DecidableEq, Repr

/-- The partition of a core's firing. -/
def State.partAt (s : State) (c : CoreId) : Nat := s.partOfVf (s.vfAt c)

/-- The number of words of a type code (R20). -/
def wordsOf (typ : BitVec 8) : Nat := typ.toNat % 8 + 1

/-- The kind of a type code: 0 data, 1 tile, 2 cap, 3 sys (R20). -/
def kindOf (typ : BitVec 8) : Nat := typ.toNat / 8 % 4

/-- The location of an actor's capability granule (R268). -/
def Slot.granule (t : Slot) (c : CoreId) : Nat := locScratch c.cluster c.core (t.stateBase + t.stateBytes - 16)

/-- The checks of an injection through a send port (R258, R259, R260): declared, bound to a destination, within the rate, room in the queue. -/
def State.sendTest (s : State) (c : CoreId) (port : Nat) : Test :=
  let k := s.core c
  match k.curSlot.outs[port]? with
  | none => .trap .port (portDetail port true)
  | some p =>
    if p.dest.toNat % 2 ^ 36 = 0 then .trap .port (portDetail port true)
    else if p.sent = p.rate then .trap .rate (portDetail port true)
    else if 8 ≤ k.sendQ.length || s.draining (s.partAt c) then .stall else .go

/-- How a write to a register that is bound to a send port would stand: one that completes its message injects it (R259). -/
def State.writeTest (s : State) (c : CoreId) (p : Nat) (ws : List Word64) : Test :=
  match (s.core c).curSlot.outs[p]? with
  | some q => if wordsOf q.typ ≤ ws.length + 1 then s.sendTest c p else .go
  | none => .trap .port (portDetail p true)

/-- Whether a register that is bound to a send port waits for a load that is performed late: its word comes before everything that a later instruction puts into the send
queue, and before what one reads or changes of the ports (R116, R247, R259, R260). -/
def Core.sendLate (k : Core) : Bool :=
  ([24, 25, 26, 27] : List (BitVec 5)).any fun n => (match k.regs.binding n with | .send .. => true | _ => false) && k.latePending (.x n)

/-- How the destination of an instruction stands at issue (R52, item 3; R116): it takes a write. -/
def State.destTest (s : State) (c : CoreId) (g : Reg) : Test :=
  match g with
  | .x n =>
    match (s.core c).regs.binding n with
    | .send p ws => if (s.core c).sendLate then .stall else s.writeTest c p ws
    | .unbound => if (s.core c).regs.isEmpty g || (s.core c).latePending g then .stall else .go
    | _ => .go
  | g => if (s.core c).regs.isEmpty g || (s.core c).scalePending g || (s.core c).latePending g then .stall else .go

/-- The destination of an instruction whose result comes after its issue, as the tests at issue see it: a register that is bound to a send port is tested at the
moment of the write instead (R259), but stalls at issue like any other behind a load of the own cluster that is performed late, whose word comes first (R116). -/
def State.lateDest (s : State) (c : CoreId) (g : Reg) : List Reg :=
  match g with
  | .x n => (match (s.core c).regs.binding n with | .send .. => if (s.core c).sendLate then [g] else [] | _ => [g])
  | _ => [g]

/-- The destination of a load from a space, as the tests at issue see it: in spaces 2 and 4 the load is long-latency (R114, R140), and in the others it may be performed
late (R247). -/
def State.loadDest (s : State) (c : CoreId) (space : BitVec 3) (g : Reg) : List Reg :=
  if space = 2 ∨ space = 4 ∨ (s.core c).late = true then s.lateDest c g else [g]

/-- The first that is not `go`. -/
def Test.first : List Test → Test
  | [] => .go
  | .go :: r => Test.first r
  | t :: _ => t

/-- A source that traps EMPTY: it is empty and its wait bit is set (R52, item 1). -/
def State.emptyTest (s : State) (c : CoreId) (srcs : List Src) (q : Src) : Test :=
  if q.wait then (match s.availSrc c srcs q with | .empty => .trap .empty (emptyDetail q.reg) | _ => .go) else .go

/-- A source that traps RATE or PORT (R53). -/
def State.portTest (s : State) (c : CoreId) (srcs : List Src) (q : Src) : Test :=
  match s.availSrc c srcs q with
  | .trap code d => .trap code d
  | _ => .go

/-- Whether a register is bound to a `cap` port while an access of the core to its actor's capability granule is not performed: the write of the granule at a read
of the port comes after it (R268). -/
def State.granuleBusy (s : State) (c : CoreId) (g : Reg) : Bool :=
  let k := s.core c
  match g with
  | .x n =>
    match k.regs.binding n with
    | .recv p => (match k.curSlot.ins[p]? with | some q => kindOf q.typ == 2 | none => false)
        && (s.unperformed c).any fun a => decide (a.loc < k.curSlot.granule c + 16 ∧ k.curSlot.granule c < a.loc + a.bytes)
    | _ => false
  | _ => false

/-- A source that is not full, or whose scale, late value or granule is still to be written, stalls (R52, item 2; R116, R223, R268). -/
def State.fullTest (s : State) (c : CoreId) (srcs : List Src) (q : Src) : Test :=
  if (s.core c).scalePending q.reg || (s.core c).latePending q.reg || s.granuleBusy c q.reg then .stall
  else match s.availSrc c srcs q with | .full => .go | _ => .stall

/-- The producers of the running firing that are outstanding. -/
def Core.own (k : Core) : List Producer := k.prods.filter fun p => p.firing == k.firingNo

/-- Whether a `waita` that was armed after its issue stops the issue of its firing (R278). -/
def Core.stopped (k : Core) : Bool := k.own.any fun p => match p.pending with | .armed .. => true | _ => false

/-- The tests of R52, R53 and R115 in their order. Where several sources fail one test, the first in the instruction's list of operands is reported,
a trap of R53 is raised though another source is still empty, and the PORT and RATE tests of a send register that the instruction itself writes (R259) come before its
own traps, an access check's among them: the model's choices, on which the spec is silent (log entry 65). -/
def State.issueTest (s : State) (c : CoreId) (srcs : List Src) (dests : List Reg) : Test :=
  if (s.core c).wait ≠ .none ∨ (s.core c).stopped = true then .stall else
  Test.first (srcs.map (s.emptyTest c srcs) ++ srcs.map (s.portTest c srcs) ++ srcs.map (s.fullTest c srcs) ++ dests.map (s.destTest c))

/-- A RATE trap of a completing write discards the words of the message (R259). -/
def State.dropPartial (s : State) (c : CoreId) (dests : List Reg) : State :=
  dests.foldl (fun s g =>
    match g with
    | .x n =>
      match (s.core c).regs.binding n with
      | .send p ws => (match s.writeTest c p ws with | .trap .rate _ => s.modRegs c fun r => r.setBinding n (.send p []) | _ => s)
      | _ => s
    | _ => s) s

/-- The tests of the sources, which come before those of the destinations (R52). -/
def State.sourceTest (s : State) (c : CoreId) (srcs : List Src) : Test :=
  Test.first (srcs.map (s.emptyTest c srcs) ++ srcs.map (s.portTest c srcs) ++ srcs.map (s.fullTest c srcs))

/-- Whether a source holds an uncorrectable soft error (R342). -/
def State.badSource (s : State) (c : CoreId) (srcs : List Src) : Bool := srcs.any fun q => (s.core c).regs.isBad q.reg

/-- Issues an instruction: the tests, then its own part, which reads the sources (R52). `dests` are the registers that the
instruction itself writes, or that it marks empty (R115). An error in a source is reported after the instruction's own checks and
translation, and before an event of its completion, of which nothing is left then (R311). -/
def State.issue (s : State) (c : CoreId) (srcs : List Src) (dests : List Reg) (k : State → Act) : Out :=
  match s.issueTest c srcs dests with
  | .go =>
    match k s with
    | .done t => if s.badSource c srcs then .next (s.trapHere c .ecc 0) else .next t
    | .trap t code d => if code = .fpx ∧ s.badSource c srcs then .next (s.trapHere c .ecc 0) else (Act.trap t code d).out c s
    | a => a.out c s
  | .stall => .next (s.stall c)
  | .trap code d => .next ((if s.sourceTest c srcs = .go then s.dropPartial c dests else s).trapHere c code d)

/-! ## What a load takes its value from -/

/-- What the store buffer gives of a byte: its value and the bits it holds (R136). -/
def forwardByte (stores : List StoreEntry) (loc : Nat) : Byte × Byte :=
  stores.foldl (fun acc e => e.bytes.foldl (fun acc b =>
    if b.1 = loc then ((acc.1 &&& ~~~b.2.2) ||| (b.2.1 &&& b.2.2), acc.2 ||| b.2.2) else acc) acc) (0, 0)

/-- The buffered stores that a load of a run of bytes may take its value from: those younger than the core's last outstanding atomic on the
run, which performs after the older ones and before the load (R244, case 1). -/
def Core.storesFor (k : Core) (loc n : Nat) : List StoreEntry :=
  let last := k.prods.foldl (fun m p => match p.pending with
    | .atomic l b .. => if l < loc + n ∧ loc < l + b then max m p.no else m
    | _ => m) 0
  k.stores.filter fun e => decide (last ≤ e.no)

/-- What the store buffer gives of a run of bytes. -/
def Core.forward (k : Core) (loc n : Nat) : List (Byte × Byte) := (List.range n).map fun i => forwardByte (k.storesFor loc n) (loc + i)

/-- Bytes from memory under the bits that the store buffer forwarded. -/
def merged (mem : Memory) (loc : Nat) (fwd : List (Byte × Byte)) : List Byte :=
  fwd.zipIdx.map fun (f, i) => (mem.byte (loc + i) &&& ~~~f.2) ||| (f.1 &&& f.2)


/-- The tag that the store buffer gives a granule; none where it writes no byte of it. -/
def Core.forwardTag (k : Core) (loc : Nat) : Option Bool :=
  (k.storesFor (loc / 16 * 16) 16).foldl (fun b e => e.tags.foldl (fun b t => if t.1 / 16 = loc / 16 then some t.2 else b) b) none

/-- The core whose scratchpad, of this cluster, holds a location. -/
def ownerIn (c : CoreId) (loc : Nat) : Option Nat :=
  match coreOfLoc loc with
  | some o => if o.cluster = c.cluster then some o.core else none
  | none => none

/-- The value that loaded bytes give a register (R140, R142, R144). A granule whose tag is dropped for want of PERM.CAP is not converted, as R138 converts
tagged values only: the model's reading (log entry 67). -/
def fillValue (c : CoreId) (loc : Nat) (tag : Bool) (bytes : List Byte) : Fill → Value
  | .signed n => .word (sext64 (8 * n) (leNat bytes))
  | .zeroed _ => .word (.ofNat 64 (leNat bytes))
  | .boxed n => .word (.ofNat 64 (leNat bytes + (2 ^ 64 - 2 ^ (8 * n))))
  | .bits lo width signed =>
    let field := bitsOf (leNat bytes) lo width
    .word (if signed then sext64 width field else .ofNat 64 field)
  | .cap keep => .cap ((Cap.ofNat (leNat bytes) (tag && keep && decide (2 ^ 39 ≤ loc))).localise c.core (ownerIn c loc))

/-- Whether a load of a run of bytes meets an uncorrectable error that the store buffer does not cover (R342). -/
def Memory.loadBad (m : Memory) (loc : Nat) (fwd : List (Byte × Byte)) : Bool :=
  m.badIn loc fwd.length && !fwd.all fun f => f.2 == 0xFF

/-- What a load of a run of bytes takes as a core stands: its value, and whether no error is in it (R136, R140, R342). -/
def Core.loadValue (k : Core) (c : CoreId) (m : Memory) (loc n : Nat) (fill : Fill) : Value × Bool :=
  let fwd := k.forward loc n
  (fillValue c loc ((k.forwardTag loc).getD (m.tag loc)) (merged m loc fwd) fill, !m.loadBad loc fwd)

/-- The bytes that a value needs to fill its register. -/
def Fill.bytes : Fill → Nat
  | .signed n | .zeroed n | .boxed n => n
  | .bits lo width _ => (lo + width + 7) / 8
  | .cap _ => 16

/-! ## Reading and writing registers, port registers among them -/

/-- Two words as 16 bytes. -/
def wordsBytes (w0 w1 : Word64) : List Byte := leBytes 8 w0.toNat ++ leBytes 8 w1.toNat

/-- A wait on a word wakes at a write by another party to a byte of its block (R279). -/
def Wait.wokenBy (w : Wait) (own : Bool) (loc n : Nat) : Wait :=
  match w with
  | .waita no a repl since _ => if !own && decide (loc / 64 ≤ a / 64 ∧ a / 64 ≤ (loc + n - 1) / 64) then .waita no a repl since true else w
  | w => w

/-- An `ldw` that waits on a word, after a write to the word (R143, R147): the first write that makes the word full gives it its value; if the word
is emptied before the value went off, the next one that makes it full does. A `waita` that was armed after its issue wakes like one that stopped it (R279). -/
def Producer.served (p : Producer) (k : Core) (c : CoreId) (m : Memory) (may : MemOp → Bool) (own : Bool) (loc n : Nat) : Producer :=
  match p.pending with
  | .armed a repl since _ =>
    if !own && decide (loc / 64 ≤ a / 64 ∧ a / 64 ≤ (loc + n - 1) / 64) then { p with pending := .armed a repl since true } else p
  | .loadFull a fill seen =>
    if !decide (loc / 8 ≤ a / 8 ∧ a / 8 ≤ (loc + n - 1) / 8) then p
    else if !(k.older p.no).fullAt m a then { p with pending := .loadFull a fill none }
    else if seen.isNone && may (loadOp p.no (a / 8 * 8) 8 false)
      then { p with pending := .loadFull a fill (some ((k.older p.no).loadValue c m a fill.bytes fill)) }
    else p
  | _ => p

/-- What a write to memory does to the waits of every core: those of `waita` on its blocks wake, those of `ldw` on its words are served;
`by_` is the writing core. -/
def State.wake (s : State) (by_ : Option CoreId) (loc n : Nat) : State :=
  { s with cores := s.cores.map fun e =>
      (e.1, { e.2 with
        wait := e.2.wait.wokenBy (by_ == some (coreOfKey e.1)) loc n
        prods := e.2.prods.map fun p => p.served e.2 (coreOfKey e.1) s.mem (s.mayPerform (coreOfKey e.1)) (by_ == some (coreOfKey e.1)) loc n }) }

/-- A write to memory by a party: the memory changes, and the waits on what was written are told. -/
def State.modMem (s : State) (by_ : Option CoreId) (loc n : Nat) (f : Memory → Memory) : State :=
  { s with mem := f s.mem }.wake by_ loc n

/-- Receiving a `cap` message: before word 0 is read, the capability goes into the reader's granule, localised, with its tag (R268). -/
def State.receiveCap (s : State) (c : CoreId) (m : Msg) : State :=
  let t := (s.core c).curSlot
  let bits := (m.words[0]?.getD 0).toNat + 2 ^ 64 * (m.words[1]?.getD 0).toNat
  let cap := (Cap.ofNat bits m.tag).toOwn c.core
  s.modMem (some c) (t.granule c) 16 fun mem =>
    (((mem.write (t.granule c) (leBytes 16 cap.toNat)).setTag (t.granule c) cap.tag).clearBad (t.granule c)).clearBad (t.granule c + 8)

/-- The arrival message of a tile is withdrawn from the messages that no firing claimed (R160); where a word of it was read on a rate-0 port, the rest of it is gone (R26). -/
def InPort.withdraw (p : InPort) (handle : Word64) : InPort :=
  let mine (m : Msg) : Bool := kindOf m.typ == 1 && m.words[0]? == some handle
  { p with
    msgs := p.msgs.take p.claimed ++ (p.msgs.drop p.claimed).eraseP mine
    readWords := if p.claimed = 0 ∧ p.msgs.head?.any mine then 0 else p.readWords }

/-- Pops one word of an input port (R25, R53). -/
def InPort.pop (p : InPort) : InPort :=
  match p.msgs with
  | [] => p
  | m :: r => if p.readWords + 1 < m.words.length then { p with readWords := p.readWords + 1 }
    else { p with msgs := r, claimed := p.claimed - 1, readWords := 0 }

/-- Reads an x register as a source: a bound receive port or stream gives up a word (R53). -/
def State.takeX (s : State) (c : CoreId) (n : BitVec 5) : Word64 × State :=
  let k := s.core c
  match k.regs.binding n with
  | .recv p =>
    match k.curSlot.ins[p]? with
    | some q =>
      match q.msgs with
      | m :: _ =>
        let s := if q.readWords = 0 ∧ kindOf q.typ = 2 then s.receiveCap c m else s
        (m.words[q.readWords]?.getD 0, s.modCore c fun k => k.modCur fun t => { t with ins := modAt t.ins p InPort.pop })
      | [] => (0, s)
    | none => (0, s)
  | .stream id gen (w :: ws) left => (w, s.modRegs c fun r => r.setBinding n (.stream id gen ws left))
  | _ => (k.regs.readX n, s)

/-- Appends a message to the core's send queue: the counts and SEQ of its port move on (R258, R260). The tag of a `cap` message says here
whether c1 grants PERM.CAP (R268): that c1 is looked at as the message enters the queue, and not at its injection, is the model's choice (log entry 86). -/
def State.send (s : State) (c : CoreId) (port : Nat) (words : List Word64) : State :=
  s.modCore c fun k =>
    match k.curSlot.outs[port]? with
    | none => k
    | some p =>
      { k.modCur fun t => { t with outs := modAt t.outs port fun p =>
          { p with sent := p.sent + 1, seq := p.seq + 1, used := true, unanswered := p.unanswered ++ [(p.seq, k.firingNo)] } } with
        sendQ := k.sendQ ++ [⟨k.opNo, k.curIndex, k.curSlot.rope, k.firingNo, some port, p.dest,
          ⟨p.typ, words, kindOf p.typ == 2 && (k.regs.readC 1).tag && (k.regs.readC 1).perm.getLsbD 3⟩, p.seq, k.curSlot.granule c⟩] }

/-- Writes an x register: a register bound to a send port appends the word to its message, and sends it when it is whole (R259); a register
bound to a receive port or a stream discards the write (R49). -/
def State.putX (s : State) (c : CoreId) (n : BitVec 5) (v : Word64) : State :=
  let k := s.core c
  match k.regs.binding n with
  | .unbound => s.modRegs c fun r => r.putX n v
  | .send p ws =>
    match k.curSlot.outs[p]? with
    | some q =>
      if wordsOf q.typ ≤ ws.length + 1 then (s.modRegs c fun r => r.setBinding n (.send p [])).send c p (ws ++ [v])
      else s.modRegs c fun r => r.setBinding n (.send p (ws ++ [v]))
    | none => s
  | _ => s

/-- Writes an x register and completes. -/
def State.putXNext (s : State) (c : CoreId) (n : BitVec 5) (v : Word64) : State := (s.putX c n v).advance c

/-- Writes a capability register and completes. -/
def State.putCNext (s : State) (c : CoreId) (n : BitVec 5) (v : Cap) : State := (s.modRegs c fun r => r.putC n v).advance c

/-- Writes an f register and completes. -/
def State.putFNext (s : State) (c : CoreId) (n : BitVec 5) (v : Word64) : State := (s.modRegs c fun r => r.putF n v).advance c

/-- Adds a long-latency producer at the program counter, its destination empty (R114). -/
def State.addProducer (s : State) (c : CoreId) (dest : Option Reg) (detail : Word64) (p : Pending) : State :=
  (s.markDest c dest).modCore c fun k =>
    { k with prods := k.prods ++ [⟨k.opNo, k.regs.pc, k.firingNo, dest, detail, p, false⟩], opNo := k.opNo + 1 }

/-- Starts a long-latency producer and completes the instruction (R114). -/
def State.produce (s : State) (c : CoreId) (dest : Option Reg) (detail : Word64) (p : Pending) : State :=
  (s.addProducer c dest detail p).advance c


/-- An interlocked access that is performed after its issue (R247): its destination is not EMPTY, but what reads or writes it waits, and an ECC error of it is reported as a
producer's trap is: the model's choice (log entry 89). -/
def State.defer (s : State) (c : CoreId) (dest : Reg) (detail : Word64) (p : Pending) : State :=
  (s.modCore c fun k => { k with
    prods := k.prods ++ [⟨k.opNo, k.regs.pc, k.firingNo, some dest, detail, p, true⟩]
    opNo := k.opNo + 1
    late := false }).advance c

/-- The outstanding producer of a number. -/
def Core.producer (k : Core) (no : Nat) : Option Producer := k.prods.find? fun p => p.no == no

/-- Changes what a producer still has to do. -/
def Core.setPending (k : Core) (no : Nat) (p : Pending) : Core :=
  { k with prods := k.prods.map fun q => if q.no = no then { q with pending := p } else q }

/-- Takes a producer out of the list of the outstanding ones; fences with nothing older outstanding are forgotten. -/
def Core.dropProducer (k : Core) (no : Nat) : Core :=
  let ps := k.prods.filter fun q => q.no != no
  { k with prods := ps, fences := if ps.isEmpty then [] else k.fences }

/-- Whether a producer is a load or an atomic. -/
def Producer.loads (p : Producer) : Bool :=
  match p.pending with
  | .load .. | .loadFull .. | .vload .. | .atomic .. | .ready _ => true
  | _ => false

/-- Whether a producer is a `waita`, which R114 names beside the loads. -/
def Producer.waits (p : Producer) : Bool :=
  match p.pending with
  | .monitor | .arm .. | .armed .. | .waited _ => true
  | _ => false

/-- The long-latency loads and atomics of a core that are outstanding: at most 32; interlocked accesses that are performed late are not among them (R136, R271). That a
`waita` is none of them is the model's reading (log entry 96). -/
def Core.loadsOut (k : Core) : Nat := (k.prods.filter fun p => p.loads && !p.late).length

/-- The loads, atomics and `waita`s of a core that have not returned their values, interlocked ones that are performed late among them (R277). -/
def Core.loadsLeft (k : Core) : Nat := (k.prods.filter fun p => p.loads || p.waits).length

/-! ## The access check -/

/-- What an access needs (R133): the spaces it is allowed in, the permissions, and whether the address must be aligned. -/
structure AccKind where
  spaces : List Nat
  r : Bool
  w : Bool
  align : Bool
  deriving DecidableEq, Repr

/-- What the access check answers. -/
inductive Access where
  | ok (loc : Nat) (replicated : Bool)
  /-- The hypervisor has performed the access itself (R326). -/
  | emulated (v : Word64)
  | trap (code : TrapCode) (detail : Word64)
  | miss (va : BitVec 52) (write : Bool)
  | stall
  deriving DecidableEq, Repr

/-- The end of a space's extent (Table 05-2). -/
def extentEnd : Nat → Nat
  | 1 => 2 ^ 19
  | 2 => 2 ^ 22
  | 3 => 2 ^ 21
  | 4 => 2 ^ 52
  | _ => 0

/-- DETAIL of an access trap: the address formed, its space, 1 for a write (Table 16-3). -/
def accessDetail (a : Int) (space : BitVec 3) (write : Bool) : Word64 :=
  .ofNat 64 ((a % 2 ^ 52).toNat + 2 ^ 52 * space.toNat + 2 ^ 55 * b2n write)

/-- The page sizes of a TLB entry, as powers of two (R329). -/
def pageBits (size : BitVec 2) : Nat :=
  match size.toNat with
  | 0 => 16
  | 1 => 21
  | 2 => 28
  | _ => 33

/-- Whether an entry maps an address of a VF. -/
def TlbEntry.maps (e : TlbEntry) (vf : Nat) (va : Nat) : Bool :=
  e.vf.toNat == vf && e.vpn.toNat * 2 ^ 16 / 2 ^ pageBits e.size == va / 2 ^ pageBits e.size

/-- The physical address an entry gives. -/
def TlbEntry.physical (e : TlbEntry) (va : Nat) : Nat :=
  e.frame.toNat * 2 ^ 16 / 2 ^ pageBits e.size * 2 ^ pageBits e.size + va % 2 ^ pageBits e.size

/-- Whether an entry gives the permission that an access needs. -/
def TlbEntry.permits (e : TlbEntry) (write : Bool) : Bool := if write then e.w else e.r

/-- The first entry that maps an address, if it gives the permission that the access needs. -/
def findEntry (es : List TlbEntry) (vf va : Nat) (write : Bool) : Option TlbEntry :=
  (es.find? fun e => e.maps vf va).filter fun e => e.permits write

/-- The translation that the entry at a place of a core's TLB gives an address: none where a later entry took the address from it, even if that one is gone by now (R250,
R330; log entry 69). -/
def Core.tlbAt (k : Core) (i vf va : Nat) : Option TlbEntry :=
  ((k.tlb[i]?).join).filter fun e => e.maps vf va && !k.tlbOld.any fun o => o.1 == i && o.2.maps vf va

/-- Looks up an address in a core's TLB (R321): the entry that maps it, if it gives the permission that the access needs. -/
def Core.tlbFind (k : Core) (vf va : Nat) (write : Bool) : Option TlbEntry :=
  ((List.range 64).findSome? fun i => k.tlbAt i vf va).filter fun e => e.permits write

/-- Translates a space-4 access of a core (R321). -/
def State.translate (s : State) (c : CoreId) (va : Nat) (write : Bool) : Access :=
  match (s.core c).emul.find? fun e => e.1 == .ofNat 52 va with
  | some e => .emulated e.2
  | none =>
    if s.draining (s.partAt c) then .stall else
    match (s.core c).tlbFind (s.vfAt c) va write with
    | some e => .ok (e.physical va) e.repl
    | none => .miss (.ofNat 52 va) write

/-- The checks of `AccessCheck` but translation, in their order (R133): the first that fails. -/
def State.accessFails (s : State) (c : CoreId) (cap : Cap) (a : Int) (n : Nat) (kind : AccKind) : Option TrapCode :=
  let sp := cap.space.toNat
  if !cap.tag then some .captag
  else if !kind.spaces.contains sp then some .capspace
  else if kind.r && !cap.perm.getLsbD 0 then some .capperm
  else if kind.w && (!cap.perm.getLsbD 1 || sp == 3) then some .capperm
  else if kind.align && a % n != 0 then some .align
  else if a < cap.base.toNat || cap.base.toNat + cap.len < a + n then some .capbounds
  else if extentEnd sp < a + n then some .capbounds
  else if sp == 2 && !(match s.ropeAt c with
      | some r => (r.gang (s.core c).curSlot.strand).contains (a.toNat / 2 ^ 19 % 8)
      | none => false) then some .capspace
  else if sp == 3 && !s.holdsTile c (a.toNat / 2 ^ 16 % 32) then some .tourRevoked
  else none

/-- The flat location of an address in spaces 1 to 3. -/
def spaceLoc (c : CoreId) (space : BitVec 3) (a : Nat) : Nat :=
  match space.toNat with
  | 1 => locScratch c.cluster c.core a
  | 2 => locScratch c.cluster (a / 2 ^ 19 % 8) a
  | _ => locTile c.cluster (a / 2 ^ 16 % 32) a

/-- `AccessCheck` (R133). -/
def State.accessCheck (s : State) (c : CoreId) (cap : Cap) (a : Int) (n : Nat) (kind : AccKind) : Access :=
  match s.accessFails c cap a n kind with
  | some code => .trap code (accessDetail a cap.space kind.w)
  | none =>
    if cap.space = 4 then s.translate c a.toNat kind.w
    else .ok (spaceLoc c cap.space a.toNat) false

/-- `AccessCheck` of a whole range, with translation excepted and no alignment test (R133). -/
def State.rangeFails (s : State) (c : CoreId) (cap : Cap) (a : Int) (n : Nat) (kind : AccKind) : Option TrapCode :=
  s.accessFails c cap a n { kind with align := false }

/-- The kinds of access of Table 05-3. -/
def AccKind.load : AccKind := ⟨[1, 2, 3, 4], true, false, true⟩
def AccKind.store : AccKind := ⟨[1, 2, 3, 4], false, true, true⟩
def AccKind.loadFull : AccKind := ⟨[1, 2, 3], true, false, true⟩
def AccKind.storeFull : AccKind := ⟨[1, 2, 3], false, true, true⟩
def AccKind.loadBits : AccKind := ⟨[1, 2], true, false, false⟩
def AccKind.storeBits : AccKind := ⟨[1, 2], false, true, false⟩
def AccKind.atomic : AccKind := ⟨[1, 2, 3, 4], true, true, true⟩
def AccKind.waita : AccKind := ⟨[1, 2, 4], true, false, true⟩

/-! ## Loads and stores -/

/-- Writes a value into the register it is for. -/
def State.putReg (s : State) (c : CoreId) (g : Reg) (v : Value) : State :=
  match g, v with
  | .x n, .word w => s.putX c n w
  | .f n, .word w => s.modRegs c fun r => r.putF n w
  | .c n, .cap k => s.modRegs c fun r => r.putC n k
  | .v n, .vec b => s.modRegs c fun r => r.putV n b false
  | _, _ => s

/-- Issues a load that passed its check (R136, R140). In spaces 1 and 3 it is performed at once, or stalls behind an access that R244 puts first, unless it is one
that comes late (R247); in spaces 2 and 4 it is long-latency, and is performed when its turn comes (R114). -/
def State.loadAt (s : State) (c : CoreId) (space : BitVec 3) (detail : Word64) (loc n : Nat) (repl : Bool) (fill : Fill) (g : Reg) : Act :=
  let k := s.core c
  if space = 1 ∨ space = 3 then
    if k.late then .done (s.defer c g detail (.load loc n repl fill))
    else if !s.mayPerform c (loadOp k.opNo loc n repl) then .stall
    else
      let v := k.loadValue c s.mem loc n fill
      if v.2 then .done ((s.putReg c g v.1).advance c) else .trap s .ecc detail
  else if 32 ≤ k.loadsOut then .stall
  else .done (s.produce c (some g) detail (.load loc n repl fill))

/-- A whole load: the check, then the load, or the hypervisor's value (R133, R140, R326). -/
def State.doLoad (s0 s : State) (c : CoreId) (cap : Cap) (a : Int) (n : Nat) (kind : AccKind) (fill : Fill) (g : Reg) : Act :=
  match s.accessCheck c cap a n kind with
  | .trap code d => .trap s0 code d
  | .miss va w => .miss va w (some g)
  | .stall => .stall
  | .emulated v =>
    if 32 ≤ (s.core c).loadsOut then .stall
    else .done (s.produce c (some g) 0 (.ready (fillValue c 0 false (leBytes n v.toNat) fill)))
  | .ok loc repl => s.loadAt c cap.space (accessDetail a cap.space false) loc n repl fill g

/-- The entries of the store buffer that are taken (R136, R218). -/
def Core.entries (k : Core) : Nat := (k.stores.map StoreEntry.unit).eraseDups.length

/-- Puts a store into the store buffer and completes; a full buffer stalls (R136). -/
def State.buffer (s : State) (c : CoreId) (bytes : List (Nat × Byte × Byte)) (fullBit : Option (Nat × Bool)) (tags : List (Nat × Bool))
    (repl : Bool) : Act :=
  if 16 ≤ (s.core c).entries then .stall
  else .done ((s.modCore c fun k =>
    { k with stores := k.stores ++ [⟨k.opNo, bytes, fullBit, tags, repl, false, k.opNo⟩], opNo := k.opNo + 1 }).advance c)

/-- Whole bytes from a location on, as a store writes them. -/
def wholeBytes (loc : Nat) (bs : List Byte) : List (Nat × Byte × Byte) := bs.zipIdx.map fun (b, i) => (loc + i, b, 0xFF)

/-- A whole store: the check, then the store buffer; an emulated store completes without writing (R133, R140, R326). -/
def State.doStore (s0 s : State) (c : CoreId) (cap : Cap) (a : Int) (bs : List Byte) (kind : AccKind) (setsFull : Option Bool)
    (tag : Bool) : Act :=
  match s.accessCheck c cap a bs.length kind with
  | .trap code d => .trap s0 code d
  | .miss va w => .miss va w none
  | .stall => .stall
  | .emulated _ => .done (s.advance c)
  | .ok loc repl =>
    s.buffer c (wholeBytes loc bs) (setsFull.map fun f => (loc, f)) [(loc, tag && decide (2 ^ 39 ≤ loc))] repl

/-! ## Fetching -/

/-- The loaded text that a core's firing fetches from (R45). -/
def State.textAt (s : State) (c : CoreId) : Option Text :=
  match s.ropeAt c with
  | some r => s.texts.find? fun t => t.vf == r.vf && t.image == r.image
  | none => none

/-- The bytes at an offset of a text (R113). -/
def Text.word (t : Text) (pc : Nat) : List Byte := (t.bytes.drop pc).take 4

/-- The word a core fetches: outside the text it is 0x0000_0000 (R113). -/
def State.fetch (s : State) (c : CoreId) : InstrWord :=
  match s.textAt c with
  | some t =>
    let bs := t.word (s.core c).regs.pc.toNat
    if bs.length = 4 then .ofNat 32 (leNat bs) else 0
  | none => 0

/-! ## The lane arbiter -/

/-- The lanes that a request for n asks for (R194). -/
def laneWant (n : Nat) : Nat := min 128 (16 * ((n + 15) / 16))

/-- What the instruction that a core runs next does with the cluster's shared lanes. -/
inductive LaneUse where
  | keeps | returns | takes
  deriving DecidableEq, Repr

/-- What a request for n lanes does, of a firing that holds g: it returns shared lanes, takes some, or neither (R194). -/
def laneUse (n g : Nat) : LaneUse :=
  if laneWant n - 16 < g - 16 then .returns else if g - 16 < laneWant n - 16 then .takes else .keeps

/-- What a core's next instruction does with shared lanes: only `vclaim` and `vrelease` change them in their own cycle (R195). -/
def State.nextLaneUse (s : State) (c : CoreId) : LaneUse :=
  let s := s.wakeDelay c
  let g := (s.core c).regs.lanes
  match decodeWord (s.fetch c) with
  | .vclaim _ a => laneUse (s.takeX c a).1.toNat g
  | .vrelease => laneUse 0 g
  | _ => .keeps

/-- The core that the cluster's lane arbiter serves first in a core cycle: its pointer (R195). -/
def lanePointer (cycle : Nat) : Nat := cycle % 8

/-- How many cores the arbiter serves before a core in a core cycle. -/
def laneRank (core cycle : Nat) : Nat := (core + 8 - lanePointer cycle) % 8

/-- Whether every other core of the cluster with a running firing has run the core cycle that a core is in, or is in it with its turn allowed to come later. -/
def State.inStep (s : State) (c : CoreId) (later : CoreId → Bool) : Bool :=
  (List.range 8).all fun n =>
    let o : CoreId := ⟨c.cluster, n⟩
    let k := s.core o
    n == c.core || k.running.isNone || k.park.isSome || decide ((s.core c).cycles.toNat < k.cycles.toNat)
      || (k.cycles == (s.core c).cycles && later o)

/-- Whether a core's turn of its core cycle may come now, for what it does with the shared lanes: all returns of a core cycle come before the
takes of it, and the takes in the arbiter's order (R195). -/
def State.laneTurn (s : State) (c : CoreId) (u : LaneUse) : Bool :=
  match u with
  | .keeps => true
  | .returns => s.inStep c fun _ => true
  | .takes => s.inStep c fun o => match s.nextLaneUse o with
    | .keeps => true
    | .returns => false
    | .takes => decide (laneRank c.core (s.core c).cycles.toNat < laneRank o.core (s.core c).cycles.toNat)

end Sys2Proof.Machine
end

