-- ==== Sys2Proof/Machine/Alu.lean ====
section
/-! DEFINITION. The scalar integer instructions (R117 to R124). -/

namespace Sys2Proof.Machine

/-- The common form of the ALU group (R117, R118): two x sources under w1 and w2, one x result. -/
def alu2 (s : State) (d a b : BitVec 5) (u v : Bool) (f : Word64 → Word64 → Word64) : Out :=
  s.issue s.cur [⟨.x a, u⟩, ⟨.x b, v⟩] [.x d] fun s =>
    let (va, s) := s.takeX s.cur a
    let (vb, s) := s.takeX s.cur b
    .done (s.putXNext s.cur d (f va vb))

/-- The common form with one x source. -/
def alu1 (s : State) (d a : BitVec 5) (u : Bool) (f : Word64 → Word64) : Out :=
  s.issue s.cur [⟨.x a, u⟩] [.x d] fun s =>
    let (va, s) := s.takeX s.cur a
    .done (s.putXNext s.cur d (f va))

/-- 1 or 0 in a register. -/
def flag64 (b : Bool) : Word64 := if b then 1 else 0

/-- Bits [127:64] of the signed product (Table 04-6). -/
def mulHigh (a b : Word64) : Word64 := .ofInt 64 (a.toInt * b.toInt / 2 ^ 64)

/-- Bits [127:64] of the product of natural numbers. -/
def mulHighN (a b : Word64) : Word64 := .ofNat 64 (a.toNat * b.toNat / 2 ^ 64)

/-- Signed quotient, rounded toward zero; Table 04-7's edge cases. -/
def divSigned (a b : Word64) : Word64 := if b = 0 then -1 else .ofInt 64 (a.toInt.tdiv b.toInt)

/-- Natural quotient. -/
def divNatural (a b : Word64) : Word64 := if b = 0 then -1 else .ofNat 64 (a.toNat / b.toNat)

/-- Signed remainder, with the sign of the dividend. -/
def remSigned (a b : Word64) : Word64 := if b = 0 then a else .ofInt 64 (a.toInt.tmod b.toInt)

/-- Natural remainder. -/
def remNatural (a b : Word64) : Word64 := if b = 0 then a else .ofNat 64 (a.toNat % b.toNat)

/-- A rotation to the right. -/
def rotateRight64 (a : Word64) (sh : Nat) : Word64 := if sh = 0 then a else (a >>> sh) ||| (a <<< (64 - sh))

/-- The shift amount in bits [5:0]. -/
def shiftOf (b : Word64) : Nat := b.toNat % 64

/-- The number of leading zero bits among the low `n`. -/
def leadingZeros (a : Word64) : Nat → Nat
  | 0 => 0
  | n + 1 => if a.getLsbD n then 0 else leadingZeros a n + 1

/-- The number of trailing zero bits from bit `64 - n` on. -/
def trailingZeros (a : Word64) : Nat → Nat
  | 0 => 0
  | n + 1 => if a.getLsbD (63 - n) then 0 else trailingZeros a n + 1

/-- The number of one bits. -/
def onesOf (a : Word64) : Nat := ((List.range 64).filter fun i => a.getLsbD i).length

/-- The bytes reversed. -/
def byteSwap (a : Word64) : Word64 := .ofNat 64 (leNat (leBytes 8 a.toNat).reverse)

/-- `bfx`'s field of a (R120): pos in [5:0], width minus one in [13:8], sign extension in [16]. -/
def bitFieldExtract (a ctl : Word64) : Word64 :=
  let w := bitsOf ctl.toNat 8 6 + 1
  let f := bitsOf a.toNat (bitsOf ctl.toNat 0 6) w
  if ctl.getLsbD 16 then sext64 w f else .ofNat 64 f

/-- `bfi`'s insertion of a into the old value of rd (R120): bits beyond bit 63 are dropped. -/
def bitFieldInsert (old a ctl : Word64) : Word64 :=
  let pos := bitsOf ctl.toNat 0 6
  let mask : Word64 := .ofNat 64 ((2 ^ (bitsOf ctl.toNat 8 6 + 1) - 1) * 2 ^ pos)
  (old &&& ~~~mask) ||| ((a <<< pos) &&& mask)

/-- Lesser and greater, signed and natural. -/
def minS (a b : Word64) : Word64 := if a.toInt < b.toInt then a else b
def maxS (a b : Word64) : Word64 := if a.toInt < b.toInt then b else a
def minN (a b : Word64) : Word64 := if a.toNat < b.toNat then a else b
def maxN (a b : Word64) : Word64 := if a.toNat < b.toNat then b else a

/-- `add` (R118). -/
def execAdd (d a b : BitVec 5) (u v : Bool) (s : State) : Out := alu2 s d a b u v fun x y => x + y
/-- `sub` (R118). -/
def execSub (d a b : BitVec 5) (u v : Bool) (s : State) : Out := alu2 s d a b u v fun x y => x - y
/-- `mul` (R118). -/
def execMul (d a b : BitVec 5) (u v : Bool) (s : State) : Out := alu2 s d a b u v fun x y => x * y
/-- `mulh` (R118). -/
def execMulh (d a b : BitVec 5) (u v : Bool) (s : State) : Out := alu2 s d a b u v mulHigh
/-- `mulhn` (R118). -/
def execMulhn (d a b : BitVec 5) (u v : Bool) (s : State) : Out := alu2 s d a b u v mulHighN
/-- `div` (R119). -/
def execDiv (d a b : BitVec 5) (u v : Bool) (s : State) : Out := alu2 s d a b u v divSigned
/-- `divn` (R119). -/
def execDivn (d a b : BitVec 5) (u v : Bool) (s : State) : Out := alu2 s d a b u v divNatural
/-- `rem` (R119). -/
def execRem (d a b : BitVec 5) (u v : Bool) (s : State) : Out := alu2 s d a b u v remSigned
/-- `remn` (R119). -/
def execRemn (d a b : BitVec 5) (u v : Bool) (s : State) : Out := alu2 s d a b u v remNatural
/-- `and` (R118). -/
def execAnd (d a b : BitVec 5) (u v : Bool) (s : State) : Out := alu2 s d a b u v fun x y => x &&& y
/-- `or` (R118). -/
def execOr (d a b : BitVec 5) (u v : Bool) (s : State) : Out := alu2 s d a b u v fun x y => x ||| y
/-- `xor` (R118). -/
def execXor (d a b : BitVec 5) (u v : Bool) (s : State) : Out := alu2 s d a b u v fun x y => x ^^^ y
/-- `andn` (R118). -/
def execAndn (d a b : BitVec 5) (u v : Bool) (s : State) : Out := alu2 s d a b u v fun x y => x &&& ~~~y
/-- `shl` (R118). -/
def execShl (d a b : BitVec 5) (u v : Bool) (s : State) : Out := alu2 s d a b u v fun x y => x <<< shiftOf y
/-- `shr` (R118). -/
def execShr (d a b : BitVec 5) (u v : Bool) (s : State) : Out := alu2 s d a b u v fun x y => x >>> shiftOf y
/-- `sra` (R118). -/
def execSra (d a b : BitVec 5) (u v : Bool) (s : State) : Out := alu2 s d a b u v fun x y => x.sshiftRight (shiftOf y)
/-- `rot` (R118). -/
def execRot (d a b : BitVec 5) (u v : Bool) (s : State) : Out := alu2 s d a b u v fun x y => rotateRight64 x (shiftOf y)
/-- `slt` (R118). -/
def execSlt (d a b : BitVec 5) (u v : Bool) (s : State) : Out := alu2 s d a b u v fun x y => flag64 (decide (x.toInt < y.toInt))
/-- `sltn` (R118). -/
def execSltn (d a b : BitVec 5) (u v : Bool) (s : State) : Out := alu2 s d a b u v fun x y => flag64 (decide (x.toNat < y.toNat))
/-- `min` (R118). -/
def execMin (d a b : BitVec 5) (u v : Bool) (s : State) : Out := alu2 s d a b u v minS
/-- `max` (R118). -/
def execMax (d a b : BitVec 5) (u v : Bool) (s : State) : Out := alu2 s d a b u v maxS
/-- `minn` (R118). -/
def execMinn (d a b : BitVec 5) (u v : Bool) (s : State) : Out := alu2 s d a b u v minN
/-- `maxn` (R118). -/
def execMaxn (d a b : BitVec 5) (u v : Bool) (s : State) : Out := alu2 s d a b u v maxN
/-- `clz` (R118). -/
def execClz (d a : BitVec 5) (u : Bool) (s : State) : Out := alu1 s d a u fun x => .ofNat 64 (leadingZeros x 64)
/-- `ctz` (R118). -/
def execCtz (d a : BitVec 5) (u : Bool) (s : State) : Out := alu1 s d a u fun x => .ofNat 64 (trailingZeros x 64)
/-- `popc` (R118). -/
def execPopc (d a : BitVec 5) (u : Bool) (s : State) : Out := alu1 s d a u fun x => .ofNat 64 (onesOf x)
/-- `bswap` (R118). -/
def execBswap (d a : BitVec 5) (u : Bool) (s : State) : Out := alu1 s d a u byteSwap
/-- `bfx` (R120). -/
def execBfx (d a b : BitVec 5) (u v : Bool) (s : State) : Out := alu2 s d a b u v bitFieldExtract

/-- `bfi` (R120): rd is a source too, and always waits (R51). A port register read through rd gives up its word after rs1 and rs2:
the model's choice, since R53 orders rs1 and rs2 only (log entry 66). -/
def execBfi (d a b : BitVec 5) (u v : Bool) (s : State) : Out :=
  s.issue s.cur [⟨.x a, u⟩, ⟨.x b, v⟩, ⟨.x d, false⟩] [.x d] fun s =>
    let (va, s) := s.takeX s.cur a
    let (vb, s) := s.takeX s.cur b
    let (old, s) := s.takeX s.cur d
    .done (s.putXNext s.cur d (bitFieldInsert old va vb))

/-- `addi` (R121). -/
def execAddi (d a : BitVec 5) (u : Bool) (imm : BitVec 15) (s : State) : Out := alu1 s d a u fun x => x + imm.signExtend 64
/-- `andi` (R121). -/
def execAndi (d a : BitVec 5) (u : Bool) (imm : BitVec 15) (s : State) : Out := alu1 s d a u fun x => x &&& imm.signExtend 64
/-- `ori` (R121). -/
def execOri (d a : BitVec 5) (u : Bool) (imm : BitVec 15) (s : State) : Out := alu1 s d a u fun x => x ||| imm.signExtend 64
/-- `xori` (R121). -/
def execXori (d a : BitVec 5) (u : Bool) (imm : BitVec 15) (s : State) : Out := alu1 s d a u fun x => x ^^^ imm.signExtend 64
/-- `slti` (R122). -/
def execSlti (d a : BitVec 5) (u : Bool) (imm : BitVec 14) (s : State) : Out :=
  alu1 s d a u fun x => flag64 (decide (x.toInt < (imm.signExtend 64).toInt))
/-- `sltni` (R122). -/
def execSltni (d a : BitVec 5) (u : Bool) (imm : BitVec 14) (s : State) : Out :=
  alu1 s d a u fun x => flag64 (decide (x.toNat < (imm.signExtend 64).toNat))
/-- `shli` (R123). -/
def execShli (d a : BitVec 5) (u : Bool) (amt : BitVec 6) (s : State) : Out := alu1 s d a u fun x => x <<< amt.toNat
/-- `shri` (R123). -/
def execShri (d a : BitVec 5) (u : Bool) (amt : BitVec 6) (s : State) : Out := alu1 s d a u fun x => x >>> amt.toNat
/-- `srai` (R123). -/
def execSrai (d a : BitVec 5) (u : Bool) (amt : BitVec 6) (s : State) : Out := alu1 s d a u fun x => x.sshiftRight amt.toNat
/-- `roti` (R123). -/
def execRoti (d a : BitVec 5) (u : Bool) (amt : BitVec 6) (s : State) : Out := alu1 s d a u fun x => rotateRight64 x amt.toNat
/-- `lih` (R124). -/
def execLih (d : BitVec 5) (imm : BitVec 21) (s : State) : Out :=
  s.issue s.cur [] [.x d] fun s => .done (s.putXNext s.cur d (imm.signExtend 64 * 32768))

end Sys2Proof.Machine
end

