-- ==== Sys2Proof/Machine/Capability.lean ====
section
/-! DEFINITION. The capability instructions (R145, R146). -/

namespace Sys2Proof.Machine

/-- The common form of the instructions that read a capability (R145). -/
def capRead (s : State) (d c : BitVec 5) (u : Bool) (f : Cap → Word64) : Out :=
  s.issue s.cur [⟨.c c, u⟩] [.x d] fun s => .done (s.putXNext s.cur d (f ((s.core s.cur).regs.readC c)))

/-- `cbase` (R145). -/
def execCbase (d c : BitVec 5) (u : Bool) (s : State) : Out := capRead s d c u fun k => .ofNat 64 k.base.toNat
/-- `clen` (R145). -/
def execClen (d c : BitVec 5) (u : Bool) (s : State) : Out := capRead s d c u fun k => .ofNat 64 k.len
/-- `ccur` (R145). -/
def execCcur (d c : BitVec 5) (u : Bool) (s : State) : Out := capRead s d c u fun k => .ofNat 64 k.cursor.toNat
/-- `cprm` (R145). -/
def execCprm (d c : BitVec 5) (u : Bool) (s : State) : Out := capRead s d c u fun k => .ofNat 64 (k.perm.toNat + 2 ^ 4 * k.space.toNat)
/-- `ctag` (R145). -/
def execCtag (d c : BitVec 5) (u : Bool) (s : State) : Out := capRead s d c u fun k => if k.tag then 1 else 0

/-- `cmov` (R146). -/
def execCmov (d c : BitVec 5) (u : Bool) (s : State) : Out :=
  s.issue s.cur [⟨.c c, u⟩] [.c d] fun s => .done (s.putCNext s.cur d ((s.core s.cur).regs.readC c))

/-- `cclr` (R146). -/
def execCclr (d c : BitVec 5) (u : Bool) (s : State) : Out :=
  s.issue s.cur [⟨.c c, u⟩] [.c d] fun s => .done (s.putCNext s.cur d { (s.core s.cur).regs.readC c with tag := false })

/-- The common form of the derivations with an x operand (R146). -/
def capDerive (s : State) (d c b : BitVec 5) (u v : Bool) (f : Cap → Word64 → Cap) : Out :=
  s.issue s.cur [⟨.c c, u⟩, ⟨.x b, v⟩] [.c d] fun s =>
    let (t, s) := s.takeX s.cur b
    .done (s.putCNext s.cur d (f ((s.core s.cur).regs.readC c) t))

/-- `cadd` (R146). -/
def execCadd (d c b : BitVec 5) (u v : Bool) (s : State) : Out :=
  capDerive s d c b u v fun k t => { k with cursor := .ofNat 52 (k.cursor.toNat + t.toNat) }
/-- `cset` (R146). -/
def execCset (d c b : BitVec 5) (u v : Bool) (s : State) : Out :=
  capDerive s d c b u v fun k t => { k with cursor := .ofNat 52 (k.base.toNat + t.toNat) }
/-- `cperm` (R146). -/
def execCperm (d c b : BitVec 5) (u v : Bool) (s : State) : Out :=
  capDerive s d c b u v fun k t => { k with perm := k.perm &&& .ofNat 4 t.toNat }

/-- `cbnd` (R146): the rounded length must fit the parent, if that is tagged. DETAIL holds the cursor and the space. -/
def execCbnd (d c b : BitVec 5) (u v : Bool) (s : State) : Out :=
  s.issue s.cur [⟨.c c, u⟩, ⟨.x b, v⟩] [.c d] fun s0 =>
    let (t, s) := s0.takeX s0.cur b
    let k := (s.core s.cur).regs.readC c
    let fails := decide (4095 * 2 ^ 31 < t.toNat)
      || (k.tag && (decide (k.cursor.toNat < k.base.toNat) || decide (k.base.toNat + k.len < k.cursor.toNat + roundLen t.toNat)))
    if fails then .trap s0 .capbounds (accessDetail k.cursor.toNat k.space false)
    else .done (s.putCNext s.cur d { k.withLen t.toNat with base := k.cursor })

end Sys2Proof.Machine
end

