-- ==== Sys2Proof/Machine/Float.lean ====
section
/-! DEFINITION. Number formats: what bits stand for, rounding with its events, the arithmetic of values, and conversion (R171 to R187, R202 to R212). -/

namespace Sys2Proof.Machine

/-- The five events of Table 07-6, by bit number. -/
abbrev Events := BitVec 5

def evNX : Events := 1
def evUF : Events := 2
def evOF : Events := 4
def evDZ : Events := 8
def evNV : Events := 16

/-- An event if a condition holds. -/
def evIf (b : Bool) (e : Events) : Events := if b then e else 0

/-- A binary floating-point format (Table 07-2): widths of the exponent and the mantissa, whether it has infinities and NaNs. -/
structure Fmt where
  exp : Nat
  man : Nat
  inf : Bool
  nan : Bool
  deriving DecidableEq, Repr

def fmtF64 : Fmt := ⟨11, 52, true, true⟩
def fmtF32 : Fmt := ⟨8, 23, true, true⟩
def fmtBf16 : Fmt := ⟨8, 7, true, true⟩
def fmtF16 : Fmt := ⟨5, 10, true, true⟩
def fmtE5m2 : Fmt := ⟨5, 2, true, true⟩
def fmtE4m3 : Fmt := ⟨4, 3, false, true⟩
def fmtE3m2 : Fmt := ⟨3, 2, false, false⟩
def fmtE2m1 : Fmt := ⟨2, 1, false, false⟩

/-- The width of a format. -/
def Fmt.width (f : Fmt) : Nat := 1 + f.exp + f.man

/-- The bias of a format. -/
def Fmt.bias (f : Fmt) : Nat := 2 ^ (f.exp - 1) - 1

/-- The exponent of the last place of the subnormals: 1 − Bias − M. -/
def Fmt.minExp (f : Fmt) : Int := 1 - (f.bias : Int) - f.man

/-- The largest finite value, as a mantissa and the exponent of its last place. -/
def Fmt.maxMan (f : Fmt) : Nat := if f.nan && !f.inf then 2 ^ (f.man + 1) - 2 else 2 ^ (f.man + 1) - 1
def Fmt.maxExp (f : Fmt) : Int := (if f.inf then (2 ^ f.exp - 2 : Nat) else 2 ^ f.exp - 1 : Nat) - (f.bias : Int) - f.man

/-- The sign bit of a format, set if the value is negative. -/
def Fmt.sign (f : Fmt) (neg : Bool) : Nat := if neg then 2 ^ (f.exp + f.man) else 0

/-- The bits of an infinity. -/
def Fmt.infBits (f : Fmt) (neg : Bool) : Nat := (2 ^ f.exp - 1) * 2 ^ f.man + f.sign neg

/-- The bits of the largest finite value (Table 07-2). -/
def Fmt.maxBits (f : Fmt) (neg : Bool) : Nat :=
  ((f.maxExp - f.minExp).toNat) * 2 ^ f.man + f.maxMan + f.sign neg

/-- The canonical quiet NaN (Table 07-2); +0 in the formats without a NaN (Table 07-7). -/
def Fmt.nanBits (f : Fmt) : Nat :=
  if f.inf then (2 ^ f.exp - 1) * 2 ^ f.man + 2 ^ (f.man - 1)
  else if f.nan then 2 ^ (f.exp + f.man) - 1 else 0

/-- A value: a NaN, signalling or quiet, an infinity, or (−1)^neg × m × 2^e, exactly. -/
inductive FVal where
  | nan (signalling : Bool)
  | inf (neg : Bool)
  | fin (neg : Bool) (m : Nat) (e : Int)
  deriving DecidableEq, Repr

/-- `FPValue` (R173), with R174 for which NaN is signalling. -/
def Fmt.value (f : Fmt) (bits : Nat) : FVal :=
  let neg := bits.testBit (f.exp + f.man)
  let e := bits / 2 ^ f.man % 2 ^ f.exp
  let m := bits % 2 ^ f.man
  if f.inf && e == 2 ^ f.exp - 1 then
    (if m = 0 then .inf neg else .nan (decide (2 < f.man) && !m.testBit (f.man - 1)))
  else if f.nan && !f.inf && e == 2 ^ f.exp - 1 && m == 2 ^ f.man - 1 then .nan false
  else if e = 0 then .fin neg m f.minExp
  else .fin neg (2 ^ f.man + m) (e - (f.bias : Int) - f.man)

/-- Whether a value is a NaN. -/
def FVal.isNan : FVal → Bool
  | .nan _ => true
  | _ => false

/-- Whether a value is a signalling NaN. -/
def FVal.isSig : FVal → Bool
  | .nan s => s
  | _ => false

/-- The sign of a value. -/
def FVal.neg : FVal → Bool
  | .nan _ => false
  | .inf s => s
  | .fin s _ _ => s

/-- The value with its sign inverted, as the FMA family negates (R207). -/
def FVal.flip : FVal → FVal
  | .nan s => .nan s
  | .inf s => .inf (!s)
  | .fin s m e => .fin (!s) m e

/-- The invalid event of a signalling NaN among two operands (R175). -/
def sigEvent (a b : FVal) : Events := evIf (a.isSig || b.isSig) evNV

/-- The rounding control of an instruction (Table 07-4). -/
structure Rnd where
  rm : Nat
  sat8 : Bool
  deriving DecidableEq, Repr

/-- Round to nearest, ties to even, as the array, the routers and the atomics round (R181). -/
def Rnd.nearest : Rnd := ⟨0, false⟩

/-- An exact result before rounding: its value, whether the exact magnitude lies above the value given by less than one unit of
its last place, and the events raised so far. -/
structure Exact where
  val : FVal
  more : Bool
  ev : Events

/-- Rounds m × 2^e, with `more`, to a multiple of 2^t: the multiple, and whether it is inexact. -/
def roundMul (rm : Nat) (neg : Bool) (m : Nat) (e : Int) (more : Bool) (t : Int) : Nat × Bool :=
  if t ≤ e then
    let q := m * 2 ^ (e - t).toNat
    (if more && ((rm == 2 && neg) || (rm == 3 && !neg)) then q + 1 else q, more)
  else
    let n := (t - e).toNat
    let q := m / 2 ^ n
    let r := m % 2 ^ n
    let half := 2 ^ (n - 1)
    let inexact := decide (r ≠ 0) || more
    let above := decide (half < r) || (r == half && more)
    let tie := r == half && !more
    let up := match rm with
      | 0 => above || (tie && q % 2 == 1)
      | 1 => false
      | 2 => neg && inexact
      | 3 => !neg && inexact
      | _ => above || tie
    (if up then q + 1 else q, inexact)

/-- The result of an overflow (Table 07-5). -/
def Fmt.overflow (f : Fmt) (c : Rnd) (neg : Bool) : Nat :=
  let away := match c.rm with
    | 0 => true
    | 1 => false
    | 2 => neg
    | 3 => !neg
    | _ => true
  if f.width = 8 && c.sat8 then f.maxBits neg
  else if !away || !f.nan then f.maxBits neg
  else if f.inf then f.infBits neg else f.nanBits

/-- `Round` (R182, R183) of an exact value that is no NaN and no infinity. -/
def Fmt.roundFin (f : Fmt) (c : Rnd) (neg : Bool) (m : Nat) (e : Int) (more : Bool) : Nat × Events :=
  if m = 0 && !more then (f.sign neg, 0)
  else
    let t := max (e + (m.log2 : Int) - f.man) f.minExp
    let (q, inexact) := roundMul c.rm neg m e more t
    if f.maxExp < t || (f.maxExp == t && decide (f.maxMan < q)) then (f.overflow c neg, evOF ||| evNX)
    else
      let tiny := t == f.minExp && decide (q < 2 ^ f.man)
      ((t - f.minExp).toNat * 2 ^ f.man + q + f.sign neg, evIf inexact evNX ||| evIf (inexact && tiny) evUF)

/-- Rounds an exact result into a format that has infinities, with all its events (R175, R182). -/
def Fmt.round (f : Fmt) (c : Rnd) (x : Exact) : Nat × Events :=
  match x.val with
  | .nan _ => (f.nanBits, x.ev)
  | .inf neg => (f.infBits neg, x.ev)
  | .fin neg m e =>
    let (b, ev) := f.roundFin c neg m e x.more
    (b, x.ev ||| ev)

/-! ## Arithmetic on values -/

/-- An integer times a power of two, as a value; zero takes the sign given. -/
def FVal.ofInt (n : Int) (e : Int) (zeroNeg : Bool) : FVal :=
  if n = 0 then .fin zeroNeg 0 e else .fin (decide (n < 0)) n.natAbs e

/-- The signed mantissa of a finite value at a lower exponent. -/
def signedAt (neg : Bool) (m : Nat) (e lo : Int) : Int :=
  let n : Int := (m * 2 ^ (e - lo).toNat : Nat)
  if neg then -n else n

/-- a + b, exactly; an exact zero takes its IEEE 754 sign (R182, R203). -/
def addVal (rm : Nat) (a b : FVal) : Exact :=
  match a, b with
  | .nan _, _ | _, .nan _ => ⟨.nan false, false, sigEvent a b⟩
  | .inf s, .inf t => if s = t then ⟨.inf s, false, 0⟩ else ⟨.nan false, false, evNV⟩
  | .inf s, _ => ⟨.inf s, false, 0⟩
  | _, .inf t => ⟨.inf t, false, 0⟩
  | .fin s m e, .fin t n g =>
    let lo := min e g
    ⟨.ofInt (signedAt s m e lo + signedAt t n g lo) lo (if s = t then s else rm == 2), false, 0⟩

/-- a × b, exactly (R203). -/
def mulVal (a b : FVal) : Exact :=
  match a, b with
  | .nan _, _ | _, .nan _ => ⟨.nan false, false, sigEvent a b⟩
  | .inf s, .inf t => ⟨.inf (s != t), false, 0⟩
  | .inf s, .fin t n _ => if n = 0 then ⟨.nan false, false, evNV⟩ else ⟨.inf (s != t), false, 0⟩
  | .fin s m _, .inf t => if m = 0 then ⟨.nan false, false, evNV⟩ else ⟨.inf (s != t), false, 0⟩
  | .fin s m e, .fin t n g => ⟨.fin (s != t) (m * n) (e + g), false, 0⟩

/-- a / b, to 128 bits and more below the dividend's last place (R203). -/
def divVal (a b : FVal) : Exact :=
  match a, b with
  | .nan _, _ | _, .nan _ => ⟨.nan false, false, sigEvent a b⟩
  | .inf _, .inf _ => ⟨.nan false, false, evNV⟩
  | .inf s, .fin t _ _ => ⟨.inf (s != t), false, 0⟩
  | .fin s _ _, .inf t => ⟨.fin (s != t) 0 0, false, 0⟩
  | .fin s m e, .fin t n g =>
    if n = 0 then (if m = 0 then ⟨.nan false, false, evNV⟩ else ⟨.inf (s != t), false, evDZ⟩)
    else ⟨.fin (s != t) (m * 2 ^ 128 / n) (e - g - 128), decide (m * 2 ^ 128 % n ≠ 0), 0⟩

/-- The whole square root of a number below 4^bits. -/
def isqrt (n : Nat) : Nat → Nat → Nat
  | 0, r => r
  | b + 1, r => if (r + 2 ^ b) * (r + 2 ^ b) ≤ n then isqrt n b (r + 2 ^ b) else isqrt n b r

/-- √a (R203). -/
def sqrtVal (a : FVal) : Exact :=
  match a with
  | .nan s => ⟨.nan false, false, evIf s evNV⟩
  | .inf s => if s then ⟨.nan false, false, evNV⟩ else ⟨.inf false, false, 0⟩
  | .fin s m e =>
    if m = 0 then ⟨.fin s 0 e, false, 0⟩
    else if s then ⟨.nan false, false, evNV⟩
    else
      let n := if e % 2 = 0 then m * 2 ^ 128 else m * 2 ^ 129
      let r := isqrt n 96 0
      ⟨.fin false r ((if e % 2 = 0 then e else e - 1) / 2 - 64), decide (r * r ≠ n), 0⟩

/-- a × b + c with the signs of the FMA family, exactly (R207). -/
def fmaVal (rm : Nat) (negP negC : Bool) (a b c : FVal) : Exact :=
  let p := mulVal a b
  let r := addVal rm (if negP then p.val.flip else p.val) (if negC then c.flip else c)
  { r with ev := p.ev ||| r.ev }

/-- Whether a value is less than another; a NaN is not, and the zeros are equal. -/
def FVal.lt (a b : FVal) : Bool :=
  match a, b with
  | .nan _, _ | _, .nan _ => false
  | .inf s, .inf t => s && !t
  | .inf s, .fin .. => s
  | .fin .., .inf t => !t
  | .fin s m e, .fin t n g => decide (signedAt s m e (min e g) < signedAt t n g (min e g))

/-- Whether two values are equal; a NaN is not, and the zeros are. -/
def FVal.eqv (a b : FVal) : Bool := !a.isNan && !b.isNan && !a.lt b && !b.lt a

/-- The four minimum and maximum operations (R204): on bits, so that a number is returned as it is. -/
def Fmt.minMax (f : Fmt) (greater number : Bool) (x y : Nat) : Nat × Events :=
  let a := f.value x
  let b := f.value y
  if a.isSig || b.isSig then (f.nanBits, evNV)
  else if a.isNan || b.isNan then
    (if !number || (a.isNan && b.isNan) then (f.nanBits, 0) else (if a.isNan then y else x, 0))
  else
    let less := a.lt b || (!b.lt a && a.neg && !b.neg)
    (if less != greater then x else y, 0)

/-- `feq` (R205). -/
def cmpEq (a b : FVal) : Bool × Events := (a.eqv b, sigEvent a b)

/-- `flt` and `fle` (R205). -/
def cmpLt (a b : FVal) : Bool × Events := (a.lt b, evIf (a.isNan || b.isNan) evNV)
def cmpLe (a b : FVal) : Bool × Events := (a.lt b || a.eqv b, evIf (a.isNan || b.isNan) evNV)

/-- The one-hot class of a value in a format (R205). -/
def Fmt.classOf (f : Fmt) (a : FVal) : Nat :=
  match a with
  | .nan s => if s then 2 ^ 8 else 2 ^ 9
  | .inf s => if s then 2 ^ 0 else 2 ^ 7
  | .fin s m _ =>
    if m = 0 then (if s then 2 ^ 3 else 2 ^ 4)
    else if m < 2 ^ f.man then (if s then 2 ^ 2 else 2 ^ 5)
    else (if s then 2 ^ 1 else 2 ^ 6)

/-! ## Boxing (R176) -/

/-- Reads an f register in a format narrower than 64 bits, or of 64 bits: a register that is not boxed reads as the canonical NaN. -/
def unboxed (width nan : Nat) (hasNan : Bool) (w : Word64) : Nat :=
  if width = 64 then w.toNat
  else if w.toNat / 2 ^ width = 2 ^ (64 - width) - 1 || !hasNan then w.toNat % 2 ^ width else nan

/-- Writes a narrow value under ones. -/
def boxedTo (width bits : Nat) : Word64 := .ofNat 64 (bits + (2 ^ 64 - 2 ^ width))

/-- Reads an f register in a format. -/
def Fmt.unbox (f : Fmt) (w : Word64) : Nat := unboxed f.width f.nanBits f.nan w

/-- Writes a result of a format to an f register. -/
def Fmt.box (f : Fmt) (bits : Nat) : Word64 := boxedTo f.width bits

/-! ## The special functions (R210) -/

/-- 1 / √a, to about 100 bits. -/
def rsqVal (a : FVal) : Exact :=
  match a with
  | .nan s => ⟨.nan false, false, evIf s evNV⟩
  | .inf s => if s then ⟨.nan false, false, evNV⟩ else ⟨.fin false 0 0, false, 0⟩
  | .fin s m e =>
    if m = 0 then ⟨.inf s, false, evDZ⟩
    else if s then ⟨.nan false, false, evNV⟩
    else
      let m := if e % 2 = 0 then m else 2 * m
      let e := if e % 2 = 0 then e else e - 1
      let r := isqrt (2 ^ 256 / m) 129 0
      ⟨.fin false r (-e / 2 - 128), decide (r * r * m ≠ 2 ^ 256), 0⟩

/-- The terms of the series of artanh from the term of index k on: z^k / k + z^(k+2) / (k+2) + …, in units of 2^−384; `p` is z^k, `zz` is z². -/
def artanhTerms (zz : Nat) : Nat → Nat → Nat → Nat
  | 0, _, _ => 0
  | fuel + 1, k, p => p / k + artanhTerms zz fuel (k + 2) (p * zz / 2 ^ 384)

/-- ln y for y = n / 2^k from 1 to 2, in units of 2^−384: 2 artanh((y − 1)/(y + 1)). -/
def lnFix (n k : Nat) : Nat :=
  let z := (n - 2 ^ k) * 2 ^ 384 / (n + 2 ^ k)
  2 * artanhTerms (z * z / 2 ^ 384) 124 1 z

/-- ln 2, in units of 2^−384. -/
def ln2Fix : Nat := lnFix 2 0

/-- The terms of the exponential series from the term of index k on, in units of 2^−384; `p` is the term before. -/
def expTerms (x : Nat) : Nat → Nat → Nat → Nat
  | 0, _, _ => 0
  | fuel + 1, k, p =>
    let q := p * x / 2 ^ 384 / k
    q + expTerms x fuel (k + 1) q

/-- 2^x for a fraction x in units of 2^−384, in those units. -/
def exp2Fix (x : Nat) : Nat := 2 ^ 384 + expTerms (x * ln2Fix / 2 ^ 384) 90 1 (2 ^ 384)

/-- 2^a for a finite a: exact for an integer; else its first 160 bits, of which none can be wrong unless more than 200 bits
after them are alike, and that something follows. -/
def exp2Fin (s : Bool) (m : Nat) (e : Int) : Exact :=
  if m = 0 then ⟨.fin false 1 0, false, 0⟩
  else if 13 < e + (m.log2 : Int) then ⟨.fin false 1 (if s then -20000 else 20000), true, 0⟩
  else if e + (m.log2 : Int) < -180 then
    (if s then ⟨.fin false (2 ^ 161 - 1) (-161), true, 0⟩ else ⟨.fin false (2 ^ 160) (-160), true, 0⟩)
  else
    let v := signedAt s m e (min e 0)
    let one : Int := (2 ^ (-(min e 0)).toNat : Nat)
    let n := v / one
    let x := (v - n * one).toNat
    if x = 0 then ⟨.fin false 1 n, false, 0⟩
    else ⟨.fin false (exp2Fix (x * 2 ^ 384 / one.toNat) / 2 ^ 224) (n - 160), true, 0⟩

/-- 2^a (R210). -/
def exp2Val (a : FVal) : Exact :=
  match a with
  | .nan s => ⟨.nan false, false, evIf s evNV⟩
  | .inf s => if s then ⟨.fin false 0 0, false, 0⟩ else ⟨.inf false, false, 0⟩
  | .fin s m e => exp2Fin s m e

/-- log₂ a (R210): exact for a power of two; else in units of 2^−160, as for `exp2Fin`. -/
def log2Val (a : FVal) : Exact :=
  match a with
  | .nan s => ⟨.nan false, false, evIf s evNV⟩
  | .inf s => if s then ⟨.nan false, false, evNV⟩ else ⟨.inf false, false, 0⟩
  | .fin s m e =>
    if m = 0 then ⟨.inf true, false, evDZ⟩
    else if s then ⟨.nan false, false, evNV⟩
    else
      let k := m.log2
      let n := e + (k : Int)
      if m = 2 ^ k then ⟨.ofInt n 0 false, false, 0⟩
      else
        let v : Int := n * (2 ^ 384 : Nat) + (lnFix m k * 2 ^ 384 / ln2Fix : Nat)
        ⟨.fin (decide (v < 0)) (v.natAbs / 2 ^ 224) (-160), true, 0⟩

/-! ## Conversion (R185 to R187) -/

/-- What a format code of R71 names. -/
inductive Kind where
  | float (f : Fmt)
  | int (signed : Bool) (width : Nat)
  | e8m0
  deriving DecidableEq, Repr

/-- The formats of Table 07-1 by code; code 15 names none. -/
def kindOfCode (p : BitVec 4) : Kind :=
  match p.toNat with
  | 0 => .float fmtF64 | 1 => .float fmtF32 | 2 => .float fmtF16 | 3 => .float fmtBf16
  | 4 => .float fmtE4m3 | 5 => .float fmtE5m2 | 6 => .float fmtE3m2 | 7 => .float fmtE2m1
  | 8 => .int true 64 | 9 => .int true 32 | 10 => .int true 8 | 11 => .int true 4
  | 12 => .int false 64 | 13 => .int false 32
  | _ => .e8m0

/-- The width of a format. -/
def Kind.width : Kind → Nat
  | .float f => f.width
  | .int _ w => w
  | .e8m0 => 8

/-- The value of a source of a conversion, from its bits (R177, R178, R185). The integer 0 stands as +0, so that a negative scale makes it -0 in a floating-point format: the model's
choice, since the spec gives the integer no sign (log entry 91). -/
def Kind.value (k : Kind) (bits : Nat) : FVal :=
  match k with
  | .float f => f.value bits
  | .int signed w =>
    let n := bits % 2 ^ w
    .ofInt (if signed && n.testBit (w - 1) then (n : Int) - (2 ^ w : Nat) else n) 0 false
  | .e8m0 => if bits % 256 = 255 then .nan false else .fin false 1 ((bits % 256 : Nat) - 127)

/-- The result and the event of a NaN (Table 07-7). -/
def Kind.nanResult : Kind → Nat × Events
  | .float f => (f.nanBits, evIf (!f.nan) evNV)
  | .int _ _ => (0, evNV)
  | .e8m0 => (255, 0)

/-- The least and the greatest integer of a format (R178). -/
def intMin (signed : Bool) (w : Nat) : Int := if signed then -(2 ^ (w - 1) : Nat) else 0
def intMax (signed : Bool) (w : Nat) : Int := if signed then (2 ^ (w - 1) - 1 : Nat) else (2 ^ w - 1 : Nat)

/-- An integer as bits of a width. -/
def intBits (n : Int) (w : Nat) : Nat := (n % (2 ^ w : Nat)).toNat

/-- The result and the event of an infinity (Table 07-7). -/
def Kind.infResult (k : Kind) (c : Rnd) (neg : Bool) : Nat × Events :=
  match k with
  | .float f =>
    if f.inf then (f.infBits neg, 0)
    else if f.nan then (if c.sat8 then f.maxBits neg else f.nanBits, evNV)
    else (f.maxBits neg, evNV)
  | .int signed w => (intBits (if neg then intMin signed w else intMax signed w) w, evNV)
  | .e8m0 => (255, evNV)

/-- `ToInteger` (R186). -/
def toInteger (c : Rnd) (signed : Bool) (w : Nat) (neg : Bool) (m : Nat) (e : Int) : Nat × Events :=
  let (q, inexact) := roundMul c.rm neg m e false 0
  let n : Int := if neg then -(q : Int) else q
  if n < intMin signed w then (intBits (intMin signed w) w, evNV)
  else if intMax signed w < n then (intBits (intMax signed w) w, evNV)
  else (intBits n w, evIf inexact evNX)

/-- `ToE8M0` (R187). -/
def toE8m0 (neg : Bool) (m : Nat) (e : Int) : Nat × Events :=
  if neg || m = 0 then (255, evNV)
  else
    let x := e + (m.log2 : Int) + 127
    if x < 0 then (0, evUF ||| evNX)
    else if 254 < x then (254, evOF ||| evNX)
    else (x.toNat, evIf (m != 2 ^ m.log2) evNX)

/-- `Convert` (R185), from the value of the source and the value of the scale. -/
def convert (c : Rnd) (x scale : FVal) (dst : Kind) : Nat × Events :=
  let v := mulVal x scale
  match v.val with
  | .nan _ => let (b, ev) := dst.nanResult; (b, v.ev ||| ev)
  | .inf neg => dst.infResult c neg
  | .fin neg m e =>
    match dst with
    | .float f => f.roundFin c neg m e false
    | .int signed w => toInteger c signed w neg m e
    | .e8m0 => toE8m0 neg m e

/-- 1.0, the scale of a plain conversion. -/
def oneVal : FVal := .fin false 1 0

end Sys2Proof.Machine
end

