-- ==== Sys2Proof/Machine/Flags.lean ====
section
/-! DEFINITION. Floating-point events: FPFLAGS, FPENABLE, the FPX trap, and how an instruction that can raise an event completes (R199 to R201). -/

namespace Sys2Proof.Machine

/-- The rounding control that a firing has (R181). -/
def Regs.rnd (r : Regs) : Rnd := ⟨r.rm.toNat, r.sat8⟩

/-- DEST and DFILE of the FPX detail word (Table 08-4). -/
def FpDefault.place : FpDefault → Nat × Nat
  | .none => (0, 0)
  | .f n _ => (n.toNat, 0)
  | .x n _ => (n.toNat, 1)
  | .v n _ => (n.toNat, 2)
  | .m n _ => (n.toNat, 3)

/-- The FPX detail word (Table 08-4). -/
def fpxDetail (raised : Events) (d : FpDefault) (first : Nat) : Word64 :=
  .ofNat 64 (raised.toNat + 2 ^ 8 * d.place.1 + 2 ^ 13 * d.place.2 + 2 ^ 16 * first)

/-- Writes a result where it belongs. -/
def State.writeResult (s : State) (c : CoreId) (d : FpDefault) (whole : Bool) : State :=
  match d with
  | .none => s
  | .x n v => s.putX c n v
  | .f n v => s.modRegs c fun r => r.putF n v
  | .v n b => s.modRegs c fun r => r.putV n b whole
  | .m n b => s.modRegs c fun r => r.putM n b whole

/-- Completes an instruction that raised events (R199, R200): all of them are set in FPFLAGS; an enabled one traps FPX, and then nothing is
written, and the result stands ready for a RESUME (R201). `first` is the lowest element that raised an enabled event. -/
def State.finishFp (s : State) (c : CoreId) (d : FpDefault) (ev : Events) (first : Nat) (whole : Bool) : Act :=
  let enable := (s.core c).regs.enable
  let s := s.modRegs c fun r => { r with flags := r.flags ||| ev }
  if ev &&& enable = 0 then .done ((s.writeResult c d whole).advance c)
  else .trap (s.modCore c fun k => { k with fpDefault := d }) .fpx (fpxDetail ev d first)

/-- The lowest element that raised an enabled event. -/
def firstRaised (enable : Events) (evs : List (Nat × Events)) : Nat :=
  match evs.find? fun e => e.2 &&& enable != 0 with
  | some e => e.1
  | none => 0

end Sys2Proof.Machine
end

