-- ==== Sys2Proof/Machine/ScalarFloat.lean ====
section
/-! DEFINITION. The scalar floating-point instructions and the FMA family (R202 to R207). -/

namespace Sys2Proof.Machine

/-- The format of a scalar instruction's fn[1:0] (R67). -/
def scalarFmt (t : BitVec 2) : Fmt :=
  match t.toNat with
  | 0 => fmtF64
  | 1 => fmtF32
  | 2 => fmtF16
  | _ => fmtBf16

/-- An f register read in a format (R176). -/
def Regs.bitsF (r : Regs) (f : Fmt) (n : BitVec 5) : Nat := f.unbox (r.readF n)

/-- The common form with two f sources and an f result, on the bits of the operands (R202). -/
def fp2 (s : State) (d a b : BitVec 5) (u v : Bool) (t : BitVec 2) (op : Fmt → Rnd → Nat → Nat → Nat × Events) : Out :=
  s.issue s.cur [⟨.f a, u⟩, ⟨.f b, v⟩] [.f d] fun s =>
    let r := (s.core s.cur).regs
    let f := scalarFmt t
    let (x, ev) := op f r.rnd (r.bitsF f a) (r.bitsF f b)
    s.finishFp s.cur (.f d (f.box x)) ev 0 true

/-- The common form with one f source and an f result. -/
def fp1 (s : State) (d a : BitVec 5) (u : Bool) (t : BitVec 2) (op : Fmt → Rnd → Nat → Nat × Events) : Out :=
  s.issue s.cur [⟨.f a, u⟩] [.f d] fun s =>
    let r := (s.core s.cur).regs
    let f := scalarFmt t
    let (x, ev) := op f r.rnd (r.bitsF f a)
    s.finishFp s.cur (.f d (f.box x)) ev 0 true

/-- The common form of the compares (R205): two f sources and an x result. -/
def fpCompare (s : State) (d a b : BitVec 5) (u v : Bool) (t : BitVec 2) (op : FVal → FVal → Bool × Events) : Out :=
  s.issue s.cur [⟨.f a, u⟩, ⟨.f b, v⟩] [.x d] fun s =>
    let r := (s.core s.cur).regs
    let f := scalarFmt t
    let (x, ev) := op (f.value (r.bitsF f a)) (f.value (r.bitsF f b))
    s.finishFp s.cur (.x d (if x then 1 else 0)) ev 0 true

/-- The arithmetic of Table 08-5 on bits. -/
def addBits (f : Fmt) (c : Rnd) (x y : Nat) : Nat × Events := f.round c (addVal c.rm (f.value x) (f.value y))
def subBits (f : Fmt) (c : Rnd) (x y : Nat) : Nat × Events := f.round c (addVal c.rm (f.value x) (f.value y).flip)
def mulBits (f : Fmt) (c : Rnd) (x y : Nat) : Nat × Events := f.round c (mulVal (f.value x) (f.value y))
def divBits (f : Fmt) (c : Rnd) (x y : Nat) : Nat × Events := f.round c (divVal (f.value x) (f.value y))
def sqrtBits (f : Fmt) (c : Rnd) (x : Nat) : Nat × Events := f.round c (sqrtVal (f.value x))

/-- The sign bit cleared, and inverted; no event (R175). -/
def absBits (f : Fmt) (_ : Rnd) (x : Nat) : Nat × Events := (x % 2 ^ (f.exp + f.man), 0)
def negBits (f : Fmt) (_ : Rnd) (x : Nat) : Nat × Events :=
  (x % 2 ^ (f.exp + f.man) + f.sign (!x.testBit (f.exp + f.man)), 0)

/-- p + c with the signs of a form of the FMA family (R207). -/
def fmaBits (negP negC : Bool) (f : Fmt) (c : Rnd) (x y z : Nat) : Nat × Events :=
  f.round c (fmaVal c.rm negP negC (f.value x) (f.value y) (f.value z))

/-- `fadd` (R203). -/
def execFadd (d a b : BitVec 5) (u v : Bool) (t : BitVec 2) (s : State) : Out := fp2 s d a b u v t addBits
/-- `fsub` (R203). -/
def execFsub (d a b : BitVec 5) (u v : Bool) (t : BitVec 2) (s : State) : Out := fp2 s d a b u v t subBits
/-- `fmul` (R203). -/
def execFmul (d a b : BitVec 5) (u v : Bool) (t : BitVec 2) (s : State) : Out := fp2 s d a b u v t mulBits
/-- `fdiv` (R203). -/
def execFdiv (d a b : BitVec 5) (u v : Bool) (t : BitVec 2) (s : State) : Out := fp2 s d a b u v t divBits
/-- `fsqrt` (R203). -/
def execFsqrt (d a : BitVec 5) (u : Bool) (t : BitVec 2) (s : State) : Out := fp1 s d a u t sqrtBits
/-- `fmin` (R204). -/
def execFmin (d a b : BitVec 5) (u v : Bool) (t : BitVec 2) (s : State) : Out :=
  fp2 s d a b u v t fun f _ x y => f.minMax false false x y
/-- `fmax` (R204). -/
def execFmax (d a b : BitVec 5) (u v : Bool) (t : BitVec 2) (s : State) : Out :=
  fp2 s d a b u v t fun f _ x y => f.minMax true false x y
/-- `fminn` (R204). -/
def execFminn (d a b : BitVec 5) (u v : Bool) (t : BitVec 2) (s : State) : Out :=
  fp2 s d a b u v t fun f _ x y => f.minMax false true x y
/-- `fmaxn` (R204). -/
def execFmaxn (d a b : BitVec 5) (u v : Bool) (t : BitVec 2) (s : State) : Out :=
  fp2 s d a b u v t fun f _ x y => f.minMax true true x y
/-- `fabs` (R203). -/
def execFabs (d a : BitVec 5) (u : Bool) (t : BitVec 2) (s : State) : Out := fp1 s d a u t absBits
/-- `fneg` (R203). -/
def execFneg (d a : BitVec 5) (u : Bool) (t : BitVec 2) (s : State) : Out := fp1 s d a u t negBits
/-- `feq` (R205). -/
def execFeq (d a b : BitVec 5) (u v : Bool) (t : BitVec 2) (s : State) : Out := fpCompare s d a b u v t cmpEq
/-- `flt` (R205). -/
def execFlt (d a b : BitVec 5) (u v : Bool) (t : BitVec 2) (s : State) : Out := fpCompare s d a b u v t cmpLt
/-- `fle` (R205). -/
def execFle (d a b : BitVec 5) (u v : Bool) (t : BitVec 2) (s : State) : Out := fpCompare s d a b u v t cmpLe
/-- `fclass` (R205). -/
def execFclass (d a : BitVec 5) (u : Bool) (t : BitVec 2) (s : State) : Out :=
  s.issue s.cur [⟨.f a, u⟩] [.x d] fun s =>
    let f := scalarFmt t
    .done (s.putXNext s.cur d (.ofNat 64 (f.classOf (f.value ((s.core s.cur).regs.bitsF f a)))))

/-- `fmvx` (R206). -/
def execFmvx (d a : BitVec 5) (u : Bool) (s : State) : Out :=
  s.issue s.cur [⟨.f a, u⟩] [.x d] fun s => .done (s.putXNext s.cur d ((s.core s.cur).regs.readF a))

/-- `fmvf` (R206). -/
def execFmvf (d a : BitVec 5) (u : Bool) (s : State) : Out :=
  s.issue s.cur [⟨.x a, u⟩] [.f d] fun s =>
    let (x, s) := s.takeX s.cur a
    .done (s.putFNext s.cur d x)

/-- The common form of the FMA family: three f sources that always wait (R51, R207). -/
def fma (s : State) (d a b c : BitVec 5) (t : BitVec 2) (negP negC : Bool) : Out :=
  s.issue s.cur [⟨.f a, false⟩, ⟨.f b, false⟩, ⟨.f c, false⟩] [.f d] fun s =>
    let r := (s.core s.cur).regs
    let f := scalarFmt t
    let (x, ev) := fmaBits negP negC f r.rnd (r.bitsF f a) (r.bitsF f b) (r.bitsF f c)
    s.finishFp s.cur (.f d (f.box x)) ev 0 true

/-- `fmadd` (R207). -/
def execFmadd (d a b c : BitVec 5) (t : BitVec 2) (s : State) : Out := fma s d a b c t false false
/-- `fmsub` (R207). -/
def execFmsub (d a b c : BitVec 5) (t : BitVec 2) (s : State) : Out := fma s d a b c t false true
/-- `fnmsub` (R207). -/
def execFnmsub (d a b c : BitVec 5) (t : BitVec 2) (s : State) : Out := fma s d a b c t true false
/-- `fnmadd` (R207). -/
def execFnmadd (d a b c : BitVec 5) (t : BitVec 2) (s : State) : Out := fma s d a b c t true true

end Sys2Proof.Machine
end

