-- ==== Sys2Proof/Machine/Vector.lean ====
section
/-! DEFINITION. The lane pool, vector lengths and masks, and the vector instructions on registers (R192 to R198, R208 to R215). -/

namespace Sys2Proof.Machine

/-! ## Elements (R196) -/

/-- An element of a vector register: 64 bits wide, or 32. -/
def element (b : BitVec 4096) (wide : Bool) (i : Nat) : Nat :=
  if wide then bitsOf b.toNat (64 * i) 64 else bitsOf b.toNat (32 * i) 32

/-- Writes an element; what lies above a narrow value in its position is zero. -/
def putElement (b : BitVec 4096) (wide : Bool) (i v : Nat) : BitVec 4096 :=
  let w := if wide then 64 else 32
  let mask : BitVec 4096 := .ofNat 4096 ((2 ^ w - 1) * 2 ^ (w * i))
  (b &&& ~~~mask) ||| .ofNat 4096 (v % 2 ^ w * 2 ^ (w * i))

/-- The element count of an instruction (R196). -/
def Regs.ec (r : Regs) (wide : Bool) : Nat := if wide then r.vl / 2 else r.vl

/-- Whether an element below the count is active: mask field 0 makes all of them so (R197). -/
def Regs.isActive (r : Regs) (m : BitVec 3) (i : Nat) : Bool := m == 0 || (r.readM m).getLsbD i

/-- The mask register that an instruction reads: mask field 0 names none (R197). -/
def maskSrc (m : BitVec 3) : List Src := if m = 0 then [] else [⟨.m m, false⟩]

/-- The active elements of an instruction, ascending (R197). -/
def Regs.active (r : Regs) (m : BitVec 3) (wide : Bool) : List Nat := (List.range (r.ec wide)).filter (r.isActive m)

/-- `VectorOp` (R197): each active element of the old register is replaced; `f` reads the sources as they were. -/
def vectorOp (old : BitVec 4096) (wide : Bool) (act : List Nat) (f : Nat → Nat) : BitVec 4096 :=
  act.foldl (fun b i => putElement b wide i (f i)) old

/-- Whether an instruction writes all 128 positions. -/
def covers128 (wide : Bool) (act : List Nat) : Bool := act.length == (if wide then 64 else 128)

/-- Replaces the mask bits of the active elements (R211). -/
def maskOp (old : BitVec 128) (act : List Nat) (f : Nat → Bool) : BitVec 128 :=
  act.foldl (fun b i => setBit b i (f i)) old

/-- All events of a list of results. -/
def allEvents (evs : List (Nat × Events)) : Events := evs.foldl (fun e x => e ||| x.2) 0

/-! ## The lane pool -/

/-- The shared lanes of a cluster that the ends of firings returned and that are not free yet in the core cycle that a core is in (R195). -/
def State.lanesLate (s : State) (c : CoreId) : Nat :=
  (((s.cluster c.cluster).lanesOwed.filter fun e => decide ((s.core c).cycles.toNat < e.1)).map Prod.snd).sum

/-- Shared lanes that are free for a core of a cluster (R192): 128 where no firing holds any, also right after reset, where Table 08-1 has a reset value of 0 for SHFREE:
the model's choice (log entry 80). -/
def State.lanesFree (s : State) (c : CoreId) : Nat := 128 - s.lanesTaken c.cluster - s.lanesLate c

/-- A core takes lanes, or asks for some, in its core cycle: what an abort returns from now on is free after it only (R195). -/
def State.noteTake (s : State) (c : CoreId) : State :=
  let now := (s.core c).cycles.toNat
  s.modCluster c.cluster fun k => { k with lanesNext := max k.lanesNext (now + 1) }

/-- The grant that a request for n lanes gets: `vclaim`'s rule (R194), for a grant G and the shared lanes that are free. -/
def laneGrant (n g free : Nat) : Nat :=
  let want := laneWant n
  let held := g - 16
  let need := want - 16
  let held := if need < held then need else held + min (need - held) free
  if want = 0 then 0 else 16 + held

/-- `vclaim` (R194): it never waits for lanes; its turn comes when the arbiter has it (R195). -/
def execVclaim (d a : BitVec 5) (s : State) : Out :=
  if !s.laneTurn s.cur (laneUse (s.takeX s.cur a).1.toNat (s.core s.cur).regs.lanes) then .next s else
  s.issue s.cur [⟨.x a, false⟩] [.x d] fun s =>
    let (n, s) := s.takeX s.cur a
    let g := laneGrant n.toNat (s.core s.cur).regs.lanes (s.lanesFree s.cur)
    let s := if laneUse n.toNat (s.core s.cur).regs.lanes = .takes then s.noteTake s.cur else s
    .done ((s.modRegs s.cur fun r => { r with lanes := g, vl := min r.vl g }).putXNext s.cur d (.ofNat 64 g))

/-- `vrelease` (R195). -/
def execVrelease (s : State) : Out :=
  if !s.laneTurn s.cur (laneUse 0 (s.core s.cur).regs.lanes) then .next s else
  s.issue s.cur [] [] fun s => .done ((s.modRegs s.cur fun r => { r with lanes := 0, vl := 0 }).advance s.cur)

/-- `vsetvl` (R196). -/
def execVsetvl (d a : BitVec 5) (s : State) : Out :=
  s.issue s.cur [⟨.x a, false⟩] [.x d] fun s =>
    let (n, s) := s.takeX s.cur a
    let vl := min n.toNat (s.core s.cur).regs.lanes
    .done ((s.modRegs s.cur fun r => { r with vl := vl }).putXNext s.cur d (.ofNat 64 vl))

/-! ## Vector integer (R208) -/

/-- The second operand: a vector register, or in the scalar form an x register, that always waits (R208). -/
def vecSecond (b : BitVec 5) (scalar : Bool) : Src := if scalar then ⟨.x b, false⟩ else ⟨.v b, false⟩

/-- The common form of the vector integer operations. -/
def vecInt (s : State) (d a b : BitVec 5) (m : BitVec 3) (scalar : Bool) (f : BitVec 32 → BitVec 32 → BitVec 32) : Out :=
  s.issue s.cur ([⟨.v a, false⟩, vecSecond b scalar] ++ maskSrc m) [.v d] fun s =>
    let r := (s.core s.cur).regs
    let (x, s) := if scalar then s.takeX s.cur b else (0, s)
    let act := r.active m false
    let second := fun i => if scalar then x.truncate 32 else BitVec.ofNat 32 (element (r.readV b) false i)
    let out := vectorOp (r.readV d) false act fun i => (f (.ofNat 32 (element (r.readV a) false i)) (second i)).toNat
    .done ((s.modRegs s.cur fun r => r.putV d out (covers128 false act)).advance s.cur)

/-- The common form of the vector integer compares (R211). -/
def vecIntCompare (s : State) (d : BitVec 3) (a b : BitVec 5) (m : BitVec 3) (scalar : Bool) (f : BitVec 32 → BitVec 32 → Bool) : Out :=
  s.issue s.cur ([⟨.v a, false⟩, vecSecond b scalar] ++ maskSrc m) [] fun s =>
    let r := (s.core s.cur).regs
    let (x, s) := if scalar then s.takeX s.cur b else (0, s)
    let second := fun i => if scalar then x.truncate 32 else BitVec.ofNat 32 (element (r.readV b) false i)
    let out := maskOp (r.readM d) (r.active m false) fun i => f (.ofNat 32 (element (r.readV a) false i)) (second i)
    .done ((s.modRegs s.cur fun r => r.putM d out (covers128 false (r.active m false))).advance s.cur)

/-- An integer clamped to signed 32 bits, and to natural 32 bits. -/
def clampS32 (n : Int) : BitVec 32 := .ofInt 32 (max (-2147483648) (min 2147483647 n))
def clampN32 (n : Int) : BitVec 32 := .ofInt 32 (max 0 (min 4294967295 n))

/-- `vadd` (R208). -/
def execVadd (d a b : BitVec 5) (m : BitVec 3) (sz : Bool) (s : State) : Out :=
  vecInt s d a b m sz fun x y => x + y
/-- `vsub` (R208). -/
def execVsub (d a b : BitVec 5) (m : BitVec 3) (sz : Bool) (s : State) : Out :=
  vecInt s d a b m sz fun x y => x - y
/-- `vmul` (R208). -/
def execVmul (d a b : BitVec 5) (m : BitVec 3) (sz : Bool) (s : State) : Out :=
  vecInt s d a b m sz fun x y => x * y
/-- `vmulh` (R208). -/
def execVmulh (d a b : BitVec 5) (m : BitVec 3) (sz : Bool) (s : State) : Out :=
  vecInt s d a b m sz fun x y => .ofInt 32 (x.toInt * y.toInt / 2 ^ 32)
/-- `vmulhn` (R208). -/
def execVmulhn (d a b : BitVec 5) (m : BitVec 3) (sz : Bool) (s : State) : Out :=
  vecInt s d a b m sz fun x y => .ofNat 32 (x.toNat * y.toNat / 2 ^ 32)
/-- `vand` (R208). -/
def execVand (d a b : BitVec 5) (m : BitVec 3) (sz : Bool) (s : State) : Out :=
  vecInt s d a b m sz fun x y => x &&& y
/-- `vor` (R208). -/
def execVor (d a b : BitVec 5) (m : BitVec 3) (sz : Bool) (s : State) : Out :=
  vecInt s d a b m sz fun x y => x ||| y
/-- `vxor` (R208). -/
def execVxor (d a b : BitVec 5) (m : BitVec 3) (sz : Bool) (s : State) : Out :=
  vecInt s d a b m sz fun x y => x ^^^ y
/-- `vandn` (R208). -/
def execVandn (d a b : BitVec 5) (m : BitVec 3) (sz : Bool) (s : State) : Out :=
  vecInt s d a b m sz fun x y => x &&& ~~~y
/-- `vshl` (R208). -/
def execVshl (d a b : BitVec 5) (m : BitVec 3) (sz : Bool) (s : State) : Out :=
  vecInt s d a b m sz fun x y => x <<< (y.toNat % 32)
/-- `vshr` (R208). -/
def execVshr (d a b : BitVec 5) (m : BitVec 3) (sz : Bool) (s : State) : Out :=
  vecInt s d a b m sz fun x y => x >>> (y.toNat % 32)
/-- `vsra` (R208). -/
def execVsra (d a b : BitVec 5) (m : BitVec 3) (sz : Bool) (s : State) : Out :=
  vecInt s d a b m sz fun x y => x.sshiftRight (y.toNat % 32)
/-- `vmin` (R208). -/
def execVmin (d a b : BitVec 5) (m : BitVec 3) (sz : Bool) (s : State) : Out :=
  vecInt s d a b m sz fun x y => if x.toInt < y.toInt then x else y
/-- `vmax` (R208). -/
def execVmax (d a b : BitVec 5) (m : BitVec 3) (sz : Bool) (s : State) : Out :=
  vecInt s d a b m sz fun x y => if x.toInt < y.toInt then y else x
/-- `vminn` (R208). -/
def execVminn (d a b : BitVec 5) (m : BitVec 3) (sz : Bool) (s : State) : Out :=
  vecInt s d a b m sz fun x y => if x.toNat < y.toNat then x else y
/-- `vmaxn` (R208). -/
def execVmaxn (d a b : BitVec 5) (m : BitVec 3) (sz : Bool) (s : State) : Out :=
  vecInt s d a b m sz fun x y => if x.toNat < y.toNat then y else x
/-- `vadds` (R208). -/
def execVadds (d a b : BitVec 5) (m : BitVec 3) (sz : Bool) (s : State) : Out :=
  vecInt s d a b m sz fun x y => clampS32 (x.toInt + y.toInt)
/-- `vaddsn` (R208). -/
def execVaddsn (d a b : BitVec 5) (m : BitVec 3) (sz : Bool) (s : State) : Out :=
  vecInt s d a b m sz fun x y => clampN32 ((x.toNat : Int) + y.toNat)
/-- `vsubs` (R208). -/
def execVsubs (d a b : BitVec 5) (m : BitVec 3) (sz : Bool) (s : State) : Out :=
  vecInt s d a b m sz fun x y => clampS32 (x.toInt - y.toInt)
/-- `vsubsn` (R208). -/
def execVsubsn (d a b : BitVec 5) (m : BitVec 3) (sz : Bool) (s : State) : Out :=
  vecInt s d a b m sz fun x y => clampN32 ((x.toNat : Int) - y.toNat)
/-- `vseq` (R211). -/
def execVseq (d : BitVec 3) (a b : BitVec 5) (m : BitVec 3) (sz : Bool) (s : State) : Out :=
  vecIntCompare s d a b m sz fun x y => x == y
/-- `vslt` (R211). -/
def execVslt (d : BitVec 3) (a b : BitVec 5) (m : BitVec 3) (sz : Bool) (s : State) : Out :=
  vecIntCompare s d a b m sz fun x y => decide (x.toInt < y.toInt)
/-- `vsltn` (R211). -/
def execVsltn (d : BitVec 3) (a b : BitVec 5) (m : BitVec 3) (sz : Bool) (s : State) : Out :=
  vecIntCompare s d a b m sz fun x y => decide (x.toNat < y.toNat)

/-! ## Vector floating point (R209 to R212) -/

/-- The format of fn[6:5] (R69). -/
def vectorFmt (t : BitVec 2) : Fmt :=
  match t.toNat with
  | 0 => fmtF32
  | 1 => fmtF64
  | 2 => fmtF16
  | _ => fmtBf16

/-- Whether a format's elements take two positions. -/
def isWide (t : BitVec 2) : Bool := t == 1

/-- An element's bits in a format (R196). -/
def floatElement (f : Fmt) (b : BitVec 4096) (wide : Bool) (i : Nat) : Nat := element b wide i % 2 ^ f.width

/-- The second operand of a vector FP instruction: a vector register, or in the scalar form an f register. -/
def vecSecondF (b : BitVec 5) (scalar : Bool) : Src := if scalar then ⟨.f b, false⟩ else ⟨.v b, false⟩

/-- Element i of the second operand; the scalar is read in the instruction's format (R209). -/
def Regs.secondF (r : Regs) (f : Fmt) (b : BitVec 5) (scalar wide : Bool) (i : Nat) : Nat :=
  if scalar then r.bitsF f b else floatElement f (r.readV b) wide i

/-- Completes a vector FP instruction from the results of its active elements. -/
def State.finishVec (s : State) (c : CoreId) (d : BitVec 5) (wide : Bool) (res : List (Nat × Nat × Events)) : Act :=
  let r := (s.core c).regs
  let out := res.foldl (fun b x => putElement b wide x.1 x.2.1) (r.readV d)
  let evs := res.map fun x => (x.1, x.2.2)
  s.finishFp c (.v d out) (allEvents evs) (firstRaised r.enable evs) (covers128 wide (res.map Prod.fst))

/-- The common form with two operands. -/
def vecFp2 (s : State) (d a b : BitVec 5) (m : BitVec 3) (scalar : Bool) (t : BitVec 2) (op : Fmt → Rnd → Nat → Nat → Nat × Events) : Out :=
  s.issue s.cur ([⟨.v a, false⟩, vecSecondF b scalar] ++ maskSrc m) [.v d] fun s =>
    let r := (s.core s.cur).regs
    let f := vectorFmt t
    let w := isWide t
    s.finishVec s.cur d w ((r.active m w).map fun i => (i, op f r.rnd (floatElement f (r.readV a) w i) (r.secondF f b scalar w i)))

/-- The common form with one operand. -/
def vecFp1 (s : State) (d a : BitVec 5) (m : BitVec 3) (t : BitVec 2) (op : Fmt → Rnd → Nat → Nat × Events) : Out :=
  s.issue s.cur (⟨.v a, false⟩ :: maskSrc m) [.v d] fun s =>
    let r := (s.core s.cur).regs
    let f := vectorFmt t
    let w := isWide t
    s.finishVec s.cur d w ((r.active m w).map fun i => (i, op f r.rnd (floatElement f (r.readV a) w i)))

/-- The common form of `vfma` and `vfms`, which read vd (R209). -/
def vecFma (s : State) (d a b : BitVec 5) (m : BitVec 3) (scalar : Bool) (t : BitVec 2) (negC : Bool) : Out :=
  s.issue s.cur ([⟨.v a, false⟩, vecSecondF b scalar, ⟨.v d, false⟩] ++ maskSrc m) [.v d] fun s =>
    let r := (s.core s.cur).regs
    let f := vectorFmt t
    let w := isWide t
    s.finishVec s.cur d w ((r.active m w).map fun i =>
      (i, fmaBits false negC f r.rnd (floatElement f (r.readV a) w i) (r.secondF f b scalar w i) (floatElement f (r.readV d) w i)))

/-- The common form of the vector FP compares (R211). -/
def vecFpCompare (s : State) (d : BitVec 3) (a b : BitVec 5) (m : BitVec 3) (scalar : Bool) (t : BitVec 2)
    (op : FVal → FVal → Bool × Events) : Out :=
  s.issue s.cur ([⟨.v a, false⟩, vecSecondF b scalar] ++ maskSrc m) [] fun s =>
    let r := (s.core s.cur).regs
    let f := vectorFmt t
    let w := isWide t
    let res := (r.active m w).map fun i => (i, op (f.value (floatElement f (r.readV a) w i)) (f.value (r.secondF f b scalar w i)))
    let out := res.foldl (fun k x => setBit k x.1 x.2.1) (r.readM d)
    let evs := res.map fun x => (x.1, x.2.2)
    s.finishFp s.cur (.m d out) (allEvents evs) (firstRaised r.enable evs) (res.length == 128)

/-- A special function on bits (R210). -/
def special (g : FVal → Exact) (f : Fmt) (c : Rnd) (x : Nat) : Nat × Events := f.round c (g (f.value x))

/-- `vfadd` (R209). -/
def execVfadd (d a b : BitVec 5) (m : BitVec 3) (sz : Bool) (t : BitVec 2) (s : State) : Out := vecFp2 s d a b m sz t addBits
/-- `vfsub` (R209). -/
def execVfsub (d a b : BitVec 5) (m : BitVec 3) (sz : Bool) (t : BitVec 2) (s : State) : Out := vecFp2 s d a b m sz t subBits
/-- `vfmul` (R209). -/
def execVfmul (d a b : BitVec 5) (m : BitVec 3) (sz : Bool) (t : BitVec 2) (s : State) : Out := vecFp2 s d a b m sz t mulBits
/-- `vfdiv` (R209). -/
def execVfdiv (d a b : BitVec 5) (m : BitVec 3) (sz : Bool) (t : BitVec 2) (s : State) : Out := vecFp2 s d a b m sz t divBits
/-- `vfmin` (R209). -/
def execVfmin (d a b : BitVec 5) (m : BitVec 3) (sz : Bool) (t : BitVec 2) (s : State) : Out :=
  vecFp2 s d a b m sz t fun f _ x y => f.minMax false false x y
/-- `vfmax` (R209). -/
def execVfmax (d a b : BitVec 5) (m : BitVec 3) (sz : Bool) (t : BitVec 2) (s : State) : Out :=
  vecFp2 s d a b m sz t fun f _ x y => f.minMax true false x y
/-- `vfminn` (R209). -/
def execVfminn (d a b : BitVec 5) (m : BitVec 3) (sz : Bool) (t : BitVec 2) (s : State) : Out :=
  vecFp2 s d a b m sz t fun f _ x y => f.minMax false true x y
/-- `vfmaxn` (R209). -/
def execVfmaxn (d a b : BitVec 5) (m : BitVec 3) (sz : Bool) (t : BitVec 2) (s : State) : Out :=
  vecFp2 s d a b m sz t fun f _ x y => f.minMax true true x y
/-- `vfsqrt` (R209). -/
def execVfsqrt (d a : BitVec 5) (m : BitVec 3) (t : BitVec 2) (s : State) : Out := vecFp1 s d a m t sqrtBits
/-- `vfabs` (R209). -/
def execVfabs (d a : BitVec 5) (m : BitVec 3) (t : BitVec 2) (s : State) : Out := vecFp1 s d a m t absBits
/-- `vfneg` (R209). -/
def execVfneg (d a : BitVec 5) (m : BitVec 3) (t : BitVec 2) (s : State) : Out := vecFp1 s d a m t negBits
/-- `vfrec` (R210). -/
def execVfrec (d a : BitVec 5) (m : BitVec 3) (t : BitVec 2) (s : State) : Out := vecFp1 s d a m t (special (fun v => divVal oneVal v))
/-- `vfrsq` (R210). -/
def execVfrsq (d a : BitVec 5) (m : BitVec 3) (t : BitVec 2) (s : State) : Out := vecFp1 s d a m t (special rsqVal)
/-- `vfexp2` (R210). -/
def execVfexp2 (d a : BitVec 5) (m : BitVec 3) (t : BitVec 2) (s : State) : Out := vecFp1 s d a m t (special exp2Val)
/-- `vflog2` (R210). -/
def execVflog2 (d a : BitVec 5) (m : BitVec 3) (t : BitVec 2) (s : State) : Out := vecFp1 s d a m t (special log2Val)
/-- `vfma` (R209). -/
def execVfma (d a b : BitVec 5) (m : BitVec 3) (sz : Bool) (t : BitVec 2) (s : State) : Out := vecFma s d a b m sz t false
/-- `vfms` (R209). -/
def execVfms (d a b : BitVec 5) (m : BitVec 3) (sz : Bool) (t : BitVec 2) (s : State) : Out := vecFma s d a b m sz t true
/-- `vfeq` (R211). -/
def execVfeq (d : BitVec 3) (a b : BitVec 5) (m : BitVec 3) (sz : Bool) (t : BitVec 2) (s : State) : Out := vecFpCompare s d a b m sz t cmpEq
/-- `vflt` (R211). -/
def execVflt (d : BitVec 3) (a b : BitVec 5) (m : BitVec 3) (sz : Bool) (t : BitVec 2) (s : State) : Out := vecFpCompare s d a b m sz t cmpLt
/-- `vfle` (R211). -/
def execVfle (d : BitVec 3) (a b : BitVec 5) (m : BitVec 3) (sz : Bool) (t : BitVec 2) (s : State) : Out := vecFpCompare s d a b m sz t cmpLe

/-- One level of the pairwise tree (R189): an absent term leaves the other unchanged. -/
def treeLevel (f : Fmt) (c : Rnd) : List (Option Nat) → List (Option Nat) × Events
  | some x :: some y :: r =>
    let (z, ev) := addBits f c x y
    let (l, e) := treeLevel f c r
    (some z :: l, ev ||| e)
  | x :: y :: r =>
    let (l, e) := treeLevel f c r
    ((match x with | some v => some v | none => y) :: l, e)
  | l => (l, 0)

/-- The whole tree, of as many levels as given. -/
def treeSum (f : Fmt) (c : Rnd) : Nat → List (Option Nat) → Option Nat × Events
  | 0, l => (l.head?.join, 0)
  | n + 1, l =>
    let (l, ev) := treeLevel f c l
    let (x, e) := treeSum f c n l
    (x, ev ||| e)

/-- The common form of the FP reductions (R212): element 0 is written unless VL is 0. A NaN result is canonical (R175). -/
def vecFpReduce (s : State) (d a : BitVec 5) (m : BitVec 3) (t : BitVec 2) (op : Fmt → Rnd → List (Nat × Nat) → Nat × Events) : Out :=
  s.issue s.cur (⟨.v a, false⟩ :: maskSrc m) [.v d] fun s =>
    let r := (s.core s.cur).regs
    let f := vectorFmt t
    let w := isWide t
    if r.vl = 0 then .done (s.advance s.cur)
    else
      let (x, ev) := op f r.rnd ((r.active m w).map fun i => (i, floatElement f (r.readV a) w i))
      s.finishFp s.cur (.v d (putElement (r.readV d) w 0 x)) ev 0 false

/-- `vfredsum`'s rule (R189). The tree spans 128 positions: the absent ones beyond P change nothing. -/
def redSum (f : Fmt) (c : Rnd) (xs : List (Nat × Nat)) : Nat × Events :=
  let (x, ev) := treeSum f c 7 ((List.range 128).map fun i => (xs.find? fun e => e.1 == i).map Prod.snd)
  match x with
  | some b => if (f.value b).isNan then (f.nanBits, ev ||| evIf (f.value b).isSig evNV) else (b, ev)
  | none => (0, ev)

/-- The rule of `vfredmin` and `vfredmax` (R212). -/
def redMinMax (greater : Bool) (f : Fmt) (_ : Rnd) (xs : List (Nat × Nat)) : Nat × Events :=
  xs.foldl (fun acc e => let (x, ev) := f.minMax greater false acc.1 e.2; (x, acc.2 ||| ev)) (f.infBits greater, 0)

/-- `vfredsum` (R212). -/
def execVfredsum (d a : BitVec 5) (m : BitVec 3) (t : BitVec 2) (s : State) : Out := vecFpReduce s d a m t redSum
/-- `vfredmin` (R212). -/
def execVfredmin (d a : BitVec 5) (m : BitVec 3) (t : BitVec 2) (s : State) : Out := vecFpReduce s d a m t (redMinMax false)
/-- `vfredmax` (R212). -/
def execVfredmax (d a : BitVec 5) (m : BitVec 3) (t : BitVec 2) (s : State) : Out := vecFpReduce s d a m t (redMinMax true)

/-! ## Permutes and masks (R213 to R215) -/

/-- Writes the active 32-bit positions of vd and completes. -/
def State.permute (s : State) (c : CoreId) (d : BitVec 5) (act : List Nat) (f : Nat → Nat) : Act :=
  .done ((s.modRegs c fun r => r.putV d (vectorOp (r.readV d) false act f) (covers128 false act)).advance c)

/-- `vmv` (R213). -/
def execVmv (d a : BitVec 5) (m : BitVec 3) (s : State) : Out :=
  s.issue s.cur (⟨.v a, false⟩ :: maskSrc m) [.v d] fun s =>
    let r := (s.core s.cur).regs
    s.permute s.cur d (r.active m false) (element (r.readV a) false)

/-- `vbcast` (R213). -/
def execVbcast (d a : BitVec 5) (m : BitVec 3) (s : State) : Out :=
  s.issue s.cur (⟨.x a, false⟩ :: maskSrc m) [.v d] fun s =>
    let (x, s) := s.takeX s.cur a
    s.permute s.cur d ((s.core s.cur).regs.active m false) fun _ => x.toNat % 2 ^ 32

/-- `vbcastf` (R213). -/
def execVbcastf (d a : BitVec 5) (m : BitVec 3) (s : State) : Out :=
  s.issue s.cur (⟨.f a, false⟩ :: maskSrc m) [.v d] fun s =>
    let r := (s.core s.cur).regs
    s.permute s.cur d (r.active m false) fun _ => (r.readF a).toNat % 2 ^ 32

/-- `vslideup` (R213): an element below the distance is unchanged. -/
def execVslideup (d a b : BitVec 5) (m : BitVec 3) (s : State) : Out :=
  s.issue s.cur ([⟨.v a, false⟩, ⟨.x b, false⟩] ++ maskSrc m) [.v d] fun s =>
    let (n, s) := s.takeX s.cur b
    let r := (s.core s.cur).regs
    s.permute s.cur d ((r.active m false).filter fun i => decide (n.toNat ≤ i)) fun i => element (r.readV a) false (i - n.toNat)

/-- `vslidedn` (R213). -/
def execVslidedn (d a b : BitVec 5) (m : BitVec 3) (s : State) : Out :=
  s.issue s.cur ([⟨.v a, false⟩, ⟨.x b, false⟩] ++ maskSrc m) [.v d] fun s =>
    let (n, s) := s.takeX s.cur b
    let r := (s.core s.cur).regs
    s.permute s.cur d (r.active m false) fun i => if i + n.toNat < r.vl then element (r.readV a) false (i + n.toNat) else 0

/-- `vgather` (R213). -/
def execVgather (d a b : BitVec 5) (m : BitVec 3) (s : State) : Out :=
  s.issue s.cur ([⟨.v a, false⟩, ⟨.v b, false⟩] ++ maskSrc m) [.v d] fun s =>
    let r := (s.core s.cur).regs
    s.permute s.cur d (r.active m false) fun i =>
      let j := element (r.readV b) false i
      if j < r.vl then element (r.readV a) false j else 0

/-- `vcompress` (R214). -/
def execVcompress (d a : BitVec 5) (m : BitVec 3) (s : State) : Out :=
  s.issue s.cur (⟨.v a, false⟩ :: maskSrc m) [.v d] fun s =>
    let r := (s.core s.cur).regs
    let act := r.active m false
    s.permute s.cur d (List.range r.vl) fun i => match act[i]? with | some j => element (r.readV a) false j | none => 0

/-- `vexpand` (R214). -/
def execVexpand (d a : BitVec 5) (m : BitVec 3) (s : State) : Out :=
  s.issue s.cur (⟨.v a, false⟩ :: maskSrc m) [.v d] fun s =>
    let r := (s.core s.cur).regs
    let act := r.active m false
    s.permute s.cur d act fun i => element (r.readV a) false (act.filter fun j => decide (j < i)).length

/-- `vext` (R213): positions are storage, whatever VL is. -/
def execVext (d a b : BitVec 5) (s : State) : Out :=
  s.issue s.cur [⟨.v a, false⟩, ⟨.x b, false⟩] [.x d] fun s =>
    let (n, s) := s.takeX s.cur b
    .done (s.putXNext s.cur d (if n.toNat < 128 then .ofNat 64 (element ((s.core s.cur).regs.readV a) false n.toNat) else 0))

/-- `vins` (R213): vd is read too. -/
def execVins (d a b : BitVec 5) (s : State) : Out :=
  s.issue s.cur [⟨.x a, false⟩, ⟨.x b, false⟩, ⟨.v d, false⟩] [.v d] fun s =>
    let (x, s) := s.takeX s.cur a
    let (n, s) := s.takeX s.cur b
    s.permute s.cur d (if n.toNat < 128 then [n.toNat] else []) fun _ => x.toNat % 2 ^ 32

/-- The common form of the integer reductions (R213). -/
def vecReduce (s : State) (d a : BitVec 5) (m : BitVec 3) (init : BitVec 32) (f : BitVec 32 → BitVec 32 → BitVec 32) : Out :=
  s.issue s.cur (⟨.v a, false⟩ :: maskSrc m) [.v d] fun s =>
    let r := (s.core s.cur).regs
    let x := (r.active m false).foldl (fun acc i => f acc (.ofNat 32 (element (r.readV a) false i))) init
    s.permute s.cur d (if r.vl = 0 then [] else [0]) fun _ => x.toNat

/-- `vredadd` (R213). -/
def execVredadd (d a : BitVec 5) (m : BitVec 3) (s : State) : Out :=
  vecReduce s d a m 0 fun x y => x + y
/-- `vredmin` (R213). -/
def execVredmin (d a : BitVec 5) (m : BitVec 3) (s : State) : Out :=
  vecReduce s d a m 0x7FFFFFFF fun x y => if x.toInt < y.toInt then x else y
/-- `vredmax` (R213). -/
def execVredmax (d a : BitVec 5) (m : BitVec 3) (s : State) : Out :=
  vecReduce s d a m 0x80000000 fun x y => if x.toInt < y.toInt then y else x
/-- `vredminn` (R213). -/
def execVredminn (d a : BitVec 5) (m : BitVec 3) (s : State) : Out :=
  vecReduce s d a m 0xFFFFFFFF fun x y => if x.toNat < y.toNat then x else y
/-- `vredmaxn` (R213). -/
def execVredmaxn (d a : BitVec 5) (m : BitVec 3) (s : State) : Out :=
  vecReduce s d a m 0 fun x y => if x.toNat < y.toNat then y else x

/-- The common form of the mask logic: all 128 bits, whatever VL is (R215). -/
def maskLogic (s : State) (d : BitVec 3) (srcs : List (BitVec 3)) (f : Regs → BitVec 128) : Out :=
  s.issue s.cur (srcs.map fun m => ⟨.m m, false⟩) [] fun s => .done ((s.modRegs s.cur fun r => r.putM d (f r) true).advance s.cur)

/-- `mand` (R215). -/
def execMand (d a b : BitVec 3) (s : State) : Out := maskLogic s d [a, b] fun r => r.readM a &&& r.readM b
/-- `mor` (R215). -/
def execMor (d a b : BitVec 3) (s : State) : Out := maskLogic s d [a, b] fun r => r.readM a ||| r.readM b
/-- `mxor` (R215). -/
def execMxor (d a b : BitVec 3) (s : State) : Out := maskLogic s d [a, b] fun r => r.readM a ^^^ r.readM b
/-- `mnot` (R215). -/
def execMnot (d a : BitVec 3) (s : State) : Out := maskLogic s d [a] fun r => ~~~r.readM a

/-- `mpopc` (R215). -/
def execMpopc (d : BitVec 5) (a : BitVec 3) (s : State) : Out :=
  s.issue s.cur [⟨.m a, false⟩] [.x d] fun s =>
    let r := (s.core s.cur).regs
    .done (s.putXNext s.cur d (.ofNat 64 ((List.range r.vl).filter (r.readM a).getLsbD).length))

/-- `mfirst` (R215). -/
def execMfirst (d : BitVec 5) (a : BitVec 3) (s : State) : Out :=
  s.issue s.cur [⟨.m a, false⟩] [.x d] fun s =>
    let r := (s.core s.cur).regs
    .done (s.putXNext s.cur d (match (List.range r.vl).find? (r.readM a).getLsbD with | some i => .ofNat 64 i | none => -1))

end Sys2Proof.Machine
end

