-- ==== Sys2Proof/Machine/Convert.lean ====
section
/-! DEFINITION. The conversions (R185, R219). -/

namespace Sys2Proof.Machine

/-- The scale register of a conversion; rs2 = 0 names none (R71). -/
def scaleSrc (b : BitVec 5) (v : Bool) : List Src := if b = 0 then [] else [⟨.f b, v⟩]

/-- The scale of a conversion (R219). -/
def Regs.scale (r : Regs) (b : BitVec 5) : FVal := if b = 0 then oneVal else fmtF32.value (r.bitsF fmtF32 b)

/-- Whether a format's scalars stand in x registers (R71). -/
def Kind.isInt : Kind → Bool
  | .int .. => true
  | _ => false

/-- Reads a scalar source that stands in an f register (R176). -/
def Kind.unbox (k : Kind) (w : Word64) : Nat :=
  match k with
  | .float f => f.unbox w
  | .int _ n => w.toNat % 2 ^ n
  | .e8m0 => unboxed 8 255 true w

/-- A scalar integer result, extended to 64 bits (R178). -/
def extendInt (signed : Bool) (n bits : Nat) : Word64 := if signed then sext64 n bits else .ofNat 64 bits

/-- `cvt`, scalar form (R219). -/
def execCvtScalarForm (d a b : BitVec 5) (u v : Bool) (p q : BitVec 4) (s : State) : Out :=
  let dst := kindOfCode p
  let src := kindOfCode q
  let from_ : Reg := if src.isInt then .x a else .f a
  let to_ : Reg := if dst.isInt then .x d else .f d
  s.issue s.cur (⟨from_, u⟩ :: scaleSrc b v) [to_] fun s =>
    let (w, s) := if src.isInt then s.takeX s.cur a else ((s.core s.cur).regs.readF a, s)
    let r := (s.core s.cur).regs
    let (x, ev) := convert r.rnd (src.value (src.unbox w)) (r.scale b) dst
    let result : FpDefault := match dst with
      | .int signed n => .x d (extendInt signed n x)
      | k => .f d (boxedTo k.width x)
    s.finishFp s.cur result ev 0 true

/-- `cvt`, vector form (R219): every element below the count of R196, at the places that the widths of the two formats give. -/
def execCvtVectorForm (d a b : BitVec 5) (v : Bool) (p q : BitVec 4) (s : State) : Out :=
  let dst := kindOfCode p
  let src := kindOfCode q
  s.issue s.cur (⟨.v a, false⟩ :: scaleSrc b v) [.v d] fun s =>
    let r := (s.core s.cur).regs
    let n := r.ec (dst.width == 64 || src.width == 64)
    s.finishVec s.cur d (dst.width == 64) ((List.range n).map fun i =>
      (i, convert r.rnd (src.value (element (r.readV a) (src.width == 64) i % 2 ^ src.width)) (r.scale b) dst))

end Sys2Proof.Machine
end

