-- ==== Sys2Proof/Machine/Network.lean ====
section
/-! DEFINITION. The mesh: injection limiters, mailbox addresses, and what a mailbox unit decides (R254, R263, R264, R291 to R295). -/

namespace Sys2Proof.Machine

/-! ## The injection limiter (R294) -/

/-- `LIMITER_REFILL` (R294): the bucket takes what came to it since it was settled. -/
def execLimiterRefill (part cl : Nat) (s : State) : Out := .next (s.modPart part fun p => p.settleBucket cl s.now.toNat 0)

/-- Whether a message enters the mesh now: a send port's is on it; that of a unit waits while its network drains, or its partition's bucket in its cluster is
empty; a host's packets come from no core or unit of the partition (R293, R294). The messages of a VF's launcher and of its TSCs belong to the network of the VF's partition, and
not to the system's: the model's choice, since R291 does not list what the system's network carries (log entry 57). -/
def State.mayEnter (s : State) (p : Packet) : Bool :=
  let part := s.partOfVf p.vf
  match p.sender with
  | .port .. => true
  | .host .. => !s.draining part
  | _ => !s.draining part && s.limiterOpen part p.cluster

/-- Charges the packets that a message takes: its own, where it enters the mesh now, and its answer's (R294). -/
def State.chargeMessage (s : State) (p : Packet) : State :=
  let part := s.partOfVf p.vf
  match p.sender with
  | .port .. => s.charge part p.cluster 0
  | .host .. => s
  | _ => (s.charge part p.cluster (8 * p.msg.words.length)).charge part p.cluster 0

/-! ## Actors, wherever they are -/

/-- The rope that a VF and a global barrier context name: placed or saved (R254). -/
def State.ropeOf (s : State) (vf context : Nat) : Option (Nat × Rope) :=
  s.ropes.find? fun e => e.2.vf == vf && e.2.context == context && !e.2.retired

/-- Whether a VF is switched out: its save image is written and not restored (R334, R336). -/
def State.switchedOut (s : State) (vf : Nat) : Bool :=
  match s.vfs.get vf with
  | some v => v.saved.isSome
  | none => false

/-- The slot of an actor of a rope: on its core, or in the save image of its VF. -/
def State.actorSlot (s : State) (rope : Nat) (c : CoreId) (i : Nat) : Option Slot :=
  let vf := match s.ropes.get rope with | some r => r.vf | none => 0
  match (s.vfs.get vf).bind fun v => v.saved with
  | some im => (im.slots.find? fun e => e.1 == c && e.2.1 == i && e.2.2.rope == rope).map fun e => e.2.2
  | none =>
    let t := (s.core c).slot i
    if t.phase ≠ .vacant ∧ t.rope = rope then some t else none

/-- Changes the slot of an actor of a rope, wherever it is. -/
def State.modActor (s : State) (rope : Nat) (c : CoreId) (i : Nat) (f : Slot → Slot) : State :=
  let vf := match s.ropes.get rope with | some r => r.vf | none => 0
  if s.switchedOut vf then
    s.modVf vf fun v => { v with saved := v.saved.map fun im =>
      { im with slots := im.slots.map fun e => if e.1 = c ∧ e.2.1 = i ∧ e.2.2.rope = rope then (e.1, e.2.1, f e.2.2) else e } }
  else if ((s.core c).slot i).rope = rope then s.modSlot c i f else s

/-! ## What a mailbox unit decides (R264) -/

/-- The last conditions of R264, at an input port: type, spill ring, capacity. While a ring is not empty, the port of a resumed
actor refuses FULL (R337). -/
def InPort.decide (q : InPort) (typ : BitVec 8) (saved : Bool) : Answer :=
  if typ ≠ q.typ then .type
  else if saved then (if q.ring.length < q.capacity then .accepted else .spillFull)
  else if !q.ring.isEmpty then .full
  else if q.msgs.length < q.capacity then .accepted else .full

/-- Stores an accepted message. -/
def InPort.accept (q : InPort) (m : Msg) (saved : Bool) : InPort :=
  if saved then { q with ring := q.ring ++ [m] } else { q with msgs := q.msgs ++ [m] }

/-- The kind of a mailbox address (Table 11-1). -/
def addrKind (a : Nat) : Nat := bitsOf a 33 3

/-- The VF that a mailbox address names. -/
def addrVf (a : Nat) : Nat := bitsOf a 24 9

/-- Where a KIND-0 address leads: the rope, and the actor's core and slot; none for NOACTOR but for the port. -/
def State.findActor (s : State) (a : Nat) : Option (Nat × CoreId × Nat × Slot) :=
  match s.ropeOf (addrVf a) (bitsOf a 18 6) with
  | none => none
  | some (n, r) =>
    match r.place (bitsOf a 0 15) with
    | none => none
    | some (c, i) =>
      match s.actorSlot n c i with
      | some t => if t.phase = .retired then none else some (n, c, i, t)
      | none => none

/-- Whether a capability's tag goes along to a cluster: a value of spaces 1 to 3 that crosses clusters arrives untagged (R138, R268). -/
def keepsTag (m : Msg) (same : Bool) : Bool :=
  m.tag && (same || !decide (1 ≤ bitsOf (m.words[1]?.getD 0).toNat 61 3 ∧ bitsOf (m.words[1]?.getD 0).toNat 61 3 ≤ 3))

/-- Offers a message to a port of an actor (KIND 0): the decision, and the state with what is accepted stored. -/
def State.offerActor (s : State) (p : Packet) : Answer × State :=
  let a := p.dest.toNat
  match s.findActor a with
  | none => (.noActor, s)
  | some (n, c, i, t) =>
    match t.ins[bitsOf a 15 3]? with
    | none => (.noActor, s)
    | some q =>
      let vf := addrVf a
      let saved := s.switchedOut vf
      if p.msg.typ = q.typ && kindOf q.typ == 2 && s.partOfVf p.vf != s.partOfVf vf then (.type, s)
      else
        let d := q.decide p.msg.typ saved
        -- a tile's arrival is never spilled: the Halyard keeps it (R167)
        let d := match p.sender, d with | .halyard _, .accepted => if saved then .full else d | _, _ => d
        if d = .accepted then
          let m := { p.msg with tag := keepsTag p.msg (p.cluster == c.cluster) }
          let s := s.modActor n c i fun t => { t with ins := modAt t.ins (bitsOf a 15 3) fun q => q.accept m saved }
          (d, if saved then s else s.modCore c fun k => { k with recv := k.recv + 1 })
        else (d, s)

/-- Offers a message to a launcher port (KIND 1, R75, R295). -/
def State.offerLauncher (s : State) (p : Packet) : Answer × State :=
  let a := p.dest.toNat
  match s.vfs.get (addrVf a) with
  | none => (.noActor, s)
  | some v =>
    if bitsOf a 0 24 ≠ 0 ∨ p.vf ≠ addrVf a then (.noActor, s)
    else if p.msg.typ ≠ 0x1F then (.type, s)
    else if 16 ≤ v.launchPort.length then (.full, s)
    else (.accepted, s.modVf (addrVf a) fun v => { v with launchPort := v.launchPort ++ [p.msg] })

/-- Offers a message to a host endpoint (KIND 2, R295, R306): it leaves the package, and the host accepts it or refuses it FULL. It does so too over a context that is not
assigned, or is RUD: the model's choice (log entry 87). -/
def State.offerHost (s : State) (p : Packet) : Answer × State :=
  let a := p.dest.toNat
  match s.vfs.get (addrVf a) with
  | none => (.noActor, s)
  | some v =>
    if bitsOf a 12 12 ≠ 0 ∨ p.vf ≠ addrVf a ∨ (v.endpoints.get (bitsOf a 0 12)).isNone then (.noActor, s)
    else
      let t := { s with freeNo := s.freeNo + 1 }
      if Config.hostFull s.freeNo then (.full, t)
      else (.accepted, { t with hostOut := s.hostOut ++ [.message (addrVf a) (bitsOf a 0 12) p.msg] })

/-- Whether a sender is an endpoint that management marked privileged (R327). -/
def State.privileged (s : State) (x : Sender) : Bool :=
  match x with
  | .host vf ep =>
    match (s.vfs.get vf).bind fun v => v.endpoints.get ep with
    | some e => e.privileged
    | none => false
  | _ => false

/-- Offers a message to a firmware system port (KIND 3, R295, R315, R326 to R328). A trap reply whose address names another VF than its sender's is accepted, and matched
with the parked firings of its sender's VF: the model's choice (log entry 104). -/
def State.offerSystem (s : State) (p : Packet) : Answer × State :=
  let a := p.dest.toNat
  let service := bitsOf a 0 8
  if (s.vfs.get (addrVf a)).isNone ∨ bitsOf a 8 16 ≠ 0 then (.noActor, s)
  else if service ≠ 1 ∧ service ≠ 2 ∧ service ≠ 3 then (.noActor, s)
  else if service ≠ 1 ∧ !s.privileged p.sender then (.noActor, s)
  else if p.msg.typ ≠ 0x19 then (.type, s)
  else (.accepted, { s with
    sysReqs := s.sysReqs ++ [⟨s.fresh, addrVf a, service, p.msg.words[0]?.getD 0, p.msg.words[1]?.getD 0, p, [], s.now.toNat⟩], fresh := s.fresh + 1 })

/-- Whether a message's address has a bit above [35:0] set, where every mailbox address is zero; a send port's destination word holds more than its address
there (R254, R257). -/
def Packet.badAddress (p : Packet) : Bool :=
  match p.sender with
  | .port .. => false
  | _ => decide (2 ^ 36 ≤ p.dest.toNat)

/-- The destination's decision on an offered message (R264, R295). An address that sets a bit above [35:0] names nothing: for KIND 0 that is the model's choice
(log entry 77). -/
def State.offer (s : State) (p : Packet) : Answer × State :=
  if p.badAddress then (.noActor, s)
  else match addrKind p.dest.toNat with
  | 0 => s.offerActor p
  | 1 => s.offerLauncher p
  | 2 => s.offerHost p
  | 3 => s.offerSystem p
  | _ => (.noActor, s)

/-- The code of an answer in LASTWHY (Table 11-3). -/
def Answer.code : Answer → BitVec 3
  | .accepted => 0
  | .full => 1
  | .type => 2
  | .spillFull => 3
  | .noActor => 4
  | .instance_ => 5

/-- A refusal reply, offered directly to an input port of the sending actor; if the port is full, it is dropped (R262). -/
def State.refusalReply (s : State) (rope : Nat) (c : CoreId) (slot port : Nat) (w0 w1 : Word64) : State :=
  match s.actorSlot rope c slot with
  | none => s
  | some t =>
    match t.ins[port]? with
    | none => s
    | some q =>
      let saved := match s.ropes.get rope with | some r => s.switchedOut r.vf | none => false
      if t.phase ≠ .retired ∧ q.decide 0x19 saved = .accepted then
        let s := s.modActor rope c slot fun t =>
          { t with ins := modAt t.ins port fun q => q.accept (plainMsg 0x19 [w0, w1]) saved }
        if saved then s else s.modCore c fun k => { k with recv := k.recv + 1 }
      else s

/-- Word 0 of a refusal reply (R262). -/
def refusalWord (why : BitVec 3) (port : Nat) (seq : BitVec 16) : Word64 :=
  .ofNat 64 (why.toNat + 2 ^ 8 * port + 2 ^ 16 * seq.toNat)

end Sys2Proof.Machine
end

