-- ==== Sys2Proof/Machine/LoadStore.lean ====
section
/-! DEFINITION. Loads, stores, full/empty words, bit fields, and the group's events (R136 to R144, R147). -/

namespace Sys2Proof.Machine

/-- The bytes and the extension of a load's sz (Table 02-5). -/
def loadForm (sz : BitVec 3) : Nat × Fill :=
  match sz.toNat with
  | 0 => (1, .signed 1) | 1 => (2, .signed 2) | 2 => (4, .signed 4) | 3 => (8, .zeroed 8)
  | 4 => (1, .zeroed 1) | 5 => (2, .zeroed 2) | _ => (4, .zeroed 4)

/-- The bytes of a store's or of an f access's sz (Table 02-5). -/
def sizeOf2 (sz : BitVec 2) : Nat := 2 ^ sz.toNat

/-- The address of a format-M access: the cursor and the scaled offset, exact (R11, R133). -/
def formAddr (cap : Cap) (imm : BitVec 12) (unit : Nat) : Int := cap.cursor.toNat + imm.toInt * unit

/-- `ld` (R140). -/
def execLd (d c : BitVec 5) (w : Bool) (sz : BitVec 3) (imm : BitVec 12) (s : State) : Out :=
  s.issue s.cur [⟨.c c, w⟩] (s.loadDest s.cur ((s.core s.cur).regs.readC c).space (.x d)) fun s =>
    let cap := (s.core s.cur).regs.readC c
    let (n, fill) := loadForm sz
    s.doLoad s s.cur cap (formAddr cap imm n) n .load fill (.x d)

/-- `fld` (R140): a narrow value lies under ones. -/
def execFld (d c : BitVec 5) (w : Bool) (sz : BitVec 2) (imm : BitVec 12) (s : State) : Out :=
  s.issue s.cur [⟨.c c, w⟩] [.f d] fun s =>
    let cap := (s.core s.cur).regs.readC c
    let n := sizeOf2 sz
    s.doLoad s s.cur cap (formAddr cap imm n) n .load (.boxed n) (.f d)

/-- `st` (R140): the data source is read under w too (R51). -/
def execSt (d c : BitVec 5) (w : Bool) (sz : BitVec 2) (imm : BitVec 12) (s : State) : Out :=
  s.issue s.cur [⟨.c c, w⟩, ⟨.x d, w⟩] [] fun s0 =>
    let cap := (s0.core s0.cur).regs.readC c
    let (v, s) := s0.takeX s0.cur d
    let n := sizeOf2 sz
    s0.doStore s s.cur cap (formAddr cap imm n) (leBytes n v.toNat) .store none false

/-- `fst` (R140). -/
def execFst (d c : BitVec 5) (w : Bool) (sz : BitVec 2) (imm : BitVec 12) (s : State) : Out :=
  s.issue s.cur [⟨.c c, w⟩, ⟨.f d, w⟩] [] fun s =>
    let cap := (s.core s.cur).regs.readC c
    let n := sizeOf2 sz
    s.doStore s s.cur cap (formAddr cap imm n) (leBytes n ((s.core s.cur).regs.readF d).toNat) .store none false

/-- `ldc` (R142): without PERM.CAP the tag is lost; from space 4 it always is. -/
def execLdc (d c : BitVec 5) (w : Bool) (imm : BitVec 12) (s : State) : Out :=
  s.issue s.cur [⟨.c c, w⟩] [.c d] fun s =>
    let cap := (s.core s.cur).regs.readC c
    s.doLoad s s.cur cap (formAddr cap imm 16) 16 .load (.cap (cap.perm.getLsbD 3)) (.c d)

/-- The location, in spaces 1 and 2, that is the core's own scratchpad. -/
def isOwnScratch (c : CoreId) (cap : Cap) (a : Int) : Bool :=
  cap.space == 1 || (cap.space == 2 && a.toNat / 2 ^ 19 % 8 == c.core)

/-- `stc` (R142): a tagged value needs PERM.CAP, which is tested before the translation (R311); a space-1 value is localised unless it goes to the core's own scratchpad
(R138). -/
def execStc (d c : BitVec 5) (w : Bool) (imm : BitVec 12) (s : State) : Out :=
  s.issue s.cur [⟨.c c, w⟩, ⟨.c d, w⟩] [] fun s =>
    let r := (s.core s.cur).regs
    let cap := r.readC c
    let v := r.readC d
    let a := formAddr cap imm 16
    if v.tag && !cap.perm.getLsbD 3 && (s.accessFails s.cur cap a 16 .store).isNone then .trap s .capperm (accessDetail a cap.space true) else
    match s.accessCheck s.cur cap a 16 .store with
    | .trap code e => .trap s code e
    | .miss va wr => .miss va wr none
    | .stall => .stall
    | .emulated _ => .done (s.advance s.cur)
    | .ok loc repl =>
      let v := if isOwnScratch s.cur cap a then v else v.toPeer s.cur.core
      s.buffer s.cur (wholeBytes loc (leBytes 16 v.toNat)) none [(loc, v.tag && decide (2 ^ 39 ≤ loc))] repl

/-- The value that the core's next access, an `ldw`, takes at once: that of a word that is full, where nothing comes first (R143). -/
def State.ldwSees (s : State) (c : CoreId) (loc n : Nat) (fill : Fill) : Option (Value × Bool) :=
  let k := s.core c
  if k.fullAt s.mem loc && s.mayPerform c (loadOp k.opNo (loc / 8 * 8) 8 false) then some (k.loadValue c s.mem loc n fill) else none

/-- `ldw` (R143): rd is empty until the word that contains the bytes is full; it takes the data as they stand at the first such moment. -/
def execLdw (d c : BitVec 5) (w : Bool) (sz : BitVec 3) (imm : BitVec 12) (s : State) : Out :=
  s.issue s.cur [⟨.c c, w⟩] (s.lateDest s.cur (.x d)) fun s =>
    let cap := (s.core s.cur).regs.readC c
    let (n, fill) := loadForm sz
    let a := formAddr cap imm n
    match s.accessCheck s.cur cap a n .loadFull with
    | .trap code e => .trap s code e
    | .miss va wr => .miss va wr (some (.x d))
    | .ok loc _ =>
      if 32 ≤ (s.core s.cur).loadsOut then .stall
      else .done (s.produce s.cur (some (.x d)) (accessDetail a cap.space false) (.loadFull loc fill (s.ldwSees s.cur loc n fill)))
    | _ => .stall

/-- `stf` (R143): the data and the full bit, as one write. -/
def execStf (d c : BitVec 5) (w : Bool) (imm : BitVec 12) (s : State) : Out :=
  s.issue s.cur [⟨.c c, w⟩, ⟨.x d, w⟩] [] fun s0 =>
    let cap := (s0.core s0.cur).regs.readC c
    let (v, s) := s0.takeX s0.cur d
    s0.doStore s s.cur cap (formAddr cap imm 8) (leBytes 8 v.toNat) .storeFull (some true) false

/-- `clrf` (R143): the word is empty; its data and its granule's tag stay (R137, R139). -/
def execClrf (c : BitVec 5) (w : Bool) (imm : BitVec 12) (s : State) : Out :=
  s.issue s.cur [⟨.c c, w⟩] [] fun s =>
    let cap := (s.core s.cur).regs.readC c
    match s.accessCheck s.cur cap (formAddr cap imm 8) 8 .storeFull with
    | .trap code e => .trap s code e
    | .miss va wr => .miss va wr none
    | .ok loc _ => s.buffer s.cur [] (some (loc, false)) [] false
    | _ => .stall

/-- The first bit, the first and last byte of a bit field (R144). -/
def bitField (cap : Cap) (off : Word64) (width : Nat) : Nat × Nat × Nat :=
  let b := 8 * cap.cursor.toNat + off.toNat
  (b, b / 8, (b + width - 1) / 8)

/-- The common form of `ldb` and `ldbx` (R144): a load of the bytes of the field, out of which the field is taken. In space 2 it is long-latency. -/
def loadBits (d c : BitVec 5) (w : Bool) (b l : BitVec 5) (signed : Bool) (s : State) : Out :=
  s.issue s.cur [⟨.c c, w⟩, ⟨.x b, w⟩] (s.loadDest s.cur ((s.core s.cur).regs.readC c).space (.x d)) fun s0 =>
    let cap := (s0.core s0.cur).regs.readC c
    let (off, s) := s0.takeX s0.cur b
    let width := l.toNat + 1
    let (bit, lo, hi) := bitField cap off width
    match s0.doLoad s s.cur cap lo (hi - lo + 1) .loadBits (.bits (bit % 8) width signed) (.x d) with
    | .trap _ code e => .trap s0 code e
    | a => a

/-- `ldb` (R144). -/
def execLdb (d c : BitVec 5) (w : Bool) (b l : BitVec 5) (s : State) : Out := loadBits d c w b l false s
/-- `ldbx` (R144). -/
def execLdbx (d c : BitVec 5) (w : Bool) (b l : BitVec 5) (s : State) : Out := loadBits d c w b l true s

/-- The bytes that `stb` writes, with the bits it writes of each (R144). -/
def bitBytes (loc bit width : Nat) (v : Word64) (n : Nat) : List (Nat × Byte × Byte) :=
  let value := leBytes n (v.toNat % 2 ^ width * 2 ^ (bit % 8))
  let mask := leBytes n ((2 ^ width - 1) * 2 ^ (bit % 8))
  (value.zip mask).zipIdx.map fun (e, i) => (loc + i, e.1, e.2)

/-- `stb` (R144): each word that the field touches is one read-modify-write, so a straddling field makes two store-buffer entries. Where one bound
port register gives the bit address and the data, the bit address is the word that comes first: the model's choice, since R53 orders
rs1 and rs2 only (log entry 66). -/
def execStb (d c : BitVec 5) (w : Bool) (b l : BitVec 5) (s : State) : Out :=
  s.issue s.cur [⟨.c c, w⟩, ⟨.x b, w⟩, ⟨.x d, w⟩] [] fun s0 =>
    let cap := (s0.core s0.cur).regs.readC c
    let (off, s) := s0.takeX s0.cur b
    let (v, s) := s.takeX s.cur d
    let width := l.toNat + 1
    let (bit, lo, hi) := bitField cap off width
    match s.accessCheck s.cur cap lo (hi - lo + 1) .storeBits with
    | .trap code e => .trap s0 code e
    | .ok loc _ =>
      let all := bitBytes loc bit width v (hi - lo + 1)
      let first := all.filter fun e => e.1 / 8 = loc / 8
      let second := all.filter fun e => e.1 / 8 ≠ loc / 8
      let need := if second.isEmpty then 1 else 2
      if 16 < (s.core s.cur).entries + need then .stall
      else .done ((s.modCore s.cur fun k =>
        let e1 : StoreEntry := ⟨k.opNo, first, none, [(loc, false)], false, false, k.opNo⟩
        let e2 : StoreEntry := ⟨k.opNo + 1, second, none, [(loc / 8 * 8 + 8, false)], false, false, k.opNo + 1⟩
        { k with stores := k.stores ++ (if second.isEmpty then [e1] else [e1, e2]), opNo := k.opNo + 2 }).advance s.cur)
    | _ => .stall

/-! ## Events -/

/-- An atomic as it waits or is performed: its number among its core's accesses, and what it does. -/
structure AtomicAt where
  no : Nat
  loc : Nat
  bytes : Nat
  op : AtomicOp
  operand : Word64
  cursor : BitVec 52
  rope : Nat
  deriving DecidableEq, Repr

/-- Whether a write that comes after its instruction's issue can be made: a register bound to a send port whose message it completes needs room, and
the port's rate may be used up by now (R27, R259, R260). -/
def State.arrivalTest (s : State) (c : CoreId) (dest : Option Reg) : Test :=
  match dest with
  | some (.x n) =>
    match (s.core c).regs.binding n with
    | .send p ws => s.writeTest c p ws
    | _ => .go
  | _ => .go

/-- A decided value arrives (R114, R115): the register is full with it. A value for a firing that is gone is discarded (R141). A trap of a write
that completes a message is raised like any trap of a producer (R259, R311). Where the register was bound as its producer issued and has been unbound, or bound otherwise,
since, the write follows its binding as the value arrives, though a later instruction may have written the register meanwhile: the model's choice (R49; log entry 90). -/
def State.arrive (s : State) (c : CoreId) (p : Producer) (v : Value) : State :=
  let gone := p.firing != (s.core c).firingNo || (s.core c).running.isNone
  if gone then s.modCore c fun k => k.dropProducer p.no
  else match s.arrivalTest c p.dest with
    | .go =>
      let s := s.modCore c fun k => k.dropProducer p.no
      match p.dest with
      | some g => s.putReg c g v
      | none => s
    | .stall => s
    | .trap code d =>
      let s := match p.dest with | some g => s.dropPartial c [g] | none => s
      s.modCore c fun k => k.setPending p.no (.fail code d)

/-- The outstanding atomic of a producer, with its access and how its old value fills the destination. -/
def Producer.atomicAt (p : Producer) : Option (AtomicAt × MemOp × Fill) :=
  match p.pending with
  | .atomic loc bytes op v order scope cursor rope repl fill =>
    some (⟨p.no, loc, bytes, op, v, cursor, rope⟩, ⟨p.no, loc, bytes, true, true, true, order.getLsbD 0, order.getLsbD 1, scope, repl⟩, fill)
  | _ => none

/-- The access of an update on its way, or at the sequencer. -/
def State.updateOp (s : State) (u : Update) : Option MemOp :=
  match u.work with
  | .inl e => some e.op
  | .inr n => ((s.core u.at_).producer n).bind fun p => p.atomicAt.map fun x => x.2.1

/-- Performs one element of a vector load (R217). -/
def vecPut (acc : BitVec 4096) (pos width : Nat) (v : Nat) : BitVec 4096 :=
  let m : BitVec 4096 := .ofNat 4096 ((2 ^ width - 1) * 2 ^ pos)
  (acc &&& ~~~m) ||| (BitVec.ofNat 4096 (v * 2 ^ pos) &&& m)

/-- Whether a load of the core comes after its own stores to the same bytes that are on their way to another die (R247). -/
def State.afterOwnStores (s : State) (c : CoreId) (b : MemOp) : Bool :=
  (s.flyingOf c).all fun a => !(decide (a.no < b.no) && a.overlaps b)

/-- Whether a load of a core meets a word that its die's replica has marked pending (R248, step 3). -/
def State.replicaPending (s : State) (c : CoreId) (b : MemOp) : Bool :=
  s.sequencer.any fun u => u.acks.contains (dieOf c.cluster) && (match s.updateOp u with | some o => o.sharesWord b | none => false)

/-- Whether a pending load may be performed now; one of device memory waits while its network drains or its limiter is empty (R293, R294). -/
def State.mayLoad (s : State) (c : CoreId) (b : MemOp) : Bool :=
  s.mayPerform c b && s.afterOwnStores c b && s.mayCross c b.no b.loc

/-- Whether a pending load of some bytes may be performed now: it waits at a replica's pending word, unless the core's own store buffer holds all of it (R248). -/
def State.mayRead (s : State) (c : CoreId) (b : MemOp) : Bool :=
  s.mayLoad c b && (!s.replicaPending c b || (((s.core c).older b.no).forward b.loc b.bytes).all fun f => f.2 == 0xFF)

/-- Whether the first read of a `waita` may be made now (R278): as a load's that takes no value from its core's store buffer, and waits at a word that its die's replica has
marked pending (R248). -/
def State.mayArm (s : State) (c : CoreId) (m : MemOp) : Bool :=
  s.mayLoad c m && !s.replicaPending c m && !((s.core c).older m.no).stores.any fun e => e.op.overlaps m

/-- The word of a `waita` as it is in memory: none where an error is in it (R278, R342). -/
def State.waitaWord (s : State) (loc : Nat) : Option Word64 := if s.mem.badIn loc 8 then none else some (.ofNat 64 (leNat (s.mem.read loc 8)))

/-- What a `waita` has at last read is on its way, or its ECC trap. -/
def State.waitaDone (s : State) (loc : Nat) (detail : Word64) : Pending :=
  match s.waitaWord loc with
  | some x => .waited (.word x)
  | none => .fail .ecc detail

/-- The first read of a `waita` that had issued before it (R247, R278): the monitor is armed, and stops issue, where the word is as the operand. -/
def State.armLate (s : State) (c : CoreId) (p : Producer) (w : Word64) (loc : Nat) (repl : Bool) : State :=
  if !s.mayArm c (loadOp p.no loc 8 repl) then s
  else (s.chargeAccess c.cluster loc 0 8).modCore c fun k =>
    k.setPending p.no (if s.waitaWord loc = some w then .armed loc repl s.now.toNat false else s.waitaDone loc p.detail)

/-- The answer of `mstat` (Table 11-3), for the messages that the firing had injected when it issued: `last` is the latest of them. -/
def OutPort.status (p : OutPort) (sent : Nat) (last : BitVec 16) : Word64 :=
  let mine := p.refusals.filter fun e => decide ((last - e.1).toNat < sent)
  let why := match mine with | e :: _ => e.2.toNat | [] => 0
  .ofNat 64 (sent % 256 + 2 ^ 8 * ((sent - mine.length) % 256) + 2 ^ 16 * (mine.length % 256) + 2 ^ 24 * why + 2 ^ 32 * last.toNat)

/-- A vector load reads one of the elements that it has not read, by its place among them: behind those before it that R244 puts first (R217, R240). -/
def State.readElement (s : State) (c : CoreId) (p : Producer) (es : List ElemLoad) (width : Nat) (acc : BitVec 4096) (i : Nat) : State :=
  let op (e : ElemLoad) : MemOp := loadOp p.no e.loc e.bytes e.replicated
  match es[i]? with
  | some e =>
    if s.mayRead c (op e) && (es.take i).all fun a => !ppo c [] (op a) (op e) then
      let fwd := ((s.core c).older p.no).forward e.loc e.bytes
      let acc := vecPut acc e.pos width (leNat (merged s.mem e.loc fwd))
      (s.chargeAccess c.cluster e.loc 0 e.bytes).modCore c fun k =>
        k.setPending p.no (if s.mem.loadBad e.loc fwd then .fail .ecc e.detail else .vload (es.eraseIdx i) width acc)
    else s
  | none => s

/-- A vector load of a core reads an element ahead of others (R247). -/
def State.readAhead (s : State) (c : CoreId) (prod elem : Nat) : State :=
  match (s.core c).producer prod with
  | some p => (match p.pending with | .vload es width acc => s.readElement c p es width acc elem | _ => s)
  | none => s

/-- `VALUE_ARRIVAL` (R114, R115): what a long-latency producer still has to do moves on: a load is performed, a decided value arrives, `mstat` reports once every message of its port is answered. Atomics to another die are performed by `APPLIED_AT_HOME`,
those to replicated pages by `SEQUENCER_COMMIT`; here a die-local one is (see `execValueArrival`). -/
def State.arrival (s : State) (c : CoreId) (p : Producer) : State :=
  match p.pending with
  | .ready v => s.arrive c p v
  | .answer v => s.arrive c p v
  | .waited v => s.arrive c p v
  | .poll job => s.arrive c p (.word (s.jobStatus c job))
  | .load loc n repl fill =>
    if s.mayRead c (loadOp p.no loc n repl) then
      let v := ((s.core c).older p.no).loadValue c s.mem loc n fill
      (s.chargeAccess c.cluster loc 0 n).modCore c fun k => k.setPending p.no (if v.2 then .ready v.1 else .fail .ecc p.detail)
    else s
  | .arm w loc repl => s.armLate c p w loc repl
  | .vload [] _ acc => s.arrive c p (.vec acc)
  | .vload es width acc => s.readElement c p es width acc 0
  | .mstat port wait sent last =>
    match (s.core c).curSlot.outs[port]? with
    | some q => if wait.any fun n => q.unanswered.any fun e => e.1 == n then s else s.arrive c p (.word (q.status sent last))
    | none => s
  | _ => s

/-- `LDW_SATISFY` (R143, R147): the value goes off that a write gave the load when it made the word full; a word that is full, and at which the load
was held back by an earlier access, is read now. -/
def execLdwSatisfy (c : CoreId) (prod : Nat) (s : State) : Out :=
  match (s.core c).producer prod with
  | some p =>
    match p.pending with
    | .loadFull loc fill seen =>
      let k := (s.core c).older p.no
      let now := if k.fullAt s.mem loc && s.mayPerform c (loadOp p.no (loc / 8 * 8) 8 false) then some (k.loadValue c s.mem loc fill.bytes fill) else none
      match seen.orElse fun _ => now with
      | some v => .next (s.modCore c fun k => k.setPending prod (if v.2 then .ready v.1 else .fail .ecc p.detail))
      | none => .next s
    | _ => .next s
  | none => .next s

/-- An update leaves a core for another home, or for the sequencer. -/
def State.newUpdate (s : State) (c : CoreId) (work : StoreEntry ⊕ Nat) : Update := ⟨s.fresh, c, work, []⟩

/-- `STORE_DRAIN` (R136, R244, R248): the oldest entry leaves the store buffer. It is applied at once where its home is the core's die, goes on
its way where the home is another die, and goes to the sequencer where its page is replicated; that entry drains at the commit. Each element of a vector
store goes on its own (R217, R240). A store to device memory waits while its network drains or its limiter is empty (R293, R294). -/
def execStoreDrain (c : CoreId) (s : State) : Out :=
  match (s.core c).stores with
  | [] => .next s
  | e :: r =>
    let earlier := s.mayPerform c e.op
    if s.netDrains c.cluster e.op.loc || !s.netOpen c.cluster e.op.loc then .next s
    else if e.replicated then
      if e.sent || !earlier then .next s
      else .next { ((s.chargeAccess c.cluster e.op.loc e.bytes.length 0).modCore c fun k => { k with stores := { e with sent := true } :: r }) with
        sequencer := s.sequencer ++ [s.newUpdate c (.inl e)], fresh := s.fresh + 1 }
    else if homeDie e.op.loc = dieOf c.cluster then
      if earlier then
        .next (((s.chargeAccess c.cluster e.op.loc e.bytes.length 0).modCore c fun k => { k with stores := r }).modMem (some c) e.op.loc e.op.bytes fun m => m.apply e)
      else .next s
    else if (s.unperformed c).all (fun a => !(decide (a.no < e.no) && a.load && ppo c (s.core c).fences a e.op)) then
      .next { ((s.chargeAccess c.cluster e.op.loc e.bytes.length 0).modCore c fun k => { k with stores := r }) with
        flying := s.flying ++ [s.newUpdate c (.inl e)], fresh := s.fresh + 1 }
    else .next s

end Sys2Proof.Machine
end

