-- ==== Sys2Proof/Machine/Sync.lean ====
section
/-! DEFINITION. Atomics, fences, `waita`, barriers, and the events at a word's home (R244, R248, R271 to R283). -/

namespace Sys2Proof.Machine

/-! ## Atomics -/

/-- The value of a word in an AtomicOp's arithmetic on f values, without events and rounded to nearest (R190, R273). -/
def atomicFloat (bytes : Nat) (op : Fmt → Nat → Nat → Nat × Events) (old v : Nat) : Nat :=
  (op (if bytes = 4 then fmtF32 else fmtF64) old v).1

/-- The new word of an atomic (R272 to R274). -/
def AtomicOp.apply (op : AtomicOp) (bytes : Nat) (old v : Word64) : Word64 :=
  match op with
  | .add => old + v
  | .addz => old + v
  | .and => old &&& v
  | .or => old ||| v
  | .xor => old ^^^ v
  | .min => minS old v
  | .max => maxS old v
  | .minn => minN old v
  | .maxn => maxN old v
  | .swap => v
  | .cas e => if old = e then v else old
  | .fadd => .ofNat 64 (atomicFloat bytes (fun f x y => addBits f .nearest x y) old.toNat v.toNat)
  | .fmin => .ofNat 64 (atomicFloat bytes (fun f x y => f.minMax false false x y) old.toNat v.toNat)
  | .fmax => .ofNat 64 (atomicFloat bytes (fun f x y => f.minMax true false x y) old.toNat v.toNat)
  | .fminn => .ofNat 64 (atomicFloat bytes (fun f x y => f.minMax false true x y) old.toNat v.toNat)
  | .fmaxn => .ofNat 64 (atomicFloat bytes (fun f x y => f.minMax true true x y) old.toNat v.toNat)

/-- The first cluster of a quadrant die, by its Hilbert index (R85). -/
def dieBase (die : Nat) : Nat :=
  match die with
  | 0 => 0
  | 1 => 192
  | 2 => 64
  | _ => 128

/-- The cluster at whose router a counter's notification is injected (R275). Of a counter on a replicated page, whose stores have all four dies as home, it lies on the die of the
page's frame: the model's choice (log entry 6). -/
def notifyCluster (loc : Nat) : Nat :=
  match clusterOfLoc loc with
  | some cl => cl
  | none => dieBase (homeDie loc) + (Config.notifyRouter (.ofNat 39 loc)).val

/-- Whether a sender is an atomic unit of a die. -/
def Sender.atomicOf (die : Nat) : Sender → Bool
  | .atomicUnit cl _ => dieOf cl == die
  | _ => false

/-- The notifications in the notify queue of a die: held ones, and those whose answer is awaited (R275). That these take places too, and not only those that FULL has refused, is
the model's choice (log entry 109). -/
def State.noticesOf (s : State) (die : Nat) : Nat :=
  (s.notices.filter fun n => n.packet.sender.atomicOf die).length + (s.flight.filter fun p => p.sender.atomicOf die).length

/-- Emits the notification of a counter that reached zero (R275): its notify word lies after it. It is injected once every access that its core issued before the `aaddz` is
performed (R245, cases 1 and 3), and waits for them in the notify queue of the home (log entry 109). -/
def State.notify (s : State) (c : CoreId) (x : AtomicAt) : State :=
  let w := leNat (s.mem.read (x.loc + 8) 8)
  if bitsOf w 36 12 ≠ 0 ∨ bitsOf w 33 3 ≠ 0 then s.loseNotice x.rope
  else
    let cl := notifyCluster x.loc
    let vf := match s.ropes.get x.rope with | some r => r.vf | none => 0
    let dest : Word64 := .ofNat 64 (bitsOf w 0 36)
    let msg := plainMsg 0x01 [.ofNat 64 (bitsOf w 48 16), .ofNat 64 x.cursor.toNat]
    if s.allPerformed c x.no then s.inject (.atomicUnit cl x.rope) vf cl dest msg 0 none
    else { s with
      notices := s.notices ++ [⟨s.fresh, ⟨s.fresh, .atomicUnit cl x.rope, vf, cl, dest, msg, 0, none⟩, some (c, x.no)⟩]
      fresh := s.fresh + 1 }

/-- The old value of an atomic's word. -/
def State.atomicOld (s : State) (x : AtomicAt) : Word64 := .ofNat 64 (leNat (s.mem.read x.loc x.bytes))

/-- Whether an atomic is an `aaddz` that would reach zero (R275). -/
def State.atomicZero (s : State) (x : AtomicAt) : Bool := x.op == .addz && s.atomicOld x + x.operand == 0

/-- Whether an `aaddz` would reach zero while the notify queue of the home is full (R275). -/
def State.atomicWaits (s : State) (x : AtomicAt) : Bool :=
  s.atomicZero x && decide (32 ≤ s.noticesOf (homeDie x.loc))

/-- Whether a word that an atomic reads holds an uncorrectable error: its own, and of an `aaddz` that reaches zero the notify word (R275, R342). -/
def State.atomicBad (s : State) (x : AtomicAt) : Bool := s.mem.badIn x.loc x.bytes || (s.atomicZero x && s.mem.badIn (x.loc + 8) 8)

/-- Performs an atomic at its home, as one step (R271): the word is written, its granule's tag cleared, its full/empty bit left. -/
def State.performAtomic (s : State) (c : CoreId) (x : AtomicAt) : State :=
  let new := x.op.apply x.bytes (s.atomicOld x) x.operand
  let t := s.modMem (some c) x.loc x.bytes fun m => (m.write x.loc (leBytes x.bytes new.toNat)).setTag x.loc false
  if x.op == .addz && new == 0 then t.notify c x else t

/-- Issues an atomic that reads its address through a capability (R271): `n` is what `AccessCheck` covers. -/
def State.atomicIssue (s0 s : State) (c : CoreId) (cap : Cap) (n bytes : Nat) (op : AtomicOp) (v : Word64) (order : BitVec 2) (scope : BitVec 3)
    (fill : Fill) (g : Reg) : Act :=
  let a : Int := cap.cursor.toNat
  let k := s.core c
  match s.accessCheck c cap a n .atomic with
  | .trap code d => .trap s0 code d
  | .miss va w => .miss va w none
  | .stall => .stall
  | .emulated old =>
    if 32 ≤ k.loadsOut then .stall else .done (s.produce c (some g) 0 (.ready (fillValue c 0 false (leBytes bytes old.toNat) fill)))
  | .ok loc repl =>
    let x : AtomicAt := ⟨k.opNo, loc, bytes, op, v, cap.cursor, k.curSlot.rope⟩
    let m : MemOp := ⟨k.opNo, loc, bytes, true, true, true, order.getLsbD 0, order.getLsbD 1, scope, repl⟩
    if cap.space = 1 ∧ !k.late then
      if !k.stores.isEmpty || !s.mayPerform c m || s.atomicWaits x then .stall
      else if s.atomicBad x then .trap s0 .ecc (accessDetail a cap.space true)
      else .done (((s.performAtomic c x).putReg c g (fillValue c loc false (leBytes bytes (s.atomicOld x).toNat) fill)).advance c)
    else if cap.space = 1 then
      .done (s.defer c g (accessDetail a cap.space true) (.atomic loc bytes op v order scope cap.cursor k.curSlot.rope repl fill))
    else if 32 ≤ k.loadsOut then .stall
    else
      let t := s.produce c (some g) (accessDetail a cap.space true) (.atomic loc bytes op v order scope cap.cursor k.curSlot.rope repl fill)
      if !repl && homeDie loc != dieOf c.cluster then
        .done { t with flying := t.flying ++ [t.newUpdate c (.inr k.opNo)], fresh := t.fresh + 1 }
      else .done t

/-- The common form of major 0x1C (R272). -/
def atomicInt (s : State) (d c b : BitVec 5) (u v : Bool) (o : BitVec 2) (sz : BitVec 3) (op : AtomicOp) : Out :=
  s.issue s.cur [⟨.c c, u⟩, ⟨.x b, v⟩] (s.loadDest s.cur ((s.core s.cur).regs.readC c).space (.x d)) fun s0 =>
    let (w, s) := s0.takeX s0.cur b
    s0.atomicIssue s s.cur ((s.core s.cur).regs.readC c) (if op == .addz then 16 else 8) 8 op w o sz (.zeroed 8) (.x d)

/-- The common form of major 0x1D (R273): `t` selects f32. -/
def atomicFp (s : State) (d c b : BitVec 5) (u v t : Bool) (o : BitVec 2) (sz : BitVec 3) (op : AtomicOp) : Out :=
  s.issue s.cur [⟨.c c, u⟩, ⟨.f b, v⟩] [.f d] fun s =>
    let r := (s.core s.cur).regs
    let f := if t then fmtF32 else fmtF64
    let n := if t then 4 else 8
    s.atomicIssue s s.cur (r.readC c) n n op (.ofNat 64 (r.bitsF f b)) o sz (.boxed n) (.f d)

/-- `aadd` (R272). -/
def execAadd (d c b : BitVec 5) (u v : Bool) (o : BitVec 2) (sz : BitVec 3) (s : State) : Out := atomicInt s d c b u v o sz .add
/-- `aand` (R272). -/
def execAand (d c b : BitVec 5) (u v : Bool) (o : BitVec 2) (sz : BitVec 3) (s : State) : Out := atomicInt s d c b u v o sz .and
/-- `aor` (R272). -/
def execAor (d c b : BitVec 5) (u v : Bool) (o : BitVec 2) (sz : BitVec 3) (s : State) : Out := atomicInt s d c b u v o sz .or
/-- `axor` (R272). -/
def execAxor (d c b : BitVec 5) (u v : Bool) (o : BitVec 2) (sz : BitVec 3) (s : State) : Out := atomicInt s d c b u v o sz .xor
/-- `amin` (R272). -/
def execAmin (d c b : BitVec 5) (u v : Bool) (o : BitVec 2) (sz : BitVec 3) (s : State) : Out := atomicInt s d c b u v o sz .min
/-- `amax` (R272). -/
def execAmax (d c b : BitVec 5) (u v : Bool) (o : BitVec 2) (sz : BitVec 3) (s : State) : Out := atomicInt s d c b u v o sz .max
/-- `aminn` (R272). -/
def execAminn (d c b : BitVec 5) (u v : Bool) (o : BitVec 2) (sz : BitVec 3) (s : State) : Out := atomicInt s d c b u v o sz .minn
/-- `amaxn` (R272). -/
def execAmaxn (d c b : BitVec 5) (u v : Bool) (o : BitVec 2) (sz : BitVec 3) (s : State) : Out := atomicInt s d c b u v o sz .maxn
/-- `aswap` (R272). -/
def execAswap (d c b : BitVec 5) (u v : Bool) (o : BitVec 2) (sz : BitVec 3) (s : State) : Out := atomicInt s d c b u v o sz .swap
/-- `aaddz` (R275). -/
def execAaddz (d c b : BitVec 5) (u v : Bool) (o : BitVec 2) (sz : BitVec 3) (s : State) : Out := atomicInt s d c b u v o sz .addz
/-- `afadd` (R273). -/
def execAfadd (d c b : BitVec 5) (u v t : Bool) (o : BitVec 2) (sz : BitVec 3) (s : State) : Out := atomicFp s d c b u v t o sz .fadd
/-- `afmin` (R273). -/
def execAfmin (d c b : BitVec 5) (u v t : Bool) (o : BitVec 2) (sz : BitVec 3) (s : State) : Out := atomicFp s d c b u v t o sz .fmin
/-- `afmax` (R273). -/
def execAfmax (d c b : BitVec 5) (u v t : Bool) (o : BitVec 2) (sz : BitVec 3) (s : State) : Out := atomicFp s d c b u v t o sz .fmax
/-- `afminn` (R273). -/
def execAfminn (d c b : BitVec 5) (u v t : Bool) (o : BitVec 2) (sz : BitVec 3) (s : State) : Out := atomicFp s d c b u v t o sz .fminn
/-- `afmaxn` (R273). -/
def execAfmaxn (d c b : BitVec 5) (u v t : Bool) (o : BitVec 2) (sz : BitVec 3) (s : State) : Out := atomicFp s d c b u v t o sz .fmaxn

/-- `cas` (R274): rd gives the expected value, and always waits. Where one bound port register gives rs2 and rd, rd takes the later word: the model's
choice, since R53 orders rs1 and rs2 only (log entry 66). -/
def execCas (d c b : BitVec 5) (u v : Bool) (o : BitVec 2) (sz : BitVec 3) (s : State) : Out :=
  s.issue s.cur [⟨.c c, u⟩, ⟨.x b, v⟩, ⟨.x d, false⟩] [.x d] fun s0 =>
    let (w, s) := s0.takeX s0.cur b
    let (e, s) := s.takeX s.cur d
    s0.atomicIssue s s.cur ((s.core s.cur).regs.readC c) 8 8 (.cas e) w o sz (.zeroed 8) (.x d)

/-- Whether an outstanding atomic may be performed now: after every earlier store of its core drained, and after what R244 puts before it; one of device memory
waits while its network drains or its limiter is empty (R293, R294). -/
def State.mayAtomic (s : State) (c : CoreId) (x : AtomicAt) (m : MemOp) : Bool :=
  (s.core c).stores.all (fun e => decide (m.no < e.no)) && s.mayPerform c m && !s.atomicWaits x && s.mayCross c m.no x.loc

/-- Performs an outstanding atomic: its old value is on its way to its register; a word that holds an error is left, and its trap comes back (R342). -/
def State.atomicAtHome (s : State) (c : CoreId) (p : Producer) (x : AtomicAt) (fill : Fill) : State :=
  let s := s.chargeAccess c.cluster x.loc x.bytes x.bytes
  if s.atomicBad x then s.modCore c fun k => k.setPending p.no (.fail .ecc p.detail)
  else
    let old := fillValue c x.loc false (leBytes x.bytes (s.atomicOld x).toNat) fill
    (s.performAtomic c x).modCore c fun k => k.setPending p.no (.ready old)

/-- `VALUE_ARRIVAL` (R115). An atomic on the core's own die is performed first; one to a replicated page leaves for the sequencer. -/
def execValueArrival (c : CoreId) (prod : Nat) (s : State) : Out :=
  match (s.core c).producer prod with
  | none => .next s
  | some p =>
    match p.atomicAt with
    | none => .next (s.arrival c p)
    | some (x, m, fill) =>
      if !s.mayAtomic c x m then .next s
      else if m.replicated then
        (if s.sequencer.any fun u => u.at_ == c && (match u.work with | .inr n => n == prod | _ => false) then .next s
        else .next { s with sequencer := s.sequencer ++ [s.newUpdate c (.inr prod)], fresh := s.fresh + 1 })
      else if homeDie x.loc = dieOf c.cluster then .next (s.atomicAtHome c p x fill)
      else .next s

/-- Whether no update before this one in a list touches the same bytes. -/
def State.firstOfLocation (s : State) (us : List Update) (u : Update) : Bool :=
  match s.updateOp u with
  | some m => (us.takeWhile fun w => w.no != u.no).all fun w => match s.updateOp w with | some o => !o.overlaps m | none => true
  | none => true

/-- `APPLIED_AT_HOME` (R244): a store or an atomic arrives at its home on another die. -/
def execAppliedAtHome (upd : Nat) (s : State) : Out :=
  match s.flying.find? fun u => u.no == upd with
  | none => .next s
  | some u =>
    let rest := s.flying.filter fun w => w.no != upd
    match u.work with
    | .inl e =>
      -- earlier accesses of the core that R244 puts before it, by location, by a fence or by an atomic's order
      if s.mayPerform u.at_ e.op then
        .next ({ s with flying := rest }.modMem (some u.at_) e.op.loc e.op.bytes fun m => m.apply e)
      else .next s
    | .inr n =>
      match (s.core u.at_).producer n with
      | none => .next { s with flying := rest }
      | some p =>
        match p.atomicAt with
        | none => .next { s with flying := rest }
        | some (x, m, fill) =>
          if s.mayAtomic u.at_ x m then .next ({ s with flying := rest }.atomicAtHome u.at_ p x fill) else .next s

/-- A die's replica marks the word of an update at the sequencer pending, and acknowledges; the updates of one location keep their order (R248, step 3). -/
def State.replicaAck (s : State) (upd die : Nat) : State :=
  { s with sequencer := s.sequencer.map fun u =>
      if u.no = upd ∧ die < 4 ∧ !u.acks.contains die ∧ s.firstOfLocation s.sequencer u then { u with acks := die :: u.acks } else u }

/-- Whether all four replicas have acknowledged an update (R248, step 4). -/
def Update.acknowledged (u : Update) : Bool := (List.range 4).all fun d => u.acks.contains d

/-- Whether an update that all replicas have acknowledged waits at the sequencer: for a stack that takes no access (R361), or, an `aaddz`, for the notify queue (R275). -/
def State.commitWaits (s : State) (u : Update) : Bool :=
  (match s.updateOp u with | some o => s.writeAsleep o.loc true | none => false)
    || match u.work with
      | .inl _ => false
      | .inr n => (((s.core u.at_).producer n).bind Producer.atomicAt).any fun x => s.atomicWaits x.1

/-- `SEQUENCER_COMMIT` (R248): once all four replicas have acknowledged, the update is applied on all four dies together, and the pending marks are
cleared; a store's buffer entry drains, an atomic returns its old value. -/
def execSequencerCommit (upd : Nat) (s : State) : Out :=
  match s.sequencer.find? fun u => u.no == upd with
  | none => .next s
  | some u =>
    if !s.firstOfLocation s.sequencer u || !u.acknowledged || s.commitWaits u then .next s else
    let t := { s with sequencer := s.sequencer.filter fun w => w.no != upd }
    match u.work with
    | .inl e =>
      .next ((t.modCore u.at_ fun k => { k with stores := k.stores.filter fun x => x.no != e.no }).modMem
        (some u.at_) e.op.loc e.op.bytes fun m => m.apply e)
    | .inr n =>
      match (s.core u.at_).producer n with
      | none => .next t
      | some p =>
        match p.atomicAt with
        | none => .next t
        | some (x, _, fill) => .next (t.atomicAtHome u.at_ p x fill)

/-! ## Fences -/

/-- `fence` (R277): `o` is 1 for acquire, 2 for release, 3 for both. A release that goes on while a load is outstanding is kept, since it orders
that load before later stores, atomics, injections and jobs (R244, case 7). -/
def execFence (o : BitVec 2) (sz : BitVec 3) (s : State) : Out :=
  s.issue s.cur [] [] fun s =>
    let k := s.core s.cur
    let loads := k.loadsLeft != 0
    let stores := if sz.toNat ≤ 2 then !k.stores.isEmpty else !s.storesApplied s.cur
    if (o.getLsbD 0 && loads) || (o.getLsbD 1 && stores) then .stall
    else if o.getLsbD 1 && loads then .done ((s.modCore s.cur fun k => { k with fences := k.fences ++ [(k.opNo, sz)] }).advance s.cur)
    else .done (s.advance s.cur)

/-! ## Waiting on a word -/

/-- What a `waita` read is on its way to its register; the next instruction may issue. Its reread waits for a stack that is asleep (R361), and at a word that its die's
replica has marked pending (R248, step 3). -/
def State.endWaita (s : State) (c : CoreId) (no loc : Nat) (replicated stopped : Bool) : State :=
  if s.copyAsleep c.cluster loc replicated || s.replicaPending c (loadOp no loc 8 replicated) then s else
  let detail := match (s.core c).producer no with | some p => p.detail | none => 0
  let t := s.modCore c fun k => k.setPending no (s.waitaDone loc detail)
  if stopped then t.endWait c else t

/-- `waita` (R278): it takes no value from the core's own store buffer, so it comes after the core's stores to the word. Its destination is empty until
the value arrives (R114). Its first read is performed at its issue, or, where the agenda has it so, later, as R247 allows of a load (`armLate`). Whether issue stops for the way
to the home is not said: the model's reading (log entry 98). A core has one monitor, so that a second `waita` waits for the first. -/
def execWaita (d c b : BitVec 5) (u v : Bool) (s : State) : Out :=
  s.issue s.cur [⟨.c c, u⟩, ⟨.x b, v⟩] (s.lateDest s.cur (.x d)) fun s0 =>
    let (w, s) := s0.takeX s0.cur b
    let cap := (s.core s.cur).regs.readC c
    let a : Int := cap.cursor.toNat
    let detail := accessDetail a cap.space false
    match s.accessCheck s.cur cap a 8 .waita with
    | .trap code e => .trap s0 code e
    | .miss va wr => .miss va wr none
    | .stall => .stall
    | .emulated x => .done (s.produce s.cur (some (.x d)) detail (.waited (.word x)))
    | .ok loc repl =>
      let k := s.core s.cur
      if k.prods.any Producer.waiting then .stall
      else if k.late then .done ((s.produce s.cur (some (.x d)) detail (.arm w loc repl)).modCore s.cur fun k => { k with late := false })
      else if !s.mayArm s.cur (loadOp k.opNo loc 8 repl) then .stall
      else match s.waitaWord loc with
      | none => .trap s0 .ecc detail
      | some x =>
        let s := s.chargeAccess s.cur.cluster loc 0 8
        if x = w then .done ((s.addProducer s.cur (some (.x d)) detail .monitor).waitFor s.cur (.waita k.opNo loc repl s.now.toNat false))
        else .done (s.produce s.cur (some (.x d)) detail (.waited (.word x)))

/-- The monitor of a core's `waita`: the number of its producer, the location, whether its page is replicated, the time of arming, whether a wake event came, and whether it
stopped issue at the `waita` itself. -/
def Core.monitor (k : Core) : Option (Nat × Nat × Bool × Nat × Bool × Bool) :=
  match k.wait with
  | .waita no loc repl since woken => some (no, loc, repl, since, woken, true)
  | _ => k.prods.findSome? fun p => match p.pending with | .armed loc repl since woken => some (p.no, loc, repl, since, woken, false) | _ => none

/-- `WAITA_WAKE` (R279). -/
def execWaitaWake (c : CoreId) (s : State) : Out :=
  match (s.core c).monitor with
  | some (no, loc, repl, _, true, stopped) => .next (s.endWaita c no loc repl stopped)
  | _ => .next s

/-- `WAITA_TIMEOUT` (R279): 2^20 ticks after arming. -/
def execWaitaTimeout (c : CoreId) (s : State) : Out :=
  match (s.core c).monitor with
  | some (no, loc, repl, since, _, stopped) => if since + 2 ^ 20 ≤ s.now.toNat then .next (s.endWaita c no loc repl stopped) else .next s
  | none => .next s

/-! ## Barriers -/

/-- Whether a barrier arrival of a core may count: as a release it waits for the core's stores, and everything the core issued
before is performed (R245, R280, R281). -/
def State.mayArrive (s : State) (c : CoreId) : Bool := (s.core c).stores.isEmpty && s.allPerformed c (s.core c).opNo

/-- `cbar` (R280): arrives at the strand's cluster barrier, and waits. -/
def execCbar (s : State) : Out :=
  s.issue s.cur [] [] fun s =>
    if !s.mayArrive s.cur then .stall
    else
      let t := (s.core s.cur).curSlot
      .done ((s.modRope t.rope fun r =>
        { r with strands := modAt r.strands t.strand fun st => { st with arrived := st.arrived ++ [s.cur.core] } }).waitFor s.cur .cbar)

/-- An arrival at the rope's barrier tree, with a `bmin`'s destination and value (R281, R282). -/
def State.arriveTree (s : State) (c : CoreId) (rd : Option (BitVec 5)) (v : Option Word64) : State :=
  (s.modRope (s.core c).curSlot.rope fun r => { r with tree := r.tree ++ [(c.cluster, c.core, v)] }).waitFor c (.tree rd)

/-- `gbar` (R281). -/
def execGbar (s : State) : Out :=
  s.issue s.cur [] [] fun s => if s.mayArrive s.cur then .done (s.arriveTree s.cur none none) else .stall

/-- `bmin` (R282). -/
def execBmin (d a : BitVec 5) (u : Bool) (s : State) : Out :=
  s.issue s.cur [⟨.x a, u⟩] (s.lateDest s.cur (.x d)) fun s =>
    if s.mayArrive s.cur then
      let (v, s) := s.takeX s.cur a
      .done (s.arriveTree s.cur (some d) (some v))
    else .stall

/-- `CLUSTER_BARRIER_COMPLETE` (R280): every gang core of the strand has arrived; the slots of the actors that arrived are barred. In a
rope of one strand it is a shed point (R352). -/
def execClusterBarrierComplete (rope strand : Nat) (s : State) : Out :=
  match s.ropes.get rope with
  | none => .next s
  | some r =>
    match r.strands[strand]? with
    | none => .next s
    | some st =>
      if st.arrived.isEmpty || !(r.gang strand).all (fun k => st.arrived.contains k) then .next s
      else
        let s := s.modRope rope fun r => { r with strands := modAt r.strands strand fun st => { st with arrived := [] } }
        let s := st.arrived.foldl (fun s k =>
          (s.endWait ⟨st.cluster, k⟩).modCore ⟨st.cluster, k⟩ fun k => k.modCur fun t => { t with barred := true }) s
        .next (if r.strands.length = 1 then (s.modRope rope Rope.atShedPoint).settleShed else s)

/-- The gang cores of all strands of a rope. -/
def Rope.gangCores (r : Rope) : List (Nat × Nat) :=
  ((r.strands.zipIdx).map fun (st, i) => (r.gang i).map fun k => (st.cluster, k)).flatten

/-- The least value that an instance carries (R282). -/
def leastOf (vs : List Word64) : Word64 := vs.foldl (fun a b => if b.toNat < a.toNat then b else a) (BitVec.allOnes 64)

/-- What the write of a `bmin` at its core would find: its destination may complete a message, or exceed its port's rate by now (R27, R260). -/
def State.bminTest (s : State) (c : CoreId) : Test :=
  match (s.core c).wait with
  | .tree (some d) => s.arrivalTest c (some (.x d))
  | _ => .go

/-- A core's wait at the barrier tree is over (R281, R282): a `bmin` writes the least value; where that would exceed its port's rate it traps RATE instead. -/
def State.leaveTree (s : State) (c : CoreId) (least : Word64) : State :=
  match (s.core c).wait with
  | .tree (some d) =>
    match s.bminTest c with
    | .trap code detail =>
      let pc := (s.core c).regs.pc
      (s.dropPartial c [.x d]).takeTrap c code detail pc (some (pc + 4))
    | _ => (s.putX c d least).endWait c
  | _ => s.endWait c

/-- `BARRIER_TREE_COMPLETE` (R281, R282): every gang core of every strand has arrived, and no `bmin` waits for room in its core's send queue. It is a
shed point of the rope (R352). -/
def execBarrierTreeComplete (rope : Nat) (s : State) : Out :=
  match s.ropes.get rope with
  | none => .next s
  | some r =>
    if r.tree.isEmpty || !(r.gangCores).all (fun g => r.tree.any fun a => (a.1, a.2.1) == g)
      || r.tree.any (fun a => s.bminTest ⟨a.1, a.2.1⟩ == .stall) then .next s
    else
      let least := leastOf (r.tree.filterMap fun a => a.2.2)
      let s := s.modRope rope fun r => { r.atShedPoint with tree := [] }
      .next ((r.tree.foldl (fun s a => s.leaveTree ⟨a.1, a.2.1⟩ least) s).settleShed)

end Sys2Proof.Machine
end

