-- ==== Sys2Proof/Machine/Messages.lean ====
section
/-! DEFINITION. The message instructions, and the events of a message's way (R257 to R268, R275, R312, R337). -/

namespace Sys2Proof.Machine

/-! ## Instructions -/

/-- Unbinds a port register, which then holds zero; so does one that was not bound (R266). What a stream still had buffered goes back to its job, which may be bound again:
the model's choice, since R155, R156 and R266 are silent on it (log entry 106). -/
def State.unbind (s : State) (c : CoreId) (n : BitVec 5) : State :=
  match (s.core c).regs.binding n with
  | .stream id gen ws _ =>
    let s := s.modJob c.cluster id fun j => if j.gen = gen then { j with buf := ws, bound := false } else j
    s.modRegs c fun r => (r.setBinding n .unbound).putX n 0
  | _ => s.modRegs c fun r => (r.setBinding n .unbound).putX n 0

/-- Whether a port register is bound to an input port, or to a send port. -/
def Binding.isRecv (b : Binding) (k : Nat) : Bool :=
  match b with
  | .recv p => p == k
  | _ => false
def Binding.isSend (b : Binding) (k : Nat) : Bool :=
  match b with
  | .send p _ => p == k
  | _ => false

/-- Binds a register: what was bound to the same port, and the register itself, are unbound first (R265). -/
def State.rebind (s : State) (c : CoreId) (n : BitVec 5) (same : Binding → Bool) (b : Binding) : State :=
  let s := ([24, 25, 26, 27] : List (BitVec 5)).foldl (fun s m => if same ((s.core c).regs.binding m) then s.unbind c m else s) s
  (s.unbind c n).modRegs c fun r => r.setBinding n b

/-- Whether a register still waits for a value, so that it cannot be bound, unbound or written: one that is not bound, or one whose load is performed late (R247). -/
def Core.awaits (k : Core) (n : BitVec 5) : Bool := (k.regs.binding n == .unbound && k.regs.isEmpty (.x n)) || k.latePending (.x n)


/-- `pbind` of an input port (R265). -/
def execPbindRecv (d : BitVec 5) (k : BitVec 3) (s : State) : Out :=
  s.issue s.cur [] [] fun s =>
    let c := s.core s.cur
    if c.awaits d then .stall
    else if (c.curSlot.ins[k.toNat]?).isNone then .trap s .port (portDetail k.toNat false)
    else .done ((s.rebind s.cur d (·.isRecv k.toNat) (.recv k.toNat)).advance s.cur)

/-- `pbind` of a send port (R265). -/
def execPbindSend (d : BitVec 5) (k : BitVec 3) (s : State) : Out :=
  s.issue s.cur [] [] fun s =>
    let c := s.core s.cur
    if c.awaits d || c.sendLate then .stall
    else if (c.curSlot.outs[k.toNat]?).isNone then .trap s .port (portDetail k.toNat true)
    else .done ((s.rebind s.cur d (·.isSend k.toNat) (.send k.toNat [])).advance s.cur)

/-- `pbind` of a stream (R155): ENGINE unless X[rs1] names a stream job of this firing that is not bound and not stale. -/
def execPbindStream (d a : BitVec 5) (u : Bool) (s : State) : Out :=
  s.issue s.cur [⟨.x a, u⟩] [] fun s0 =>
    let (v, s) := s0.takeX s0.cur a
    let c := s.core s.cur
    match s.jobNamed s.cur v with
    | none => if c.awaits d then .stall else .trap s0 .engine (.ofNat 64 ((encode (.pbindStream d a u)).getD 0).toNat)
    | some (id, j) =>
      let mine := (match j.work with | .stream _ => true | _ => false) && j.core == s.cur.core && j.firing == c.firingNo
      if c.awaits d then .stall
      else if !mine || j.bound then .trap s0 .engine (.ofNat 64 ((encode (.pbindStream d a u)).getD 0).toNat)
      else
        let s := s.rebind s.cur d (fun _ => false) (.stream id j.gen j.buf j.undelivered)
        .done ((s.modJob s.cur.cluster id fun j => { j with buf := [], bound := true }).advance s.cur)

/-- `punbind` (R266). -/
def execPunbind (d : BitVec 5) (s : State) : Out :=
  s.issue s.cur [] [] fun s => if (s.core s.cur).awaits d then .stall else .done ((s.unbind s.cur d).advance s.cur)

/-- Whether a register holds a partial message of a send port (R258). -/
def Regs.sendPartial (r : Regs) (k : Nat) : Bool :=
  r.bind.toList.any fun b => match b with | .send p ws => p == k && !ws.isEmpty | _ => false

/-- The checks of `msend` (R258), in their order. -/
def State.msendTest (s : State) (c : CoreId) (k : Nat) : Test :=
  let q := s.core c
  if q.sendLate then .stall
  else match q.curSlot.outs[k]? with
  | none => .trap .port (portDetail k true)
  | some p =>
    if p.dest.toNat % 2 ^ 36 = 0 ∨ 2 < wordsOf p.typ ∨ q.regs.sendPartial k then .trap .port (portDetail k true) else s.sendTest c k

/-- `msend` (R258): rs2 is read, and ignored for a message of one word. -/
def execMsend (a b : BitVec 5) (u v : Bool) (k : BitVec 3) (s : State) : Out :=
  s.issue s.cur [⟨.x a, u⟩, ⟨.x b, v⟩] [] fun s0 =>
    let (w0, s) := s0.takeX s0.cur a
    let (w1, s) := s.takeX s.cur b
    match s0.msendTest s0.cur k.toNat with
    | .trap code e => .trap s0 code e
    | .stall => .stall
    | .go =>
      let n := match (s.core s.cur).curSlot.outs[k.toNat]? with | some p => wordsOf p.typ | none => 1
      .done ((s.send s.cur k.toNat ([w0, w1].take n)).advance s.cur)

/-- `mcount` (R267). -/
def execMcount (d : BitVec 5) (k : BitVec 3) (s : State) : Out :=
  s.issue s.cur [] [.x d] fun s =>
    match (s.core s.cur).curSlot.ins[k.toNat]? with
    | none => .trap s .port (portDetail k.toNat false)
    | some p =>
      let (free, mine) := if p.rate = 0 then (p.msgs.length, 0) else (p.unclaimed, p.claimed)
      .done (s.putXNext s.cur d (.ofNat 64 (free % 128 + 2 ^ 8 * (mine % 128))))

/-- `mstat` (R261). -/
def execMstat (d : BitVec 5) (k : BitVec 3) (s : State) : Out :=
  s.issue s.cur [] (s.lateDest s.cur (.x d)) fun s =>
    if (s.core s.cur).sendLate then .stall
    else match (s.core s.cur).curSlot.outs[k.toNat]? with
    | none => .trap s .port (portDetail k.toNat true)
    | some p =>
      .done (s.produce s.cur (some (.x d)) 0
        (.mstat k.toNat (p.unanswered.map Prod.fst) p.sent (if p.used then p.seq - 1 else 0xFFFF)))

/-- `mbind` (R257). The PORT trap names the send port k, also where RP is no port of type `sys:2`: Table 16-3 does not say which of the two, so it is the model's choice (log
entry 107). -/
def execMbind (a : BitVec 5) (u : Bool) (k : BitVec 3) (s : State) : Out :=
  s.issue s.cur [⟨.x a, u⟩] [] fun s0 =>
    let (w, s) := s0.takeX s0.cur a
    let t := (s.core s.cur).curSlot
    if (s.core s.cur).sendLate then .stall else
    let replyOk := !w.getLsbD 39 || (match t.ins[bitsOf w.toNat 36 3]? with | some q => q.typ == 0x19 | none => false)
    if (t.outs[k.toNat]?).isNone || decide (2 ^ 40 ≤ w.toNat) || !replyOk then .trap s0 .port (portDetail k.toNat true)
    else .done ((s.modCore s.cur fun c => c.modCur fun t => { t with outs := modAt t.outs k.toNat fun p => { p with dest := w } }).advance s.cur)

/-! ## Events -/

/-- The capability granule of a sending actor, localised as it leaves the scratchpad (R138, R268). Words that hold an uncorrectable error go as they stand, since R342 has no row
for this read: the model's choice (log entry 88). -/
def State.granuleCap (s : State) (c : CoreId) (loc : Nat) : Cap :=
  (Cap.ofNat (leNat (s.mem.read loc 16)) (s.mem.tag loc)).toPeer c.core

/-- The message that an entry of a send queue becomes at its injection (R268). -/
def State.injectedMsg (s : State) (c : CoreId) (e : SendEntry) : Msg :=
  if kindOf e.msg.typ = 2 ∧ e.port.isSome then
    let cap := s.granuleCap c e.granule
    { e.msg with
      words := .ofNat 64 cap.toNat :: .ofNat 64 (cap.toNat / 2 ^ 64) :: e.msg.words.drop 2
      tag := e.msg.tag && cap.tag }
  else e.msg

/-- `MESSAGE_INJECT` (R260): the oldest entry of the core's send queue leaves once everything its sender issued before is performed (R245). -/
def execMessageInject (c : CoreId) (s : State) : Out :=
  match (s.core c).sendQ with
  | [] => .next s
  | e :: rest =>
    let vf := match s.ropes.get e.rope with | some r => r.vf | none => 0
    let part := s.partOfVf vf
    if !s.allPerformed c e.opNo || s.draining part || !s.limiterOpen part c.cluster then .next s
    else
      let m := s.injectedMsg c e
      let s := (s.modCore c fun k => { k with sendQ := rest, sent := k.sent + 1 }).charge part c.cluster (8 * m.words.length)
      match e.port with
      | some p => .next (s.inject (.port c e.slot p e.rope) vf c.cluster e.dest m e.seq none)
      | none =>
        let w := m.words[0]?.getD 0
        .next { s.modCluster (bitsOf w.toNat 8 8) fun k =>
            { k with redPackets := k.redPackets ++ [⟨s.fresh, e.rope, w, m.words[1]?.getD 0, some (c, e.slot), none⟩] } with
          fresh := s.fresh + 1 }

/-- The sender that a message comes from (R263): of a unit that every cluster has, with its cluster. -/
def Packet.unit (p : Packet) : Sender × Nat :=
  match p.sender with
  | .halyard _ => (.halyard 0, p.cluster)
  | .completion cl _ => (.completion cl 0, 0)
  | .atomicUnit cl _ => (.atomicUnit cl 0, 0)
  | x => (x, 0)

/-- Whether a message of the same sender to the same port was injected before, and is not decided yet (R263). -/
def State.behindEarlier (s : State) (p : Packet) : Bool :=
  (s.flight.takeWhile fun q => q.no != p.no).any fun q => q.unit == p.unit && q.dest.toNat % 2 ^ 36 == p.dest.toNat % 2 ^ 36

/-- What the launcher does with the answer to a start message (R96). -/
def State.startAnswered (s : State) (rope logical : Nat) (a : Answer) : State :=
  if a = .accepted then
    s.modRope rope fun r =>
      let left := r.toStart.erase logical
      { r with toStart := left, fireable := r.scrubbed && left.isEmpty }
  else s

/-- The state of a tour slot changes. -/
def State.modTourSlot (s : State) (cl slot : Nat) (f : TourSlot → TourSlot) : State :=
  s.modCluster cl fun k => if h : slot < 32 then { k with slots := k.slots.set slot (f k.slots[slot]) } else k

/-- The core cycles of a cluster, by which it counts waits (R164, R166): those of its core 0. -/
def State.clusterCycles (s : State) (cl : Nat) : Nat := (s.core ⟨cl, 0⟩).cycles.toNat

/-- The completion message of a tour (Table 06-6). -/
def State.completionMsg (s : State) (t : Tour) : Msg :=
  let j := (s.cluster t.origin).job t.job
  let stops := match s.itinerary t with | some d => d.stops.length | none => 1
  plainMsg 0x02 [.ofNat 64 (t.job + 2 ^ 8 * j.gen.toNat + 2 ^ 16 * t.itinerary + 2 ^ 32 * (stops - 1) + 2 ^ 38 * b2n t.lapRun + 2 ^ 39 * b2n t.fault),
    t.mask, .ofNat 64 (satNat t.slotWait (2 ^ 32 - 1) + 2 ^ 32 * (t.expiries % 2 ^ 16))]

/-- Puts an entry of a completion queue on the mesh (R166). -/
def State.offerCompletion (s : State) (cl : Nat) (e : Completion) : State :=
  match s.tours.get e.tour with
  | none => s
  | some t =>
    match s.ropes.get t.rope, s.itinerary t with
    | some r, some d => s.inject (.completion cl e.no) r.vf cl (mailboxAddress r.vf r.context d.actor d.port) e.msg 0 none
    | _, _ => s

/-- A tour is complete (R166): it takes an entry of the origin's completion queue, frees its slot and offers the message; without an entry it waits. -/
def State.finishTour (s : State) (n : Nat) (t : Tour) : State :=
  if 16 ≤ (s.cluster t.origin).completions.length then
    match t.phase with
    | .finishing _ => s
    | _ => s.modTour n fun t => { t with phase := .finishing (s.clusterCycles t.origin) }
  else
    let waited := match t.phase with | .finishing since => s.clusterCycles t.origin - since | _ => 0
    let t := { t with phase := .completing, slotWait := t.slotWait + waited }
    let s := match t.at_ with
      | some (cl, slot) => s.modTourSlot cl slot fun x => { x with use := .scrubbing }
      | none => s
    let e : Completion := ⟨s.fresh, n, s.completionMsg t⟩
    let s := { s with tours := s.tours.set n { t with at_ := none }, fresh := s.fresh + 1 }
    (s.modCluster t.origin fun k => { k with completions := k.completions ++ [e] }).offerCompletion t.origin e

/-- The tour that waits longest for an entry of a cluster's completion queue; of two that began together, that of the lower job. -/
def State.nextFinishing (s : State) (cl : Nat) : Option (Nat × Tour) :=
  let key (t : Tour) : Option (Nat × Nat) := match t.phase with | .finishing since => if t.origin = cl then some (since, t.job) else none | _ => none
  s.tours.foldl (fun best e =>
    match key e.2, best.bind fun b => key b.2 with
    | some a, some b => if a.1 < b.1 ∨ (a.1 = b.1 ∧ a.2 < b.2) then some e else best
    | some _, none => some e
    | none, _ => best) none

/-- A tour's completion message is accepted, or discarded: the entry is released, the identifier is free, and the tour is over; a tour that waits
for an entry takes it (R148, R166). -/
def State.completed (s : State) (cl entry : Nat) : State :=
  match (s.cluster cl).completions.find? fun e => e.no == entry with
  | none => s
  | some e =>
    let s := match s.tours.get e.tour with
      | some t => s.modJob cl t.job fun j => { j with state := if t.fault then .fault else .done, taken := false }
      | none => s
    let s := { s.modCluster cl fun k => { k with completions := k.completions.filter fun e => e.no != entry } with tours := s.tours.erase e.tour }
    match s.nextFinishing cl with
    | some (n, t) => s.finishTour n t
    | none => s

/-- What a sender other than a send port does with an answer, which reaches it at once. A status message of the launcher that is refused is dropped, and so is a message of a
TSC: R77 does not have them offered again, the model's choice (log entry 108). -/
def State.unitAnswered (s : State) (p : Packet) (a : Answer) : State :=
  match p.sender with
  | .port .. => { s with answers := s.answers ++ [(p, a)] }
  | .launcher _ =>
    match p.startOf with
    | some (rope, logical) => s.startAnswered rope logical a
    | none => s
  | .halyard _ => s
  | .completion cl entry =>
    if a = .accepted ∨ a = .noActor then s.completed cl entry else s
  | .atomicUnit _ rope =>
    if a = .accepted then s
    else if a = .full then { s with notices := s.notices ++ [⟨p.no, p, none⟩] }
    else s.loseNotice rope
  | .trapUnit at_ rope => if a = .full then { s with heldTraps := ⟨at_, rope, 0, p⟩ :: s.heldTraps } else s
  | .tsc _ => s
  | .host vf ep => { s with hostOut := s.hostOut ++ [.answer vf ep a] }

/-- `MESSAGE_OFFER` (R264): a unit's message enters the mesh, and the destination decides the message, in the order of its sender (R263). -/
def execMessageOffer (msg : Nat) (s : State) : Out :=
  match s.flight.find? fun p => p.no == msg with
  | none => .next s
  | some p =>
    if s.behindEarlier p || !s.mayEnter p then .next s
    else
      let (a, t) := ({ s with flight := s.flight.filter fun q => q.no != msg }.chargeMessage p).offer p
      .next (t.unitAnswered p a)

/-- The send port's part of an answer (R261, R262): a refusal reply first, if the port asks for one, then the status. Only the firing that sent
the message counts it, and only while it lasts. Whether the port asks for one is what its destination word said at the send: the model's choice (log entry 85). -/
def State.portAnswered (s : State) (c : CoreId) (slot port rope : Nat) (p : Packet) (a : Answer) : State :=
  let refused := decide (a ≠ .accepted)
  let s := if refused && p.dest.getLsbD 39
    then s.refusalReply rope c slot (bitsOf p.dest.toNat 36 3) (refusalWord a.code port p.seq) (p.msg.words[0]?.getD 0) else s
  let k := s.core c
  s.modActor rope c slot fun t =>
    { t with outs := modAt t.outs port fun q =>
      let mine := k.running.isSome && decide (k.curIndex = slot) && q.unanswered.any fun e => e.1 == p.seq && e.2 == k.firingNo
      { q with
        unanswered := q.unanswered.filter fun e => e.1 != p.seq
        refusals := if refused && mine then (p.seq, a.code) :: q.refusals else q.refusals } }

/-- `MESSAGE_ANSWER` (R261): the answer is back at the send port. -/
def execMessageAnswer (msg : Nat) (s : State) : Out :=
  match s.answers.find? fun e => e.1.no == msg with
  | none => .next s
  | some (p, a) =>
    let s := { s with answers := s.answers.filter fun e => e.1.no != msg }
    match p.sender with
    | .port c slot k rope => .next (s.portAnswered c slot k rope p a)
    | _ => .next s

/-- `NOTIFY_REOFFER` (R245, R275): a held notification goes out, or out again, from its place in the notify queue of the die, once every access that comes before its injection
is performed. -/
def execNotifyReoffer (die entry : Nat) (s : State) : Out :=
  match s.notices.find? fun n => n.no == entry && n.packet.sender.atomicOf die with
  | none => .next s
  | some n =>
    if n.after.any fun a => !s.allPerformed a.1 a.2 then .next s
    else .next { s with
      notices := s.notices.filter fun m => m.no != entry
      flight := s.flight ++ [{ n.packet with no := s.fresh }]
      fresh := s.fresh + 1 }

end Sys2Proof.Machine
end

