-- ==== Sys2Proof/Machine/Copy.lean ====
section
/-! DEFINITION. The copy unit: descriptors, copy and stream jobs, and their events (R148 to R156, R169). -/

namespace Sys2Proof.Machine

/-! ## Descriptors and identifiers -/

/-- A descriptor pair (Table 06-1), and whether its register form is legal (R150). -/
structure Descriptor where
  src : BitVec 5
  dst : BitVec 5
  stream : Bool
  rowBytes : Nat
  rows : Nat
  sstride : Int
  dstride : Int
  legal : Bool
  deriving DecidableEq, Repr

/-- The registers of the descriptor pair k. -/
def descriptorSrcs (k : BitVec 3) : List Src := [⟨.ce (.ofNat 4 (2 * k.toNat)), false⟩, ⟨.ce (.ofNat 4 (2 * k.toNat + 1)), false⟩]

/-- The descriptor pair k of a firing's copy-engine registers. A DSTRIDE that is no multiple of 8 is tested for a stream too, as the text of
R150 has it, though Table 06-1 ignores it there: the model's choice (log entry 70). -/
def Regs.descriptor (r : Regs) (k : BitVec 3) : Descriptor :=
  let lo := r.ce[2 * k.toNat]'(by omega)
  let hi := r.ce[2 * k.toNat + 1]'(by omega)
  let n := lo.toNat
  let rowBytes := bitsOf n 32 24
  let rows := bitsOf n 64 16 + 1
  let ss := (BitVec.ofNat 64 hi.toNat).toInt
  let ds := (BitVec.ofNat 64 (hi.toNat / 2 ^ 64)).toInt
  let kind := bitsOf n 10 2
  let bad := bitsOf n 12 20 != 0 || bitsOf n 56 8 != 0 || bitsOf n 80 48 != 0 || decide (1 < kind) || rowBytes == 0 || rowBytes % 8 != 0
    || (decide (1 < rows) && (ss % 8 != 0 || ds % 8 != 0)) || (kind == 1 && bitsOf n 5 5 != 0)
  ⟨.ofNat 5 n, .ofNat 5 (n / 32), kind == 1, rowBytes, rows, ss, ds, !bad⟩

/-- `ecfg` of a copy-engine register (R149). -/
def execEcfgCe (e : BitVec 4) (a b : BitVec 5) (u v : Bool) (s : State) : Out :=
  s.issue s.cur [⟨.x a, u⟩, ⟨.x b, v⟩] [] fun s =>
    let (lo, s) := s.takeX s.cur a
    let (hi, s) := s.takeX s.cur b
    .done ((s.modRegs s.cur fun r => r.putCe e (hi ++ lo)).advance s.cur)

/-- The word that a busy unit writes (R148). -/
def busyValue : Word64 := 0x8000000000000000

/-- The first free identifier after the allocation pointer, in cyclic order (R148). -/
def Cluster.freeId (k : Cluster) : Option Nat :=
  ((List.range 64).map fun i => (k.jobPtr.toNat + 1 + i) % 64).find? fun id => !(k.job id).taken

/-- Allocates an identifier and queues a job of a core's firing, or is busy: what rd gets, and the state (R148). -/
def State.queueJob (s : State) (c : CoreId) (work : JobWork) (rowBytes rows : Nat) : Word64 × State :=
  let k := s.cluster c.cluster
  let q := s.core c
  if 32 ≤ k.queue.length then (busyValue, s)
  else match k.freeId with
    | none => (busyValue, s)
    | some id =>
      let gen := if (k.job id).gen = 255 then 1 else (k.job id).gen + 1
      (.ofNat 64 (id + 2 ^ 8 * gen.toNat), s.modCluster c.cluster fun k =>
        { k.modJob id fun _ => ⟨gen, .queued, 0, 0, true, q.curSlot.rope, c.core, q.firingNo, work, rowBytes, rows, q.opNo, [], [], false, false⟩ with
          jobPtr := .ofNat 6 id
          queue := k.queue ++ [id] })

/-- `CheckRows` (R150): the check of the first row and of the last. -/
def State.checkRows (s : State) (c : CoreId) (cap : Cap) (a stride : Int) (rowBytes rows : Nat) (kind : AccKind) : Option (TrapCode × Word64) :=
  let last := a + (rows - 1 : Nat) * stride
  match s.rangeFails c cap a rowBytes kind with
  | some code => some (code, accessDetail a cap.space kind.w)
  | none =>
    match s.rangeFails c cap last rowBytes kind with
    | some code => some (code, accessDetail last cap.space kind.w)
    | none => none

/-- The kind of access of a copy job's destination: not space 3, whose capabilities never grant W (R150). -/
def AccKind.copyTo : AccKind := ⟨[1, 2, 3, 4], false, true, false⟩

/-- A side of a job fails its checks: its own alignment test, then the rows (R150). -/
def State.sideFails (s : State) (c : CoreId) (cap : Cap) (a stride : Int) (g : Descriptor) (kind : AccKind) : Option (TrapCode × Word64) :=
  if a % 8 ≠ 0 then some (.align, accessDetail a cap.space kind.w) else s.checkRows c cap a stride g.rowBytes g.rows kind

/-- `cpq` (R150): rd fills with the job value, or busy. A firing's fifth stream traps ENGINE (R156): the test stands with that of the descriptor's form, before those of
the addresses; a `cpq` that was busy queued no stream and does not count, and a stream that is DONE still does: the model's choices (log entry 73). -/
def execCpq (d a b : BitVec 5) (u v : Bool) (k : BitVec 3) (s : State) : Out :=
  let g := (s.core s.cur).regs.descriptor k
  s.issue s.cur ([⟨.x a, u⟩, ⟨.x b, v⟩, ⟨.c g.src, false⟩, ⟨.c g.dst, false⟩] ++ descriptorSrcs k) (s.lateDest s.cur (.x d)) fun s0 =>
    let (x, s) := s0.takeX s0.cur a
    let (y, s) := s.takeX s.cur b
    let r := (s.core s.cur).regs
    let from_ := r.readC g.src
    let dst := r.readC g.dst
    let sa := from_.cursor.toNat + x.toInt
    let da := dst.cursor.toNat + y.toInt
    if !g.legal || (g.stream && decide (4 ≤ (s.core s.cur).streams)) then
      .trap s0 .engine (.ofNat 64 ((encode (.cpq d a b u v k)).getD 0).toNat)
    else match s.sideFails s.cur from_ sa g.sstride g .load, (if g.stream then none else s.sideFails s.cur dst da g.dstride g .copyTo) with
      | some (code, e), _ => .trap s0 code e
      | none, some (code, e) => .trap s0 code e
      | none, none =>
        let src : Side := ⟨from_.space, sa.toNat, g.sstride⟩
        let (w, s) := s.queueJob s.cur (if g.stream then .stream src else .copy src ⟨dst.space, da.toNat, g.dstride⟩) g.rowBytes g.rows
        let s := if g.stream && w != busyValue then s.modCore s.cur fun q => { q with streams := q.streams + 1 } else s
        .done (s.produce s.cur (some (.x d)) 0 (.answer (.word w)))

/-! ## Status -/

/-- Whether `cpwait` on a job value ends: DONE, FAULT, TOURING or STALE (R153). -/
def State.jobSettled (s : State) (c : CoreId) (v : Word64) : Bool := decide (2 ≤ bitsOf (s.jobStatus c v).toNat 0 3)

/-- `cppoll` (R152): the record is read at any time until its value is in rd, the moment of its arrival; that orders only the accesses that depend on it (R246). The spec
gives the read no moment: the model's choice (log entry 97). -/
def execCppoll (d a : BitVec 5) (u : Bool) (s : State) : Out :=
  s.issue s.cur [⟨.x a, u⟩] (s.lateDest s.cur (.x d)) fun s =>
    let (v, s) := s.takeX s.cur a
    .done (s.produce s.cur (some (.x d)) 0 (.poll v))

/-- `cpwait` (R153). -/
def execCpwait (a : BitVec 5) (u : Bool) (s : State) : Out :=
  s.issue s.cur [⟨.x a, u⟩] [] fun s =>
    let (v, s) := s.takeX s.cur a
    if s.jobSettled s.cur v then .done (s.advance s.cur) else .done (s.waitFor s.cur (.cpwait v))

/-! ## Words of a job -/

/-- The VF of a job. -/
def State.vfOfJob (s : State) (j : Job) : Nat :=
  match s.ropes.get j.rope with
  | some r => r.vf
  | none => 0

/-- Whether a job's words can move: its partition is not gang-stopped (R339), and its network does not drain for a swap of routes (R293). -/
def State.jobMoves (s : State) (j : Job) : Bool :=
  let part := s.partOfVf (s.vfOfJob j)
  !(s.part part).halted && !s.draining part

/-- The location of a word of a job, as its unit reaches it (R130, R154): through the TSC's cache in space 4; none where the translation is missing. -/
def State.jobLoc (s : State) (cl : Nat) (j : Job) (space : BitVec 3) (a : Nat) (write : Bool) : Option Nat :=
  if space = 4 then (findEntry (s.cluster cl).cache (s.vfOfJob j) a write).map fun e => e.physical a
  else some (spaceLoc ⟨cl, j.core⟩ space a)

/-- Whether a word of a job waits for a stack that takes no access (R361): of a replicated page, a read for that of the unit's own die, a write for any. -/
def State.jobAsleep (s : State) (cl : Nat) (j : Job) (space : BitVec 3) (a : Nat) (write : Bool) (loc : Nat) : Bool :=
  let repl := decide (space = 4) && (match findEntry (s.cluster cl).cache (s.vfOfJob j) a write with | some e => e.repl | none => false)
  if write then s.writeAsleep loc repl else s.copyAsleep cl loc repl

/-- A job asks its TSC for a translation, once (R154, R321). -/
def State.jobMiss (s : State) (cl id va : Nat) (write : Bool) : State :=
  let k := s.cluster cl
  if (k.misses ++ k.walks).any fun w => w.waiters.contains (.job id) then s
  else
    { s.modCluster cl fun k => { k with misses := k.misses ++ [⟨s.fresh, s.vfOfJob (k.job id), .ofNat 52 va, write, [.job id], none⟩] } with
      fresh := s.fresh + 1 }

/-- A job ends in FAULT (R154). A tour whose source read faults gives up its slot, missed every stop, and takes an entry of the completion queue, or
waits for one (R152, R166). -/
def State.failJob (s : State) (cl id : Nat) (code : TrapCode) : State :=
  let s := s.modCluster cl fun k => k.faultJob id code.num
  match s.tours.find? fun e => e.2.origin == cl && e.2.job == id with
  | none => s.seatTours cl
  | some (n, t) =>
    let s := match t.grant with
      | some (gc, slot) => s.modTourSlot gc slot fun x => { x with use := .scrubbing }
      | none => s
    let stops := match s.itinerary t with | some d => d.stops.length | none => 0
    let t := { t with fault := true, grant := none, mask := .ofNat 64 (2 ^ stops - 1) }
    ({ s with tours := s.tours.set n t }.finishTour n t).seatTours cl

/-- Whether two lists of ranges share a byte. -/
def rangesOverlap (a b : List (Nat × Nat)) : Bool := a.any fun x => b.any fun y => decide (x.1 < y.1 + y.2 ∧ y.1 < x.1 + x.2)

/-- Counts what a source that is not counted yet rereads: it shares a byte with one of the 16 tours of the rope that started before it in the cluster (R169). -/
def recount : List SourceNote → List SourceNote × Nat
  | [] => ([], 0)
  | n :: r =>
    let (r', k) := recount r
    let last := (r.filter fun e => e.tour && e.cluster == n.cluster).take 16
    let hit := !n.counted && last.any fun e => rangesOverlap n.ranges e.ranges
    ({ n with counted := n.counted || hit } :: r', k + b2n hit)

/-- The sources of a cluster that can still matter, newest first: one that may still be found to reread, since its job, or one of the 16 tours before it,
still reads; and the tours that are among the last 16 of such a one or of one to come. `need` counts how many of those are still to come. -/
def keepSources (cl : Nat) (live : SourceNote → Bool) (need : Nat) : List SourceNote → List SourceNote
  | [] => []
  | n :: r =>
    if n.cluster ≠ cl then n :: keepSources cl live need r
    else
      let last := (r.filter fun e => e.tour && e.cluster == cl).take 16
      let undecided := !n.counted && (live n || last.any live)
      let rest := keepSources cl live (if undecided then 16 else need - b2n n.tour) r
      if undecided || (n.tour && decide (0 < need)) then n :: rest else rest

/-- Changes the sources of a rope, and counts the rereads that this shows (R169). -/
def State.noteSources (s : State) (rope : Nat) (f : List SourceNote → List SourceNote) : State :=
  s.modRope rope fun r =>
    let (l, k) := recount (f r.sources)
    { r with sources := l, reread := .ofNat 32 (satNat (r.reread.toNat + k) (2 ^ 32 - 1)) }

/-- The number under which a job's source is noted: its job value (R148). -/
def Job.value (j : Job) (id : Nat) : Nat := id + 2 ^ 8 * j.gen.toNat

/-- A run of bytes, put to the ranges of a source. -/
def addRange (l : List (Nat × Nat)) (loc n : Nat) : List (Nat × Nat) :=
  match l with
  | (a, k) :: r => if a + k = loc then (a, k + n) :: r else (loc, n) :: l
  | [] => [(loc, n)]

/-- Whether the job of a source may still read from it. -/
def State.stillReads (s : State) (n : SourceNote) : Bool :=
  let id := n.job % 64
  let j := (s.cluster n.cluster).job id
  j.value id == n.job && (j.state == .queued || j.state == .running)

/-- A tour, or a copy from device memory, starts: its source is noted, with its ranges where they are known (R169). -/
def State.startSource (s : State) (cl id : Nat) (tour : Bool) (ranges : List (Nat × Nat)) : State :=
  let j := (s.cluster cl).job id
  s.noteSources j.rope fun l => keepSources cl s.stillReads 16 (⟨cl, j.value id, tour, false, ranges⟩ :: l)

/-- A word of a job's source in device memory was read, at the physical address that its translation gave: the cluster's limiter pays for it, and the rope's
sources have it (R169, R294). -/
def State.noteRead (s : State) (cl id : Nat) (src : Side) (loc : Nat) : State :=
  let j := (s.cluster cl).job id
  let s := s.chargeAccess cl loc 0 8
  if src.space = 4 then
    s.noteSources j.rope fun l => match l.findIdx? fun e => e.cluster == cl && e.job == j.value id with
      | some i => modAt l i fun e => { e with ranges := addRange e.ranges loc 8 }
      | none => l
  else s

/-- A copy or stream job is DONE: it leaves the queue, its identifier is free, and it waits for no translation any more (R148, R152). -/
def State.doneJob (s : State) (cl id : Nat) : State :=
  (s.modCluster cl fun k =>
    { (k.modJob id fun j => { j with state := .done, taken := false }).dropWaiter (.job id) with queue := k.queue.filter (· != id) }).seatTours cl

/-- The address of a byte of a side's rows. -/
def Side.at_ (x : Side) (row off : Nat) : Nat := (x.addr + row * x.stride).toNat + off

/-! ## Starting and moving -/

/-- Whether a tour that has its slot has not started yet: it waits for a place among the carried jobs, or for what its core issued before it (R151, R165). -/
def State.tourPending (s : State) (cl id : Nat) : Bool :=
  let j := (s.cluster cl).job id
  s.granted cl id && (j.aside || !s.allPerformed ⟨cl, j.core⟩ j.opNo)

/-- Whether a queued job has reached the head of the queue: every job before it has started, or is a tour that has left the head, with its slot or aside (R151, R165). -/
def State.atHead (s : State) (cl id : Nat) : Bool :=
  let k := s.cluster cl
  k.queue.contains id && (k.job id).state == .queued && s.jobMoves (k.job id)
    && (k.queue.takeWhile (· != id)).all fun e => (k.job e).state != .queued

/-- Whether a copy or stream job may start (R151, R165, R246): it is at the head, no tour before it that has its slot is still to start, fewer than four jobs are carried, and
everything that its core issued before is performed. That a tour with its slot comes first while its core's stores drain is the model's reading (log entry 101). -/
def State.mayStart (s : State) (cl id : Nat) : Bool :=
  let k := s.cluster cl
  s.atHead cl id && decide (k.carried < 4) && (k.queue.takeWhile (· != id)).all (fun e => !s.tourPending cl e)
    && s.allPerformed ⟨cl, (k.job id).core⟩ (k.job id).opNo

/-- `COPY_JOB_START` (R151). -/
def execCopyJobStart (cl job : Nat) (s : State) : Out :=
  match ((s.cluster cl).job job).work with
  | .copy src _ =>
    if s.mayStart cl job then
      let s := s.modJob cl job fun j => { j with state := .running }
      .next (if src.space = 4 then s.startSource cl job false [] else s)
    else .next s
  | .stream _ => if s.mayStart cl job then .next (s.modJob cl job fun j => { j with state := .running }) else .next s
  | _ => .next s

/-- Reads one word of a job's source: its location and bytes, or the state in which the job waits or has faulted. -/
def State.readJobWord (s : State) (cl id : Nat) (src : Side) (row off : Nat) : State ⊕ (Nat × List Byte) :=
  let j := (s.cluster cl).job id
  match s.jobLoc cl j src.space (src.at_ row off) false with
  | none => .inl (s.jobMiss cl id (src.at_ row off) false)
  | some loc =>
    if s.jobAsleep cl j src.space (src.at_ row off) false loc || !s.netOpen cl loc then .inl s
    else if s.mem.badIn loc 8 then .inl (s.failJob cl id .ecc) else .inr (loc, s.mem.read loc 8)

/-- The words of its row, or of its tile, that a job has not read, lowest first. -/
def Job.unread (j : Job) : List Nat := (List.range (j.rowBytes / 8)).filter fun w => !j.row.any fun e => e.1 == w

/-- Whether a copy job's row is read whole, so that its words are written. -/
def Job.rowRead (j : Job) : Bool := decide (j.rowBytes / 8 ≤ j.done % j.rowBytes / 8 + j.row.length)

/-- The words of its row that a copy job has to read, or, of a row that is read whole, to write. -/
def Job.wordsLeft (j : Job) : List Nat := if j.rowRead then j.row.map Prod.fst else j.unread

/-- A word of a copy job's row, by its place, is read, or written: rows in order, each read whole before any of it is written (R151); within a row the words carry
no order (R246). -/
def State.moveCopy (s : State) (cl id : Nat) (src dst : Side) (w : Nat) : State :=
  let j := (s.cluster cl).job id
  let row := j.done / j.rowBytes
  if !j.wordsLeft.contains w then s
  else if !j.rowRead then
    match s.readJobWord cl id src row (8 * w) with
    | .inl t => t
    | .inr (loc, bs) => (s.noteRead cl id src loc).modJob cl id fun j => { j with row := j.row ++ [(w, .ofNat 64 (leNat bs))] }
  else
    match s.jobLoc cl j dst.space (dst.at_ row (8 * w)) true with
    | none => s.jobMiss cl id (dst.at_ row (8 * w)) true
    | some loc =>
      if s.jobAsleep cl j dst.space (dst.at_ row (8 * w)) true loc || !s.netOpen cl loc then s else
      let v := (j.row.find? fun e => e.1 == w).elim 0 Prod.snd
      let s := (s.chargeAccess cl loc 8 0).modMem none loc 8 fun m => m.engineWord loc (leBytes 8 v.toNat)
      let s := s.modJob cl id fun j => { j with done := j.done + 8, row := j.row.filter fun e => e.1 != w }
      if j.done + 8 = j.rowBytes * j.rows then s.doneJob cl id else s

/-- `COPY_JOB_DONE` (R151, R152): a running copy job moves on by one word, the lowest that is left; when its last write is applied, it is DONE. -/
def execCopyJobDone (cl job : Nat) (s : State) : Out :=
  let j := (s.cluster cl).job job
  match j.work with
  | .copy src dst => if j.state = .running ∧ s.jobMoves j then .next (s.moveCopy cl job src dst (j.wordsLeft.headD 0)) else .next s
  | _ => .next s

/-- The port register of a core that is bound to a stream job, with what it holds. -/
def Regs.streamReg (r : Regs) (id : Nat) (gen : BitVec 8) : Option (BitVec 5 × List Word64 × Nat) :=
  ([24, 25, 26, 27] : List (BitVec 5)).findSome? fun n =>
    match r.binding n with
    | .stream i g ws left => if i = id ∧ g = gen then some (n, ws, left) else none
    | _ => none

/-- `STREAM_DELIVER` (R156): the next word of a running stream job enters the buffer of its port register, or its own while it is not bound, if
fewer than 8 words are there; the last one ends the job. -/
def execStreamDeliver (cl job : Nat) (s : State) : Out :=
  let j := (s.cluster cl).job job
  match j.work with
  | .stream src =>
    let reg := if j.bound then (s.core ⟨cl, j.core⟩).regs.streamReg job j.gen else none
    let held := match reg with | some (_, ws, _) => ws.length | none => j.buf.length
    if j.state ≠ .running ∨ 8 ≤ held ∨ !s.jobMoves j then .next s
    else match s.readJobWord cl job src (j.done / j.rowBytes) (j.done % j.rowBytes) with
      | .inl t => .next t
      | .inr (loc, bs) =>
        let w : Word64 := .ofNat 64 (leNat bs)
        let s := s.chargeAccess cl loc 0 8
        let s := match reg with
          | some (n, ws, left) => s.modRegs ⟨cl, j.core⟩ fun r => r.setBinding n (.stream job j.gen (ws ++ [w]) (left - 1))
          | none => s.modJob cl job fun j => { j with buf := j.buf ++ [w] }
        let s := s.modJob cl job fun j => { j with done := j.done + 8 }
        .next (if j.done + 8 = j.rowBytes * j.rows then s.doneJob cl job else s)
  | _ => .next s

end Sys2Proof.Machine
end

