-- ==== Sys2Proof/Machine/Flow.lean ====
section
/-! DEFINITION. Control transfer and flow (R111, R112, R125 to R128). -/

namespace Sys2Proof.Machine

/-- The common form of a branch (R125): two x sources under w1 and w2; the offset counts words from the branch itself. -/
def branch (s : State) (a b : BitVec 5) (u v : Bool) (off : BitVec 11) (cond : Word64 → Word64 → Bool) : Out :=
  s.issue s.cur [⟨.x a, u⟩, ⟨.x b, v⟩] [] fun s =>
    let (va, s) := s.takeX s.cur a
    let (vb, s) := s.takeX s.cur b
    if cond va vb then .done (s.jump s.cur ((s.core s.cur).regs.pc + 4 * off.signExtend 64)) else .done (s.advance s.cur)

/-- `beq` (R125). -/
def execBeq (a b : BitVec 5) (u v : Bool) (o : BitVec 11) (s : State) : Out := branch s a b u v o fun x y => x == y
/-- `bne` (R125). -/
def execBne (a b : BitVec 5) (u v : Bool) (o : BitVec 11) (s : State) : Out := branch s a b u v o fun x y => x != y
/-- `blt` (R125). -/
def execBlt (a b : BitVec 5) (u v : Bool) (o : BitVec 11) (s : State) : Out := branch s a b u v o fun x y => decide (x.toInt < y.toInt)
/-- `bge` (R125). -/
def execBge (a b : BitVec 5) (u v : Bool) (o : BitVec 11) (s : State) : Out := branch s a b u v o fun x y => decide (y.toInt ≤ x.toInt)
/-- `bltn` (R125). -/
def execBltn (a b : BitVec 5) (u v : Bool) (o : BitVec 11) (s : State) : Out := branch s a b u v o fun x y => decide (x.toNat < y.toNat)
/-- `bgen` (R125). -/
def execBgen (a b : BitVec 5) (u v : Bool) (o : BitVec 11) (s : State) : Out := branch s a b u v o fun x y => decide (y.toNat ≤ x.toNat)

/-- `jal` (R126). -/
def execJal (d : BitVec 5) (imm : BitVec 21) (s : State) : Out :=
  s.issue s.cur [] [.x d] fun s =>
    let pc := (s.core s.cur).regs.pc
    .done ((s.putX s.cur d (pc + 4)).jump s.cur (pc + 4 * imm.signExtend 64))

/-- `jalr` (R127): ALIGN if the target is not a multiple of 4. Its DETAIL names the target; it is no access, so no space. -/
def execJalr (d a : BitVec 5) (u : Bool) (imm : BitVec 15) (s : State) : Out :=
  s.issue s.cur [⟨.x a, u⟩] [.x d] fun s0 =>
    let (va, s) := s0.takeX s0.cur a
    let t := va + 4 * imm.signExtend 64
    if t.toNat % 4 ≠ 0 then .trap s0 .align (.ofNat 64 (t.toNat % 2 ^ 52))
    else .done ((s.putX s.cur d ((s.core s.cur).regs.pc + 4)).jump s.cur t)

/-- `nop` (R128). -/
def execNop (s : State) : Out := s.issue s.cur [] [] fun s => .done (s.advance s.cur)

/-- `delay` (R128): waits until the timebase has advanced by the count; a count of 0 behaves as `nop`. -/
def execDelay (a : BitVec 5) (u : Bool) (s : State) : Out :=
  s.issue s.cur [⟨.x a, u⟩] [] fun s =>
    let (n, s) := s.takeX s.cur a
    if n = 0 then .done (s.advance s.cur) else .done (s.waitFor s.cur (.delay (s.now.toNat + n.toNat)))

/-- `DELAY_EXPIRY` (R128): the timebase has advanced far enough. -/
def execDelayExpiry (c : CoreId) (s : State) : Out :=
  match (s.core c).wait with
  | .delay till => if till ≤ s.now.toNat then .next (s.endWait c) else .next s
  | _ => .next s

/-- Whether a wait is that of an instruction that has issued and writes, so that the watchdog lets it complete (R105): `mdrain`, a vector store. -/
def Wait.issued : Wait → Bool
  | .mdrain .. => true
  | .vstore _ => true
  | _ => false


/-- The trap that a producer's answer raised. -/
def Producer.failure (p : Producer) : Option (TrapCode × Word64) :=
  match p.pending with
  | .fail code d => some (code, d)
  | _ => none

/-- The first of the firing's producers, in order of issue, whose answer raised a trap: its number, the trap and its address (R111, R311). Where several
did, the spec does not say which trap is raised first: the model's choice (log entry 68). -/
def Core.failed (k : Core) : Option (Nat × TrapCode × Word64 × Word64) :=
  k.own.findSome? fun p => p.failure.map fun e => (p.no, e.1, e.2, p.pc)

/-- Every producer of the firing whose answer raised a trap is gone. -/
def Core.dropFailed (k : Core) : Core := { k with prods := k.prods.filter fun p => p.firing != k.firingNo || p.failure.isNone }

/-- Whether no producer of the firing is outstanding but those that raised a trap, and no scale register of it is still to be written. -/
def Core.settled (k : Core) : Bool := k.own.all (fun p => p.failure.isSome) && k.scales.all fun e => e.2.2.1 != k.firingNo

/-- Whether the watchdog has reached LIMIT, and abandons what the firing is at (R105): an instruction that has issued and writes completes first, and once
`end` or `retire` has completed its wait the watchdog counts no more (R111). -/
def Core.overBudget (k : Core) : Bool := k.left == 0 && !k.wait.issued && !(k.wait == .finishing && k.settled)

/-- `end` or `retire` waits for the outstanding producers of its firing (R111). -/
def State.awaitProducers (s : State) (c : CoreId) : State := (s.stall c).modCore c fun k => { k with wait := .finishing }

/-- Whether `end` or `retire` may go on: nothing stops issue but its own wait. -/
def Wait.mayFinish : Wait → Bool
  | .none => true
  | .finishing => true
  | _ => false

/-- The shared part of `end` and `retire`: it waits until no producer is outstanding, then reports at its own address a trap that one of them raised, or goes on (R111). -/
def finishFiring (s : State) (c : CoreId) (after : State → State) : Out :=
  let k := s.core c
  if !k.wait.mayFinish then .next (s.stall c)
  else if !k.settled then .next (s.awaitProducers c)
  else match k.failed with
    | some (no, code, d, _) => .next (((s.stall c).modCore c fun k => k.dropProducer no).takeTrap c code d k.regs.pc none)
    | none => .next (after (s.stall c))

/-- The effects of a firing's end in the core cycle before which `end` or `retire` has completed: its lanes are free from that cycle on (R111, R195). -/
def State.finish (s : State) (c : CoreId) : State := (s.returnLanes c (s.core c).cycles.toNat).endEffects c

/-- `end` (R111). -/
def execEndFiring (s : State) : Out := finishFiring s s.cur fun s => (s.finish s.cur).release s.cur

/-- Every accepted message of the actor is discarded, those that entered a spill ring among them (R112, R336). -/
def InPort.empty (p : InPort) : InPort := { p with msgs := [], claimed := 0, readWords := 0, ring := [] }

/-- What `retire` does once nothing is outstanding (R112): the effect of `end`, then the unclaimed messages go and the slot is RETIRED.
The strand retires with the last of its actors: that is `STRAND_RETIRE`, which the step of the retirement takes (R368). -/
def State.retireSlot (s : State) (c : CoreId) : State :=
  (s.finish c).modCore c fun k =>
    { k.modCur fun t => { t with phase := .retired, ins := t.ins.map InPort.empty } with running := none }

end Sys2Proof.Machine
end

