-- ==== Sys2Proof/Machine/Tours.lean ====
section
/-! DEFINITION. The Halyard: tours, their instructions and their events (R157 to R168, R170). -/

namespace Sys2Proof.Machine

/-! ## Instructions -/

/-- `tour` (R157): the source is checked as one range; translation comes at the read. -/
def execTour (d a c : BitVec 5) (u v : Bool) (s : State) : Out :=
  s.issue s.cur [⟨.x a, u⟩, ⟨.c c, v⟩] (s.lateDest s.cur (.x d)) fun s0 =>
    let (w, s) := s0.takeX s0.cur a
    let cap := (s.core s.cur).regs.readC c
    let it := bitsOf w.toNat 0 16
    let len := bitsOf w.toNat 16 17
    let its := match s.ropeAt s.cur with | some r => r.decl.itins.length | none => 0
    let from_ : Int := cap.cursor.toNat
    if 2 ^ 33 ≤ w.toNat ∨ its ≤ it ∨ len = 0 ∨ 65536 < len ∨ len % 8 ≠ 0 then
      .trap s0 .engine (.ofNat 64 ((encode (.tour d a c u v)).getD 0).toNat)
    else if from_ % 8 ≠ 0 then .trap s0 .align (accessDetail from_ cap.space false)
    else match s.rangeFails s.cur cap from_ len .load with
      | some code => .trap s0 code (accessDetail from_ cap.space false)
      | none =>
        let src : Side := ⟨cap.space, cap.cursor.toNat, 0⟩
        let (x, s) := s.queueJob s.cur (.tour src it) len 1
        let s := if x = busyValue then s
          else s.startSource s.cur.cluster (bitsOf x.toNat 0 6) true (if src.space = 4 then [] else [(spaceLoc s.cur src.space src.addr, len)])
        .done (s.produce s.cur (some (.x d)) 0 (.answer (.word x)))

/-- DETAIL of TOURREVOKED for a handle: the slot that it names (Table 16-3). -/
def handleDetail (handle : Word64) : Word64 := accessDetail (bitsOf handle.toNat 0 5 * 2 ^ 16 : Nat) 3 false

/-- The common form of the instructions that take a handle (R158). -/
def onHandle (s : State) (a : BitVec 5) (u : Bool) (dests : List Reg) (f : Nat → Tour → State → Act) : Out :=
  s.issue s.cur [⟨.x a, u⟩] dests fun s0 =>
    let (w, s) := s0.takeX s0.cur a
    match s.heldTour s.cur w with
    | none => .trap s0 .tourRevoked (handleDetail w)
    | some (n, t) => f n t s

/-- `cast` (R162). -/
def execCast (a : BitVec 5) (u : Bool) (s : State) : Out :=
  onHandle s a u [] fun n _ s => .done ((s.castTour n).advance s.cur)

/-- `tstat` (R168). -/
def execTstat (d a : BitVec 5) (u : Bool) (s : State) : Out :=
  onHandle s a u [.x d] fun _ t s => .done (s.putXNext s.cur d t.mask)

/-- `tslot` (R161). -/
def execTslot (d a : BitVec 5) (u : Bool) (s : State) : Out :=
  onHandle s a u [.c d] fun _ t s =>
    let base : BitVec 52 := match t.at_ with | some (_, slot) => .ofNat 52 (slot * 2 ^ 16) | none => 0
    .done (s.putCNext s.cur d ({ base := base, cursor := base, mant := 0, exp := 0, perm := 1, space := 3, tag := true : Cap }.withLen t.len))

/-! ## Slots -/

/-- The lowest-numbered free slot of a cluster (R158). -/
def State.freeTourSlot (s : State) (cl : Nat) : Option Nat := (s.cluster cl).slots.toList.findIdx? fun x => x.use == .free

/-- The cluster of the stop that a tile is bound for. -/
def State.targetCluster (s : State) (t : Tour) : Nat := match s.stopActor t with | some (c, _) => c.cluster | none => t.origin

/-- Gives a slot to a tile, which is then on its way there (R158, R164); a tour that waited aside takes a place of its unit (R165). -/
def State.grantSlot (s : State) (n cl slot : Nat) : State :=
  let waited (t : Tour) : Nat := match t.phase with | .waiting since => s.clusterCycles cl - since | _ => 0
  let origin := match s.tours.get n with | some t => t.origin | none => cl
  ((s.modTourSlot cl slot fun x => { x with use := .tile n }).modTour n fun t =>
    { t with phase := .granted, grant := some (cl, slot), slotWait := t.slotWait + waited t }).seatTours origin

/-- A tile asks the cluster of its stop for a slot; without a free one it waits (R164, R165). -/
def State.askSlot (s : State) (n : Nat) (t : Tour) : State :=
  let cl := s.targetCluster t
  match s.freeTourSlot cl with
  | some slot => s.grantSlot n cl slot
  | none => s.modTour n fun t => { t with phase := .waiting (s.clusterCycles cl) }

/-- The order of the tiles that wait for slots of a cluster (R164): request cycle, the cluster where the tile waits, its job. -/
def Tour.waitKey (t : Tour) : Nat × Nat × Nat :=
  (match t.phase with | .waiting n => n | _ => 0, match t.at_ with | some (cl, _) => cl | none => t.origin, t.job)

/-- Whether a key comes before another. -/
def keyBefore (a b : Nat × Nat × Nat) : Bool :=
  decide (a.1 < b.1) || (a.1 == b.1 && (decide (a.2.1 < b.2.1) || (a.2.1 == b.2.1 && decide (a.2.2 < b.2.2))))

/-- The tile that takes the next slot of a cluster; of two that are equal in all of R164's order, the one earlier in the table of tours: the model's choice
(log entry 83). -/
def State.nextWaiting (s : State) (cl : Nat) : Option (Nat × Tour) :=
  (s.tours.filter fun e => (match e.2.phase with | .waiting _ => true | _ => false) && s.targetCluster e.2 == cl).foldl
    (fun best e => match best with | none => some e | some b => if keyBefore e.2.waitKey b.2.waitKey then some e else some b) none

/-- `TOUR_SLOT_SCRUB_DONE` (R95, R164): the slot is zero, full and untagged, and free, or the earliest waiting tile takes it. -/
def execTourSlotScrubDone (cl slot : Nat) (s : State) : Out :=
  match (s.cluster cl).slots.toList[slot]? with
  | some x =>
    if x.use = .scrubbing then
      let s := { s.modTourSlot cl slot fun x => { x with use := .free } with mem := s.mem.scrub (locTile cl slot 0) (2 ^ 16) }
      match s.nextWaiting cl with
      | some (n, _) => .next (s.grantSlot n cl slot)
      | none => .next s
    else .next s
  | none => .next s

/-- `TOUR_JOB_START` (R151, R165): a tour that has reached the head of the queue asks for a slot at its first stop; without one it waits aside, and so it does with one while four
jobs are carried. -/
def execTourJobStart (cl job : Nat) (s : State) : Out :=
  let j := (s.cluster cl).job job
  match j.work with
  | .tour _ it =>
    if s.atHead cl job then
      let n := s.fresh
      let t : Tour := ⟨cl, job, j.rope, it, j.rowBytes, none, none, 0, false, false, 0, .granted, none, 0, 0, false, false⟩
      .next ({ s.modJob cl job fun j => { j with state := .running, aside := true } with tours := s.tours.set n t, fresh := s.fresh + 1 }.askSlot n t)
    else .next s
  | _ => .next s

/-! ## Hitching -/

/-- A tile expires at its stop (R160): an unclaimed arrival message is withdrawn, the bit of a stop that was not visited is set, the slot is revoked. -/
def State.expireTour (s : State) (n : Nat) (t : Tour) : State :=
  let visited := match t.phase with | .visited .. => true | _ => false
  let s : State := match t.phase, s.stopActor t with
    | .arrived, some (c, i) =>
      let handle : Word64 := .ofNat 64 (s.tileHandle t)
      s.modSlot c i fun x => { x with ins := x.ins.map fun q => q.withdraw handle }
    | _, _ => s
  s.modTour n fun t => { t with
    phase := .leaving
    holdFrom := none
    mask := if visited then t.mask else setBit t.mask t.stop true
    expiries := t.expiries + 1 }

/-- The arrival message of a tile (Table 06-5). -/
def State.arrivalMsg (s : State) (t : Tour) : Msg :=
  plainMsg 0x09 [.ofNat 64 (s.tileHandle t), .ofNat 64 (t.len + 2 ^ 32 * t.itinerary)]

/-- Offers the arrival message to the tile port of the stop's actor (R158, R167): accepted, held while it is refused, or, where the actor is retired, expired. -/
def State.offerArrival (s : State) (n : Nat) (t : Tour) : State :=
  match s.ropes.get t.rope, (s.itinerary t).bind fun d => d.stops[t.stop]? with
  | some r, some logical =>
    let port := match r.decl.actor logical with | some a => (firstPortOfKind a.ins 1).getD 0 | none => 0
    let cl := match t.at_ with | some (cl, _) => cl | none => t.origin
    let (a, s) := s.offerActor ⟨0, .halyard n, r.vf, cl, mailboxAddress r.vf r.context logical port, s.arrivalMsg t, 0, none⟩
    if a = .accepted then s.modTour n fun t => { t with phase := .arrived }
    else if a = .noActor then s.expireTour n t
    else s.modTour n fun t => { t with phase := .held }
  | _, _ => s

/-- The tile is at its stop (R158): the slot's generation rises, the hold count starts (R159), and the arrival message is offered. At the first hitch
the job leaves the queue, and reads TOURING in the origin cluster (R152, R157). -/
def State.hitched (s : State) (n : Nat) (t : Tour) (cl slot : Nat) : State :=
  let first := t.at_.isNone
  let s := s.modTourSlot cl slot fun x => { x with gen := x.gen + 1 }
  let s := if first then
      (s.modCluster t.origin fun k =>
        { (k.modJob t.job fun j => if cl = t.origin then { j with state := .touring } else j).dropWaiter (.job t.job) with
          queue := k.queue.filter (· != t.job) }).seatTours t.origin
    else s
  let from_ := match s.stopActor t with | some (c, _) => (s.core c).cycles.toNat | none => 0
  let t := { t with at_ := some (cl, slot), grant := none, phase := .held, holdFrom := some from_,
                    reported := t.reported || (first && cl == t.origin) }
  ({ s with tours := s.tours.set n t }).offerArrival n t

/-- Moves a word of a tour's source, by its place, into the granted slot (R157, R165), once everything that its core issued before is performed (R151, R246); a tour that waited aside
has its place among the carried jobs first. A word for another cluster crosses the mesh: it waits while the limiter of the origin is empty, and is charged to it (R294). -/
def State.fillTile (s : State) (n : Nat) (t : Tour) (cl slot w : Nat) : State :=
  let j := (s.cluster t.origin).job t.job
  match j.work with
  | .tour src _ =>
    let part := s.partOfVf (s.vfOfJob j)
    if !s.jobMoves j || j.aside || !s.allPerformed ⟨t.origin, j.core⟩ j.opNo || !j.unread.contains w || (cl != t.origin && !s.limiterOpen part t.origin) then s
    else match s.readJobWord t.origin t.job src 0 (8 * w) with
      | .inl t => t
      | .inr (from_, bs) =>
        let s := s.noteRead t.origin t.job src from_
        let s := if cl = t.origin then s else s.charge part t.origin 8
        let s := { s with mem := s.mem.engineWord (locTile cl slot (8 * w)) bs }
        let s := s.modJob t.origin t.job fun j => { j with done := j.done + 8, row := j.row ++ [(w, .ofNat 64 (leNat bs))] }
        if j.done + 8 = t.len then s.hitched n t cl slot else s
  | _ => s

/-- Whether a gang stop holds a tour's tile where it is (R339). -/
def State.tourHalted (s : State) (t : Tour) : Bool := (s.part (s.partOfVf (s.vfOfJob ((s.cluster t.origin).job t.job)))).halted

/-- `HITCH` (R158, R163): the tile reaches its granted slot, from its source, over the mesh, or by a handoff in the slot where it is. -/
def execHitch (tour : Nat) (s : State) : Out :=
  match s.tours.get tour with
  | none => .next s
  | some t =>
    let j := (s.cluster t.origin).job t.job
    match t.phase, t.grant, t.at_ with
    | .granted, some (cl, slot), none => .next (s.fillTile tour t cl slot (j.unread.headD 0))
    | .granted, some (cl, slot), some (cl0, slot0) =>
      if s.tourHalted t then .next s
      else if (cl, slot) = (cl0, slot0) then .next (s.hitched tour t cl slot)
      else if !s.jobMoves j || (cl != cl0 && !s.limiterOpen (s.partOfVf (s.vfOfJob j)) cl0) then .next s
      else if s.mem.badIn (locTile cl0 slot0 0) t.len then
        -- an uncorrectable error on a later hop: the tour completes at once, with the stops that were not visited missed (R342); the tile leaves its last slot with
        -- the entry of the completion queue that it takes (R166)
        let stops := match s.itinerary t with | some d => d.stops.length | none => 0
        let rest : BitVec 64 := if t.lap then 0 else .ofNat 64 (2 ^ stops - 2 ^ t.stop)
        let t := { t with grant := none, mask := t.mask ||| rest }
        let s := s.modTourSlot cl slot fun x => { x with use := .scrubbing }
        .next ({ s with tours := s.tours.set tour t }.finishTour tour t)
      else
        let s := (if cl = cl0 then s else s.charge (s.partOfVf (s.vfOfJob j)) cl0 t.len).modTourSlot cl0 slot0 fun x => { x with use := .scrubbing }
        let s := { s with mem := s.mem.copyWords (locTile cl0 slot0 0) (locTile cl slot 0) (t.len / 8) }
        .next (s.hitched tour t cl slot)
    | _, _, _ => .next s

/-- Whether a tour's tile has hitched: one that faulted never does (R152); one that completes has given up its slot. -/
def Tour.hitchedOnce (t : Tour) : Bool :=
  t.at_.isSome || (!t.fault && (match t.phase with | .finishing _ | .completing => true | _ => false))

/-- `HITCH_REPORT` (R152): the report of the first hitch reaches the origin cluster. -/
def execHitchReport (cl job : Nat) (s : State) : Out :=
  match s.tours.find? fun e => e.2.origin == cl && e.2.job == job && e.2.hitchedOnce && !e.2.reported with
  | none => .next s
  | some (n, _) =>
    .next ((s.modTour n fun t => { t with reported := true }).modJob cl job fun j => { j with state := .touring })

/-- `ARRIVAL_REOFFER` (R158). -/
def execArrivalReoffer (tour : Nat) (s : State) : Out :=
  match s.tours.get tour with
  | some t => if t.phase = .held ∧ !s.tourHalted t ∧ !s.tileOverdue t then .next (s.offerArrival tour t) else .next s
  | none => .next s

/-- Whether a tile's hold count has reached its limit, in a core cycle in which no firing can start any more (R159), or its stop's actor is retired (R167). -/
def State.holdOver (s : State) (t : Tour) : Bool :=
  match s.stopActor t, s.itinerary t with
  | some (c, i), some d =>
    let retired := ((s.core c).slot i).phase == .retired && ((s.core c).slot i).rope == t.rope
    s.tileOverdue t || ((s.core c).running.isSome && t.holdFrom.any fun h => decide (h + d.hold ≤ (s.core c).cycles.toNat))
      || (retired && (match t.phase with | .visited .. => false | _ => true))
  | _, _ => false

/-- `HOLD_EXPIRY` (R159, R160, R162). -/
def execHoldExpiry (tour : Nat) (s : State) : Out :=
  match s.tours.get tour with
  | none => .next s
  | some t =>
    match t.phase with
    | .held | .arrived | .visited .. => if s.holdOver t && !s.tourHalted t then .next (s.expireTour tour t) else .next s
    | _ => .next s

/-! ## Going on -/

/-- Whether every access to a slot that passed its checks has drained (R134): loads of the cluster's cores, a gang form that waits at the wired barrier
for its step, a step that still reads its operands (R233), and the jobs of its copy unit. -/
def State.tileDrained (s : State) (cl slot : Nat) : Bool :=
  let lo := locTile cl slot 0
  let hits (a : MemOp) : Bool := decide (a.loc < lo + 2 ^ 16 ∧ lo < a.loc + a.bytes)
  ((List.range 8).all fun k => (s.unperformed ⟨cl, k⟩).all (fun a => !hits a)
      && (match (s.core ⟨cl, k⟩).wait with | .gang _ _ op2 _ _ _ _ tile _ _ => !(k == 0 && tile && bitsOf op2.toNat 0 5 == slot) | _ => true))
    && (s.cluster cl).steps.all (fun m => m.tile != some slot || m.parts.all fun p => p.sums.isSome)
    && (List.range 64).all fun id =>
      let j := (s.cluster cl).job id
      let src := match j.work with | .copy x _ => some x | .stream x => some x | .tour x _ => some x | .none => none
      match src with
      | some x => !(x.space == 3 && x.addr / 2 ^ 16 % 32 == slot && (j.state == .queued || j.state == .running)
          && (s.cluster cl).queue.contains id)
      | none => true

/-- The next stop of a tile, and whether it is on the make-good lap (R163). -/
def Tour.next (t : Tour) (stops : Nat) (lapPolicy : Bool) : Option (Nat × Bool) :=
  let missed (from_ : Nat) : Option Nat := (List.range stops).find? fun i => decide (from_ ≤ i) && t.mask.getLsbD i
  if t.lap then (missed (t.stop + 1)).map fun i => (i, true)
  else if t.stop + 1 < stops then some (t.stop + 1, false)
  else if lapPolicy && t.mask != 0 then (missed 0).map fun i => (i, true)
  else none

/-- `TILE_ONWARD` (R163, R164, R166). -/
def execTileOnward (tour : Nat) (s : State) : Out :=
  match s.tours.get tour with
  | none => .next s
  | some t =>
    match t.phase, t.at_ with
    | .finishing _, _ => .next (s.finishTour tour t)
    | .leaving, some (cl, slot) =>
      if !s.tileDrained cl slot || s.tourHalted t then .next s
      else
        let (stops, lapPolicy) := match s.itinerary t with | some d => (d.stops.length, d.lap) | none => (0, false)
        match t.next stops lapPolicy with
        | none => .next (s.finishTour tour t)
        | some (stop, lap) =>
          let t := { t with stop := stop, lap := lap, lapRun := t.lapRun || lap }
          let s := { s with tours := s.tours.set tour t }
          if s.targetCluster t = cl then .next (s.modTour tour fun t => { t with phase := .granted, grant := some (cl, slot) })
          else .next (s.askSlot tour t)
    | _, _ => .next s

/-- A job moves a word of its row, or of its tile, by its place, ahead of others (R246). -/
def State.moveWord (s : State) (cl job w : Nat) : State :=
  let j := (s.cluster cl).job job
  match j.work with
  | .copy src dst => if j.state = .running ∧ s.jobMoves j then s.moveCopy cl job src dst w else s
  | .tour .. =>
    match s.tours.find? fun e => e.2.origin == cl && e.2.job == job && e.2.phase == .granted && e.2.at_.isNone with
    | some (n, t) => (match t.grant with | some (gc, slot) => s.fillTile n t gc slot w | none => s)
    | none => s
  | _ => s

/-- `COMPLETION_REOFFER` (R166): a message of the completion queue that is not on its way is offered again. -/
def execCompletionReoffer (cl entry : Nat) (s : State) : Out :=
  match (s.cluster cl).completions.find? fun e => e.no == entry with
  | none => .next s
  | some e =>
    if s.flight.any fun p => p.sender == .completion cl entry then .next s else .next (s.offerCompletion cl e)

end Sys2Proof.Machine
end

