-- ==== Sys2Proof/Machine/VectorMemory.lean ====
section
/-! DEFINITION. Vector loads and stores (R216 to R218). -/

namespace Sys2Proof.Machine

/-- The bytes of an element by its width field (R70). -/
def vecBytes (w : BitVec 2) : Nat :=
  match w.toNat with
  | 0 => 4
  | 1 => 2
  | _ => 1

/-- What the checks of all active elements find, in ascending order (R216): each element with its access, or the first failure. -/
def State.vecCheck (s : State) (c : CoreId) (cap : Cap) (n : Nat) (kind : AccKind) (addr : Nat → Int) (dest : Option Reg) : List Nat → List (Nat × Access) ⊕ Act
  | [] => .inl []
  | i :: r =>
    match s.accessCheck c cap (addr i) n kind with
    | .trap code d => .inr (.trap s code d)
    | .miss va w => .inr (.miss va w dest)
    | .stall => .inr .stall
    | a =>
      match s.vecCheck c cap n kind addr dest r with
      | .inl l => .inl ((i, a) :: l)
      | .inr e => .inr e

/-- The elements that an interlocked vector load performs, in order; an access of an earlier one of the core may come first, and a
word may hold an error. -/
def State.vecLoadNow (s : State) (c : CoreId) (n : Nat) (es : List (Nat × Nat)) : Option (List (Nat × Nat)) :=
  if es.all fun e => s.mayPerform c (loadOp (s.core c).opNo e.2 n false) then
    some (es.map fun e => (e.1, leNat (merged s.mem e.2 ((s.core c).forward e.2 n))))
  else none

/-- The common form of the vector loads (R217). -/
def vecLoad (s0 s : State) (d c : BitVec 5) (m : BitVec 3) (w : BitVec 2) (addr : Cap → Nat → Int) : Act :=
  let r := (s.core s.cur).regs
  let cap := r.readC c
  let n := vecBytes w
  let act := r.active m false
  match s.vecCheck s.cur cap n .load (addr cap) (some (.v d)) act with
  | .inr (.trap _ code e) => .trap s0 code e
  | .inr a => a
  | .inl es =>
    let detail := fun i => accessDetail (addr cap i) cap.space false
    let k := s.core s.cur
    let locs := es.filterMap fun e => match e.2 with | .ok loc repl => some (e.1, loc, repl) | _ => none
    let given := es.filterMap fun e => match e.2 with | .emulated v => some (e.1, v.toNat % 2 ^ (8 * n)) | _ => none
    if es.isEmpty then .done (s.advance s.cur)
    else if (cap.space = 1 ∨ cap.space = 3) ∧ k.late = true then
      .done (s.defer s.cur (.v d) (detail (act.headD 0)) (.vload (locs.map fun e => ⟨32 * e.1, e.2.1, n, e.2.2, detail e.1⟩) 32 (r.readV d)))
    else if cap.space = 1 ∨ cap.space = 3 then
      match s.vecLoadNow s.cur n (locs.map fun e => (e.1, e.2.1)) with
      | none => .stall
      | some vs =>
        match locs.find? fun e => s.mem.loadBad e.2.1 (k.forward e.2.1 n) with
        | some e => .trap s0 .ecc (detail e.1)
        | none =>
          let out := vs.foldl (fun b v => putElement b false v.1 v.2) (r.readV d)
          .done ((s.modRegs s.cur fun r => r.putV d out (covers128 false act)).advance s.cur)
    else if 32 ≤ k.loadsOut then .stall
    else
      let acc := given.foldl (fun b v => putElement b false v.1 v.2) (r.readV d)
      .done (s.produce s.cur (some (.v d)) (detail (act.headD 0))
        (.vload (locs.map fun e => ⟨32 * e.1, e.2.1, n, e.2.2, detail e.1⟩) 32 acc))

/-- The elements of a vector store (R217, R240): events of their own, in ascending order, numbered on from `no`; those of one 64-byte block share the entry of
the store buffer that the block's first one takes (R218). -/
def vecElems (no : Nat) (es : List (Nat × Nat × Bool)) (n : Nat) (value : Nat → Nat) : List StoreEntry :=
  es.zipIdx.map fun (e, i) =>
    ⟨no + i, wholeBytes e.2.1 (leBytes n (value e.1)), none, [(e.2.1, false)], e.2.2, false, no + es.findIdx fun x => x.2.1 / 64 == e.2.1 / 64⟩

/-- The 64-byte blocks that the elements of a vector store touch (R218). -/
def vecBlocks (es : List StoreEntry) : Nat := (es.map StoreEntry.unit).eraseDups.length

/-- The entry of the store buffer that an element of a large vector store goes into: the one that its block took; where that has drained already, it takes no other, and
goes with the youngest one: the model's choice (R218; log entry 15). -/
def Core.unitFor (k : Core) (e : StoreEntry) : Nat :=
  if e.unit == e.no || k.stores.any (fun x => x.unit == e.unit) then e.unit
  else match k.stores.getLast? with | some x => x.unit | none => e.unit

/-- Elements enter the store buffer in their order, as long as the first one of each block finds a free entry, so that the last element enters with the last block: the core,
and the elements that are left (R218). -/
def Core.takeIn (k : Core) : List StoreEntry → Core × List StoreEntry
  | [] => (k, [])
  | e :: r =>
    if e.unit != e.no || decide (k.entries < 16) then { k with stores := k.stores ++ [{ e with unit := k.unitFor e }] }.takeIn r else (k, e :: r)

/-- The common form of the vector stores (R217, R218). -/
def vecStore (s0 s : State) (d c : BitVec 5) (m : BitVec 3) (w : BitVec 2) (addr : Cap → Nat → Int) : Act :=
  let r := (s.core s.cur).regs
  let cap := r.readC c
  let n := vecBytes w
  match s.vecCheck s.cur cap n .store (addr cap) none (r.active m false) with
  | .inr (.trap _ code e) => .trap s0 code e
  | .inr a => a
  | .inl es =>
    let locs := es.filterMap fun e => match e.2 with | .ok loc repl => some (e.1, loc, repl) | _ => none
    let k := s.core s.cur
    let elems := vecElems k.opNo locs n (element (r.readV d) false)
    if vecBlocks elems ≤ 16 then
      if 16 < k.entries + vecBlocks elems then .stall
      else .done ((s.modCore s.cur fun k => { k with stores := k.stores ++ elems, opNo := k.opNo + elems.length }).advance s.cur)
    else if k.stores.isEmpty then .done ((s.modCore s.cur fun k => { k with opNo := k.opNo + elems.length }).waitFor s.cur (.vstore elems))
    else .stall

/-- A core cycle of a vector store of more than 16 blocks: elements enter as entries drain, and with the last one it completes (R218). -/
def State.enterElems (s : State) (c : CoreId) (elems : List StoreEntry) : State :=
  let (k, left) := (s.core c).takeIn elems
  let s := s.setCore c { k.tick with wait := .vstore left }
  if left.isEmpty then s.endWait c else s

/-- The addresses of the three forms (R216). -/
def unitAddr (n : Nat) (cap : Cap) (i : Nat) : Int := cap.cursor.toNat + n * i
def strideAddr (x : Word64) (cap : Cap) (i : Nat) : Int := cap.cursor.toNat + x.toInt * i
def indexAddr (b : BitVec 4096) (cap : Cap) (i : Nat) : Int := cap.cursor.toNat + element b false i

/-- `vld` (R216). -/
def execVld (d c : BitVec 5) (m : BitVec 3) (w : BitVec 2) (s : State) : Out :=
  s.issue s.cur ([⟨.c c, false⟩] ++ maskSrc m) [.v d] fun s => vecLoad s s d c m w (unitAddr (vecBytes w))

/-- `vlds` (R216). -/
def execVlds (d c b : BitVec 5) (m : BitVec 3) (w : BitVec 2) (s : State) : Out :=
  s.issue s.cur ([⟨.c c, false⟩, ⟨.x b, false⟩] ++ maskSrc m) [.v d] fun s0 =>
    let (x, s) := s0.takeX s0.cur b
    vecLoad s0 s d c m w (strideAddr x)

/-- `vldx` (R216). -/
def execVldx (d c b : BitVec 5) (m : BitVec 3) (w : BitVec 2) (s : State) : Out :=
  s.issue s.cur ([⟨.c c, false⟩, ⟨.v b, false⟩] ++ maskSrc m) [.v d] fun s => vecLoad s s d c m w (indexAddr ((s.core s.cur).regs.readV b))

/-- `vst` (R216). -/
def execVst (d c : BitVec 5) (m : BitVec 3) (w : BitVec 2) (s : State) : Out :=
  s.issue s.cur ([⟨.c c, false⟩, ⟨.v d, false⟩] ++ maskSrc m) [] fun s => vecStore s s d c m w (unitAddr (vecBytes w))

/-- `vsts` (R216). -/
def execVsts (d c b : BitVec 5) (m : BitVec 3) (w : BitVec 2) (s : State) : Out :=
  s.issue s.cur ([⟨.c c, false⟩, ⟨.x b, false⟩, ⟨.v d, false⟩] ++ maskSrc m) [] fun s0 =>
    let (x, s) := s0.takeX s0.cur b
    vecStore s0 s d c m w (strideAddr x)

/-- `vstx` (R216). -/
def execVstx (d c b : BitVec 5) (m : BitVec 3) (w : BitVec 2) (s : State) : Out :=
  s.issue s.cur ([⟨.c c, false⟩, ⟨.v b, false⟩, ⟨.v d, false⟩] ++ maskSrc m) [] fun s => vecStore s s d c m w (indexAddr ((s.core s.cur).regs.readV b))

end Sys2Proof.Machine
end

