-- ==== Sys2Proof/Machine/Turns.lean ====
section
/-! DEFINITION. What a step does around an instruction: what comes before a fetch, the fetch itself, what comes after the one instruction that a
RETRY issues again, and what the world outside does to the machine. -/

namespace Sys2Proof.Machine

/-- A core cycle that no budget counts: the firing is parked, or there is none (R105). -/
def State.idleCycle (s : State) (c : CoreId) : State := s.modCore c fun k => { k with cycles := k.cycles + 1 }

/-- Whether the word at a core's program counter holds an uncorrectable error (R342). -/
def State.fetchBad (s : State) (c : CoreId) : Bool :=
  match s.textAt c with
  | some t => t.bad.contains ((s.core c).regs.pc.toNat / 4)
  | none => false

/-- Whether a core issues nothing: it is of a partition that is gang-stopped, or a gang stop has torn its firing, of which only what has issued completes (R339). -/
def State.coreHalted (s : State) (c : CoreId) : Bool :=
  decide (c.core < 8) && ((s.parts.toList.any fun p => p.halted && decide (p.base ≤ c.cluster ∧ c.cluster < p.base + p.len))
    || ((s.core c).running.isSome && (s.ropeAt c).any fun r => r.ending == some .gangstop))

/-- The trap BUDGET (R105): what is stalled, or waits, is abandoned without effect. Its DETAIL is the LIMIT that has held since the firing's start, though the firing may have
written another for its actor's next firings since: the model's choice (R106; log entry 105). -/
def State.budgetTrap (s : State) (c : CoreId) : State :=
  let k := s.core c
  s.takeTrap c .budget (.ofNat 64 k.budget.toNat) k.regs.pc (some k.regs.pc)

/-- What a core does in a cycle in which it decodes nothing, or else the word it fetches. In a gang stop only a vector store that has
issued goes on (R339). The watchdog comes first (R105), then a
trap that an outstanding producer raised, unless `end` or `retire` waits, which reports it itself (R111, R311). -/
def State.before (s : State) (c : CoreId) : State ⊕ InstrWord :=
  let k := s.core c
  if k.running.isNone || k.park.isSome then .inl (s.idleCycle c)
  else if s.coreHalted c then .inl (match k.wait with | .vstore elems => s.enterElems c elems | _ => s.idleCycle c)
  else if k.wait = .icache ∧ k.left = k.budget then .inl (s.idleCycle c)
  else if k.overBudget then .inl (s.budgetTrap c)
  else if !k.wait.mayFinish then .inl (match k.wait with
    | .vstore elems => s.enterElems c elems
    | .cpwait job => if s.jobSettled c job then (s.stall c).endWait c else s.stall c
    | _ => s.stall c)
  else if k.wait = .finishing then .inr (s.fetch c)
  else match k.failed with
    | some (no, code, d, pc) => .inl ((s.modCore c fun k => k.dropProducer no).takeTrap c code d pc (some k.regs.pc))
    | none =>
      if s.fetchBad c then
        .inl (s.trapHere c .ecc (.ofNat 64 (k.regs.pc.toNat % 2 ^ 52 + 2 ^ 57)))
      else .inr (s.fetch c)

/-- After the one instruction that a RETRY issued again, execution goes on where it stood (R311, R315). -/
def afterInstr (c : CoreId) (s : State) (o : Out) : Out :=
  match o with
  | .next t =>
    match (s.core c).after with
    | pc :: rest =>
      if !(t.core c).after.isEmpty && (t.core c).regs.pc != (s.core c).regs.pc then
        .next (t.modCore c fun k => { k with after := rest, regs := { k.regs with pc := pc } })
      else o
    | [] => o
  | _ => o

/-- `ICACHE_MISS_FILL` (R103): the instruction cache has the line; the firing fetches again. The packets of a fill pay no limiter and wait for no swap: R293 and R294 do not name
them, so it is the model's choice (log entries 7 and 57). -/
def execIcacheMissFill (c : CoreId) (s : State) : Out :=
  .next (s.modCore c fun k => if k.wait = .icache then { k with wait := .none } else k)

/-- An actor without ports, placed alone on core 0 of a cluster: what `withFiring` places. -/
def bareRope : Rope where
  vf := 0
  cable := 0
  pos := 0
  decl := ⟨0, none, [⟨0, [⟨0, [], [], [], 16, none⟩]⟩], []⟩
  image := 0
  context := 0
  strands := [⟨0, [⟨0, 0, 4096⟩], [], false⟩]
  placement := [0x8000]
  argVa := 0
  argLen := 0
  toStart := []
  scrubbed := true
  fireable := true
  shed := .none
  tree := []
  reread := 0
  notifyLost := 0
  sources := []
  ending := none
  retired := false

/-- The state with a text whose first bytes are given, and a firing at its offset 0 whose turn it is. -/
def State.withFiring (s : State) (bytes : List Byte) : State :=
  let s := { s with
    texts := ⟨0, 0, bytes, []⟩ :: s.texts
    ropes := s.ropes.set 0 bareRope
    cur := ⟨0, 0⟩
    agenda := [] }
  s.modCore ⟨0, 0⟩ fun k =>
    { k.modSlot 0 fun _ => { Slot.vacant with phase := .firing, limit := 0x100000, stateBytes := 16, stateLen := 16 } with
      running := some 0
      left := 0x100000
      budget := 0x100000
      wait := .none
      park := none
      prods := k.prods.filter fun p => decide (p.firing ≠ k.firingNo)
      regs := { k.regs with pc := 0 } }

end Sys2Proof.Machine
end

