-- ==== Sys2Proof/Machine/System.lean ====
section
/-! DEFINITION. The system instructions, the system registers, snapshots, `retire` and the retirement of a strand, and words that are no
instruction (R54, R112, R318 to R320, R340, R341, R363, R368). -/

namespace Sys2Proof.Machine

/-! ## Snapshots -/

/-- A core latches its snapshot registers (Table 16-15). Where no firing runs or is parked, VALID is 0 and PC is what the core's program counter held last: the model's
choice (log entry 27). -/
def Core.latch (k : Core) (cause : BitVec 3) : Core :=
  { k with snap := ⟨k.snap.seq + 1, cause, k.cycles, k.sent, k.recv, .ofNat 22 k.regs.pc.toNat, k.running.isSome⟩ }

/-- The clusters of a partition (R86). -/
def State.clustersOf (s : State) (part : Nat) : List Nat := (List.range (s.part part).len).map fun i => (s.part part).base + i

/-- The compute cores of a partition. -/
def State.coresOf (s : State) (part : Nat) : List CoreId :=
  ((s.clustersOf part).map fun cl => (List.range 8).map fun k => (⟨cl, k⟩ : CoreId)).flatten

/-- Whether the partition's latest snapshot trigger still spreads: a core has not counted the cycles of its own by which it has latched (R5, R340). -/
def State.spreading (s : State) (part : Nat) : Bool := (s.part part).spread.any fun e => decide ((s.core (coreOfKey e.1)).cycles.toNat < e.2)

/-- How far a trigger has to spread: each core of the partition latches within 128 of its cycles of the first (R340). -/
def State.spreadTo (s : State) (part : Nat) : List (Nat × Nat) :=
  (s.coresOf part).map fun c => (CoreId.key c, (s.core c).cycles.toNat + 1 + (Config.snapSpread s.freeNo (CoreId.key c)).val)

/-- Raises the snapshot trigger of a partition (R340): every core of it latches, and so do its units, unless a trigger still spreads, into which this one merges. That all
latch at once, at the start of the window in which they may, is the model's choice (log entry 55). -/
def State.snapshot (s : State) (part : Nat) (cause : BitVec 3) : State :=
  if s.spreading part then s
  else
    let till := s.spreadTo part
    let s := (s.coresOf part).foldl (fun s c => s.modCore c fun k => k.latch cause) s
    { s.modPart part fun p => { p with spread := till, latched := some s.freeNo } with freeNo := s.freeNo + 1 }

/-! ## System registers -/

/-- A bank of a core's slice (R221). -/
def Cluster.bank (k : Cluster) (core : Nat) (bank : Bool) : Bank := (k.banks.toList)[2 * core + b2n bank]?.getD ⟨none, 0, false⟩

/-- MATSTAT (Table 09-4). -/
def State.matstat (s : State) (c : CoreId) : Nat :=
  let k := s.cluster c.cluster
  let t := (s.core c).curSlot
  let own (b : Bool) : Bool := (k.bank c.core b).owner == some (t.rope, t.strand)
  let gang := match s.ropeAt c with | some r => r.gang t.strand | none => []
  b2n (own false) + 2 * b2n (own true) + 4 * b2n (k.bank c.core false).poison + 8 * b2n (k.bank c.core true).poison
    + 16 * ((k.steps.filter fun m => m.parts.any fun p => p.core == c.core).length % 4)
    + 2 ^ 8 * (gang.foldl (fun n g => n + 2 ^ g) 0)

/-- The classes that are shed and unnamed: each waits until it is restored, past the end of its hold-off too (Table 18-6, R355; chapter 19 reads
WAIT 0x80 for a class whose hold-off is over). -/
def Power.waiting (p : Power) : Nat :=
  ((List.range 8).map fun c => if p.shed.getLsbD c && p.unnamedSince.any (fun e => e.1 == c) then 2 ^ c else 0).sum

/-- The granted fraction of a thermal step, in 1/128 (Table 18-4). -/
def allowOf (step : Nat) : Nat :=
  match step with
  | 0 => 128
  | 1 => 96
  | 2 => 64
  | _ => 0

/-- The hottest stack reading of the package. -/
def Power.hottest (p : Power) : Nat := p.temp.toList.foldl max 0

/-- The power and thermal registers, as a firing of a core reads them (Tables 18-5 and 18-6). -/
def State.readPower (s : State) (c : CoreId) (n : Nat) : Nat :=
  let p := s.power
  let part := s.part (s.partAt c)
  let die := dieOf c.cluster
  let at_ (v : Vector Nat 4) (i : Nat) : Nat := v.toList[i]?.getD 0
  match n with
  | 0x100 => ((List.range 4).map fun i => allowOf (at_ p.thermal i) * 2 ^ (8 * i) + at_ p.thermal i * 2 ^ (32 + 2 * i)).sum
      + p.hottest % 2 ^ 8 * 2 ^ 40
  | 0x101 => p.seq.toNat + 2 ^ 16 * p.freq.toNat + 2 ^ 48 * b2n p.stale
  | 0x102 => p.vbus.toNat + 2 ^ 32 * p.bad.toNat + 2 ^ 48 * p.gaps.toNat
  | 0x103 => p.curve.toNat + 2 ^ 8 * p.safe.toNat + 2 ^ 16 * p.shed.toNat + 2 ^ 24 * p.waiting
  | 0x104 => p.lastShed.toNat + 2 ^ 32 * p.lastRest.toNat
  | 0x105 => part.allot.toNat + 2 ^ 16 * part.lastWin.toNat + 2 ^ 32 * part.throttle.toNat
  | 0x106 => part.fillAcc.toNat
  | 0x107 => at_ p.target die + 2 ^ 16 * at_ p.nowMv die + 2 ^ 32 * ((part.votes.toList[die]?.getD 0).toNat) + 2 ^ 48 * b2n (s.cluster c.cluster).high
  | _ => p.down.toNat + 2 ^ 16 * p.up.toNat + 2 ^ 32 * p.missed.toNat

/-- VFCTL of a VF (Table 16-12). -/
def Vf.ctl (v : Vf) : Nat :=
  v.slice.toNat + 2 ^ 32 * b2n v.classB + 2 ^ 33 * v.floor.toNat + 2 ^ 36 * v.trapWait.toNat + 2 ^ 44 * v.faultEp.toNat + 2 ^ 56 * v.seqDie.toNat

/-- The registers of Table 16-6, as the core sees them (R318, R319). -/
def State.readSys (s : State) (c : CoreId) (n : BitVec 12) : Word64 :=
  let k := s.core c
  let r := k.regs
  let rope := s.ropeAt c
  let vf := s.vfs.get (s.vfAt c)
  let part := s.part (s.partAt c)
  let ofVf (f : Vf → Nat) : Nat := match vf with | some v => f v | none => 0
  let ofRope (f : Rope → Nat) : Nat := match rope with | some x => f x | none => 0
  match n.toNat with
  | 0x000 => r.flags.setWidth 64
  | 0x001 => r.enable.setWidth 64
  | 0x002 => .ofNat 64 (r.rm.toNat + 8 * b2n r.sat8)
  | 0x010 => .ofNat 64 (k.curSlot.limit.toNat + 2 ^ 32 * k.left.toNat)
  | 0x011 => s.firingId c
  | 0x012 => .ofNat 64 (r.lanes + 2 ^ 8 * r.vl + 2 ^ 16 * s.lanesFree c)
  | 0x013 => mailboxAddress (s.vfAt c) (ofRope (·.context)) k.curSlot.logical 0
  | 0x014 => .ofNat 64 (2 ^ 62 * b2n (!k.hbind.isEmpty) + 2 ^ 63 * b2n k.hbad)
  | 0x015 => .ofNat 64 (s.matstat c)
  | 0x020 => s.now
  | 0x021 => .ofNat 64 (s.partAt c)
  | 0x022 => .ofNat 64 (s.vfAt c)
  | 0x023 => .ofNat 64 part.base
  | 0x024 => .ofNat 64 (part.len + 2 ^ 16 * part.barctx)
  | 0x025 => .ofNat 64 (ofVf Vf.ctl)
  | 0x026 => .ofNat 64 (part.rate.toNat + 2 ^ 32 * part.burst.toNat)
  | 0x027 => .ofNat 64 (ofVf fun v => v.throttleAcc.toNat)
  | 0x028 => .ofNat 64 (ofVf fun v => v.overrun.toNat + 2 ^ 32 * v.gap.toNat)
  | 0x029 => k.cycles
  | 0x030 => .ofNat 64 (ofRope fun x => x.reread.toNat)
  | 0x031 => .ofNat 64 (ofRope fun x => x.notifyLost.toNat)
  | 0x040 => .ofNat 64 (k.snap.seq.toNat + 2 ^ 16 * k.snap.cause.toNat)
  | 0x041 => k.snap.cyc
  | 0x042 => k.snap.sent
  | 0x043 => k.snap.recv
  | 0x044 => .ofNat 64 (k.snap.pc.toNat + 2 ^ 22 * b2n k.snap.valid)
  | m => .ofNat 64 (s.readPower c m)

/-- `rds` (R318). -/
def execRds (d : BitVec 5) (n : BitVec 12) (s : State) : Out :=
  s.issue s.cur [] [.x d] fun s => .done (s.putXNext s.cur d (s.readSys s.cur n))

/-- Whether a write to HBIND is rejected (R269). -/
def State.hbindRejected (s : State) (c : CoreId) (w : Word64) : Bool :=
  let mask := bitsOf w.toNat 8 8
  let entry := bitsOf w.toNat 32 22
  let size := match s.textAt c with | some t => t.bytes.length | none => 0
  w.getLsbD 16 && (mask == 0 || entry % 4 != 0 || decide (size ≤ entry)
    || (List.range 8).any fun k => bitsOf mask k 1 == 1 && (match (s.core c).curSlot.ins[k]? with | some p => p.rate == 0 | none => true))

/-- Writes a system register: its fields of Access RW or WO (R8, R318). -/
def State.writeSys (s : State) (c : CoreId) (n : BitVec 12) (w : Word64) : State :=
  match n.toNat with
  | 0x000 => s.modRegs c fun r => { r with flags := w.setWidth 5 }
  | 0x001 => s.modRegs c fun r => { r with enable := w.setWidth 5 }
  | 0x002 => s.modRegs c fun r => { r with rm := if bitsOf w.toNat 0 3 ≤ 4 then w.setWidth 3 else r.rm, sat8 := w.getLsbD 3 }
  | 0x010 =>
    let v := bitsOf w.toNat 0 21
    if 1 ≤ v ∧ v ≤ 0x100000 then s.modCore c fun k => k.modCur fun t => { t with limit := .ofNat 21 v } else s
  | 0x014 =>
    if s.hbindRejected c w then s.modCore c fun k => { k with hbad := true }
    else s.modCore c fun k => { k with hbind := k.hbind ++ [w], hbad := false }
  | _ => s

/-- `wrs` (R318). -/
def execWrs (a : BitVec 5) (u : Bool) (n : BitVec 12) (s : State) : Out :=
  s.issue s.cur [⟨.x a, u⟩] [] fun s =>
    let (w, s) := s.takeX s.cur a
    .done ((s.writeSys s.cur n w).advance s.cur)

/-- `trap` (R318): SOFT, with the code as DETAIL. -/
def execTrap (c : BitVec 12) (s : State) : Out := s.issue s.cur [] [] fun s => .trap s .soft (c.setWidth 64)

/-- `snap` (R318, R340). -/
def execSnap (s : State) : Out := s.issue s.cur [] [] fun s => .done ((s.advance s.cur).snapshot (s.partAt s.cur) 0)

/-- `time` (R318): waits for every earlier instruction of the firing, long-latency producers and the scales of started steps included. -/
def execTime (d : BitVec 5) (s : State) : Out :=
  s.issue s.cur [] [.x d] fun s =>
    let k := s.core s.cur
    if k.own.isEmpty && k.scales.all (fun e => e.2.2.1 != k.firingNo) then .done (s.putXNext s.cur d s.now) else .stall

/-- `ILLEGAL_WORD` (R54, R113): a word that is no instruction; outside the text it is zero, and so is DETAIL. -/
def execIllegalWord (word : BitVec 32) (s : State) : Out := .next (s.trapHere s.cur .illegal (word.setWidth 64))

/-! ## Retirement of an actor and of its strand -/

/-- The places of a strand's actors. -/
def Rope.placesOf (r : Rope) (strand : Nat) : List (CoreId × Nat) :=
  match r.decl.strands[strand]? with
  | some d => (List.range d.actors.length).filterMap fun a => r.place (128 * strand + a)
  | none => []

/-- Sets every accumulator bank that a strand owns to +0 with owner none. That its poison goes with it is the model's choice (R238; log entry 28). -/
def Cluster.zeroBanks (k : Cluster) (owner : Nat × Nat) : Cluster :=
  { k with banks := k.banks.map fun b => if b.owner = some owner then ⟨none, 0, false⟩ else b }

/-- The banks of a strand that retires, or whose VF is switched out, are cleared, once every started step of the strand has completed (R238). That their poison is cleared with
them is the model's choice (log entry 28). -/
def Cluster.clearBanks (k : Cluster) (rope strand : Nat) : Cluster :=
  if k.steps.any fun m => m.owner == (rope, strand) then { k with doomed := k.doomed ++ [(rope, strand)] } else k.zeroBanks (rope, strand)

/-- A step of a strand has completed: where it was the last that a retired strand waited for, the strand's banks are cleared (R238). -/
def Cluster.settleDoomed (k : Cluster) (owner : Nat × Nat) : Cluster :=
  if k.doomed.contains owner && !k.steps.any fun m => m.owner == owner then
    { k.zeroBanks owner with doomed := k.doomed.filter (· != owner) }
  else k

/-- A strand retires (R368): its banks are cleared (R238), the stops of its actors expire, its actor slots are VACANT; what it held is free for the next
placement, which sees that the strand is retired. With the last strand of a rope, a shed that waited for the rope is complete (R353). -/
def State.retireStrand (s : State) (rope strand : Nat) : State :=
  match s.ropes.get rope with
  | none => s
  | some r =>
    let places := r.placesOf strand
    let cl := match r.strands[strand]? with | some st => st.cluster | none => 0
    let s := s.modCluster cl fun k => k.clearBanks rope strand
    let s := s.tours.foldl (fun s e =>
      if e.2.rope = rope ∧ (e.2.phase = .held ∨ e.2.phase = .arrived) ∧ (s.stopActor e.2).any (fun p => places.contains p)
        then s.expireTour e.1 e.2 else s) s
    let s := if s.switchedOut r.vf then
        s.modVf r.vf fun v => { v with saved := v.saved.map fun im =>
          { im with slots := im.slots.filter fun e => !(e.2.2.rope == rope && e.2.2.strand == strand) } }
      else places.foldl (fun s p => if ((s.core p.1).slot p.2).rope = rope then s.modSlot p.1 p.2 fun _ => Slot.vacant else s) s
    (s.modRope rope fun r => { r with strands := modAt r.strands strand fun st => { st with retired := true } }).settleShed

/-- `STRAND_RETIRE` (R368): the strand retires with the last of its actors. -/
def State.strandIfDone (s : State) (rope strand : Nat) : State :=
  match s.ropes.get rope with
  | none => s
  | some r =>
    if (r.placesOf strand).all fun p => ((s.core p.1).slot p.2).phase == .retired && ((s.core p.1).slot p.2).rope == rope
      then s.retireStrand rope strand else s

/-- `retire` (R112): RETIRE unless a `cbar` of this actor has completed. -/
def execRetire (s : State) : Out :=
  let t := (s.core s.cur).curSlot
  if !(s.core s.cur).wait.mayFinish then .next (s.stall s.cur)
  else if !t.barred then .next (s.trapHere s.cur .retire 0)
  else finishFiring s s.cur fun s => (s.retireSlot s.cur).strandIfDone t.rope t.strand

end Sys2Proof.Machine
end

