-- ==== Sys2Proof/Machine/Translation.lean ====
section
/-! DEFINITION. Translation: TLBs, the TSC's cache and walks, faults and their answers, shootdowns (R321 to R331). -/

namespace Sys2Proof.Machine

/-! ## Writing and removing entries -/

/-- Whether the pages of two entries of one VF share an address. -/
def TlbEntry.overlaps (a b : TlbEntry) : Bool := a.vf == b.vf && (a.maps b.vf.toNat (b.vpn.toNat * 2 ^ 16) || b.maps a.vf.toNat (a.vpn.toNat * 2 ^ 16))

/-- Whether two entries are of one VF, size and page. -/
def TlbEntry.samePage (a b : TlbEntry) : Bool := a.vf == b.vf && a.size == b.size && a.vpn == b.vpn

/-- Writes an entry into a place of a core's TLB. Every other entry stays, and gives no translation any more for the addresses of the new one's page (R250). -/
def Core.tlbPut (k : Core) (i : Nat) (e : TlbEntry) : Core :=
  let older := (List.range 64).filter fun j => j != i && ((k.tlb[j]?).join).any fun x => x.overlaps e
  { k with
    tlb := k.tlb.setIfInBounds i (some e)
    tlbOld := (k.tlbOld.filter fun o => o.1 != i && !o.2.samePage e) ++ older.map fun j => (j, e) }

/-- Writes an entry into a core's TLB: over the entry of the same VF, size and page, else at the pointer, which moves on; the other entries stay (R330). -/
def Core.tlbWrite (k : Core) (e : TlbEntry) : Core :=
  match k.tlb.toList.findIdx? fun x => x.any e.samePage with
  | some i => k.tlbPut i e
  | none => { k.tlbPut k.tlbPtr.toNat e with tlbPtr := k.tlbPtr + 1 }

/-- The park for a translation is over: the destination of the load that missed waits for it no more (R141). -/
def State.endMiss (s : State) (c : CoreId) (dest : Option Reg) : State :=
  match dest with
  | some g => s.modRegs c fun r => r.mark g false
  | none => s

/-- A core's firing that waits for a translation runs on: its access issues again (R321). -/
def State.endTranslationPark (s : State) (c : CoreId) : State :=
  match (s.core c).park with
  | some (.translation _ _ dest) => (s.endMiss c dest).unpark c
  | _ => s

/-- Whether a core's firing is parked for a translation that its TLB holds now. -/
def State.translated (s : State) (c : CoreId) : Bool :=
  match (s.core c).park with
  | some (.translation va write _) => ((s.core c).tlbFind (s.vfAt c) va.toNat write).isSome
  | _ => false

/-- Writes an entry into the TLBs of cores of a cluster; firings parked for it run on. -/
def State.tlbInstall (s : State) (cl : Nat) (cores : List Nat) (e : TlbEntry) : State :=
  cores.foldl (fun s k =>
    let c : CoreId := ⟨cl, k⟩
    let s := s.modCore c fun q => q.tlbWrite e
    if s.translated c then (s.endTranslationPark c).modCluster cl fun q => q.dropWaiter (.core k) else s) s

/-- The entry that a tag word and a frame word give (R329). -/
def tlbEntryOf (tag frame : Word64) : TlbEntry :=
  let f := frame.toNat
  ⟨.ofNat 36 tag.toNat, .ofNat 9 (tag.toNat / 2 ^ 36), .ofNat 2 (tag.toNat / 2 ^ 45), .ofNat 23 f,
    frame.getLsbD 23, frame.getLsbD 24, frame.getLsbD 25⟩

/-- The cores that a tag word selects. -/
def tagCores (tag : Word64) : List Nat := (List.range 8).filter fun k => tag.getLsbD (47 + k)

/-- `tlbw` (R330): a compute core traps ILLEGAL. Where one bound port register gives both words, the tag word comes first: the model's choice, since R53
orders rs1 and rs2 only (log entry 66). -/
def execTlbw (d a : BitVec 5) (u : Bool) (s : State) : Out :=
  let word : Word64 := .ofNat 64 ((encode (.tlbw d a u)).getD 0).toNat
  if s.cur.core ≠ 8 then .next (s.trapHere s.cur .illegal word)
  else s.issue s.cur [⟨.x d, false⟩, ⟨.x a, u⟩] [] fun s0 =>
    let (tag, s) := s0.takeX s0.cur a
    let (frame, s) := s.takeX s.cur d
    let e := tlbEntryOf tag frame
    if bitsOf tag.toNat 55 9 ≠ 0 ∨ 2 ^ 26 ≤ frame.toNat ∨ e.vpn.toNat % 2 ^ (pageBits e.size - 16) ≠ 0 then .trap s0 .engine word
    else .done ((s.tlbInstall s.cur.cluster (tagCores tag) e).advance s.cur)

/-- Whether a tag word names an entry for removal (R331). -/
def tagRemoves (tag : Word64) (e : TlbEntry) : Bool :=
  e.vf.toNat == bitsOf tag.toNat 36 9 && (tag.getLsbD 55 || e.maps e.vf.toNat (bitsOf tag.toNat 0 36 * 2 ^ 16))

/-- Removes entries from the TLBs of cores of a cluster. -/
def State.tlbRemove (s : State) (cl : Nat) (cores : List Nat) (tag : Word64) : State :=
  cores.foldl (fun s k => s.modCore ⟨cl, k⟩ fun q =>
    { q with tlb := q.tlb.map fun x => match x with | some e => if tagRemoves tag e then none else x | none => x }) s

/-- Whether what a core waits for is no access to device memory: no block of a vector store that has not entered the store buffer, and no word that
`waita` will read again (R218, R250, R278). -/
def Wait.deviceFree (w : Wait) : Bool :=
  match w with
  | .vstore blocks => blocks.all fun e => decide (2 ^ 39 ≤ e.op.loc)
  | .waita _ loc _ _ _ => decide (2 ^ 39 ≤ loc)
  | _ => true

/-- Whether every access of cores of a cluster to device memory has been applied at its home (R250, R331). -/
def State.deviceApplied (s : State) (cl : Nat) (cores : List Nat) : Bool :=
  cores.all fun k => (s.core ⟨cl, k⟩).wait.deviceFree && (s.unperformed ⟨cl, k⟩).all fun a => decide (2 ^ 39 ≤ a.loc)

/-- `tlbinv` (R331): the entries go at once, and it completes when the accesses that may have used them are applied. -/
def execTlbinv (a : BitVec 5) (u : Bool) (s : State) : Out :=
  let word : Word64 := .ofNat 64 ((encode (.tlbinv a u)).getD 0).toNat
  if s.cur.core ≠ 8 then .next (s.trapHere s.cur .illegal word)
  else s.issue s.cur [⟨.x a, u⟩] [] fun s0 =>
    let (tag, s) := s0.takeX s0.cur a
    if bitsOf tag.toNat 56 8 ≠ 0 then .trap s0 .engine word
    else if s.deviceApplied s.cur.cluster (tagCores tag) then .done ((s.tlbRemove s.cur.cluster (tagCores tag) tag).advance s.cur)
    else .done ((s0.tlbRemove s0.cur.cluster (tagCores tag) tag).stall s0.cur)

/-! ## Walks -/

/-- How a walk ends (R324): malformed, a fault with the entry's address and value, or a leaf. -/
inductive WalkEnd where
  | xlate
  | fault (pa : Nat) (entry : Word64)
  | leaf (e : TlbEntry)
  deriving DecidableEq, Repr

/-- A level of the shadow tables (Table 16-9): the lowest index bit, the number of index bits, and the size a leaf maps; none where a leaf is not allowed. -/
structure Level where
  lo : Nat
  bits : Nat
  leaf : Option (BitVec 2)
  deriving DecidableEq, Repr

/-- The five levels. -/
def levels : List Level := [⟨42, 10, none⟩, ⟨33, 9, some 3⟩, ⟨28, 5, some 2⟩, ⟨21, 7, some 1⟩, ⟨16, 5, some 0⟩]

/-- Walks the levels from a table on (R323, R324); each entry is read once. The model's readings: reserved bits are tested before V, and a LEAF at level 0 and a misaligned ADDR
after it (log entry 19); an entry in a word with an uncorrectable error is used as its bytes stand (log entry 88). -/
def walkLevels (mem : Memory) (vf : Nat) (va : Nat) (write : Bool) : List Level → Nat → WalkEnd
  | [], _ => .xlate
  | l :: rest, table =>
    let pa := locDram (table + 8 * bitsOf va l.lo l.bits)
    let e : Word64 := .ofNat 64 (leNat (mem.read pa 8))
    let addr := bitsOf e.toNat 8 31 * 2 ^ 8
    if bitsOf e.toNat 6 2 ≠ 0 ∨ bitsOf e.toNat 39 25 ≠ 0 then .xlate
    else if !e.getLsbD 0 then .fault pa e
    else if e.getLsbD 1 then
      match l.leaf with
      | none => .xlate
      | some size =>
        if addr % 2 ^ pageBits size ≠ 0 then .xlate
        else if !(if write then e.getLsbD 3 else e.getLsbD 2) then .fault pa e
        else .leaf ⟨.ofNat 36 (va / 2 ^ pageBits size * 2 ^ (pageBits size - 16)), .ofNat 9 vf, size, .ofNat 23 (addr / 2 ^ 16),
          e.getLsbD 2, e.getLsbD 3, e.getLsbD 4⟩
    else
      match rest with
      | [] => .xlate
      | n :: _ => if addr % 2 ^ (n.bits + 3) ≠ 0 then .xlate else walkLevels mem vf va write rest addr

/-- The entries that a walk reads from a table on, by their locations. -/
def walkReads (mem : Memory) (va : Nat) : List Level → Nat → List Nat
  | [], _ => []
  | l :: rest, table =>
    let pa := locDram (table + 8 * bitsOf va l.lo l.bits)
    let e : Word64 := .ofNat 64 (leNat (mem.read pa 8))
    pa :: (if e.getLsbD 0 && !e.getLsbD 1 then walkReads mem va rest (bitsOf e.toNat 8 31 * 2 ^ 8) else [])

/-- Whether a walk has to wait: an entry that it reads lies in a stack that takes no access (R361), or the network of the system drains, by which the model has a walk's reads go
(R291, R293; log entry 57). -/
def State.walkAsleep (s : State) (vf va : Nat) : Bool :=
  s.draining systemNet || match s.vfs.get vf with
  | some v => (walkReads s.mem va levels v.root.toNat).any s.asleep
  | none => false

/-- The walk of an address of a VF. -/
def State.walk (s : State) (vf : Nat) (va : Nat) (write : Bool) : WalkEnd :=
  match s.vfs.get vf with
  | some v => walkLevels s.mem vf va write levels v.root.toNat
  | none => .xlate

/-- Whether two accesses are of one VF and one 64 KiB page (R322). -/
def Walk.samePage (w : Walk) (vf : Nat) (va : BitVec 52) : Bool := w.vf == vf && w.va.toNat / 2 ^ 16 == va.toNat / 2 ^ 16

/-- Puts an entry into the TSC's translation cache of 4,096 entries, over the entries that map a part of its page (R250, R322). -/
def Cluster.cacheWrite (k : Cluster) (e : TlbEntry) : Cluster :=
  { k with cache := (e :: k.cache.filter fun x => !x.overlaps e).take 4096 }

/-- The number of the TSC's next walk: from its counter on, the first of the 16-bit numbers that no walk under way has (Table 16-11). -/
def Cluster.freeWalk (k : Cluster) : Nat :=
  (((List.range 65).map fun i => (k.walkNext + i) % 2 ^ 16).find? fun n => !k.walks.any fun w => w.no == n).getD 0

/-- A walk starts for a miss. -/
def Cluster.startWalk (k : Cluster) (m : Walk) : Cluster :=
  { k with walks := k.walks ++ [{ m with no := k.freeWalk }], walkNext := (k.freeWalk + 1) % 2 ^ 16 }

/-- What the TSC's cache gives a miss (R322). -/
def Cluster.cached (k : Cluster) (m : Walk) : Option TlbEntry := findEntry k.cache m.vf m.va.toNat m.write

/-- Whether a walk of a miss's page is under way (R322). -/
def Cluster.walked (k : Cluster) (m : Walk) : Bool := k.walks.any fun w => w.samePage m.vf m.va

/-- The miss that a TSC serves next: the oldest, but where 64 walks are under way the oldest that needs no walk of its own (R322). -/
def Cluster.nextMiss (k : Cluster) : Option Walk := k.misses.find? fun m => decide (k.walks.length < 64) || (k.cached m).isSome || k.walked m

/-- `TSC_MISS_REQUEST` (R322): a miss is answered from the cache, joins a walk of its page, or starts one. -/
def execTscMissRequest (cl : Nat) (s : State) : Out :=
  let k := s.cluster cl
  match k.nextMiss with
  | none => .next s
  | some m =>
    let popped := s.modCluster cl fun k => { k with misses := k.misses.erase m }
    match k.cached m with
    | some e => .next (popped.tlbInstall cl (m.waiters.filterMap fun w => match w with | .core n => some n | .job _ => none) e)
    | none =>
      if k.walked m then
        .next (popped.modCluster cl fun k =>
          { k with walks := k.walks.map fun w => if w.samePage m.vf m.va then { w with waiters := w.waiters ++ m.waiters } else w })
      else .next (popped.modCluster cl fun k => k.startWalk m)

/-- A waiter's access ends in a trap (XLATE or PAGEFAULT), or its job in FAULT (R324 to R326). -/
def State.failWaiter (s : State) (cl : Nat) (code : TrapCode) (refused : Bool) (w : Waiter) : State :=
  match w with
  | .job id => s.failJob cl id code
  | .core n =>
    let c : CoreId := ⟨cl, n⟩
    match (s.core c).park with
    | some (.translation va write dest) =>
      let pc := (s.core c).regs.pc
      (s.endMiss c dest).takeTrap c code (accessDetail va.toNat 4 write ||| .ofNat 64 (2 ^ 56 * b2n refused)) pc (some (pc + 4))
    | _ => s

/-- A walk is over: it leaves the list, and each waiter is told. -/
def State.endWalk (s : State) (cl : Nat) (w : Walk) (f : State → Waiter → State) : State :=
  w.waiters.foldl f (s.modCluster cl fun k => { k with walks := k.walks.filter fun x => x.no != w.no })

/-- The address of a host endpoint of a VF (R295). -/
def endpointAddress (vf ep : Nat) : Word64 := .ofNat 64 (ep % 2 ^ 12 + 2 ^ 24 * (vf % 2 ^ 9) + 2 ^ 33 * 2)

/-- The fault message (Table 16-11). -/
def faultMsg (cl : Nat) (w : Walk) (pa : Nat) (entry : Word64) : Msg :=
  let job := w.waiters.all fun x => match x with | .job _ => true | .core _ => false
  plainMsg 0x1B [.ofNat 64 (w.no % 2 ^ 16 + 2 ^ 16 * cl + 2 ^ 24 * w.vf + 2 ^ 33 * b2n w.write + 2 ^ 34 * b2n job),
    .ofNat 64 w.va.toNat, .ofNat 64 pa, entry]

/-- `TSC_WALK_DONE` (R324, R325). -/
def execTscWalkDone (cl walk : Nat) (s : State) : Out :=
  match (s.cluster cl).walks.find? fun w => w.no == walk && w.asked.isNone with
  | none => .next s
  | some w =>
    if s.walkAsleep w.vf w.va.toNat then .next s else
    match s.walk w.vf w.va.toNat w.write with
    | .xlate => .next (s.endWalk cl w fun s x => s.failWaiter cl .xlate false x)
    | .leaf e =>
      let s := s.modCluster cl fun k => k.cacheWrite e
      .next (s.endWalk cl w fun s x =>
        match x with
        | .core n => (s.modCore ⟨cl, n⟩ fun q => q.tlbWrite e).endTranslationPark ⟨cl, n⟩
        | .job _ => s)
    | .fault pa entry =>
      if entry.getLsbD 5 then .next (s.endWalk cl w fun s x => s.failWaiter cl .pagefault false x)
      else
        let ep := match s.vfs.get w.vf with | some v => v.faultEp.toNat | none => 0
        let s := s.modCluster cl fun k =>
          { k with walks := k.walks.map fun x => if x.no = w.no then { x with asked := some s.now.toNat } else x }
        .next (s.inject (.tsc cl) w.vf cl (endpointAddress w.vf ep) (faultMsg cl w pa entry) 0 none)

/-! ## Answers of the hypervisor -/

/-- Takes a request off the system ports. -/
def State.takeReq (s : State) (no : Nat) : State := { s with sysReqs := s.sysReqs.filter fun q => q.no != no }

/-- TRAPWAIT of a VF in ticks: milliseconds of 10^6 ticks (R316). -/
def State.trapWait (s : State) (vf : Nat) : Nat := (match s.vfs.get vf with | some v => v.trapWait.toNat | none => 0) * 1000000

/-- Whether an answer that was accepted at a time is one that a walk waits for: its fault message is out, and TRAPWAIT had not passed (R326). -/
def State.awaitsAnswer (s : State) (at_ : Nat) (w : Walk) : Bool :=
  match w.asked with
  | some since => decide (at_ < since + s.trapWait w.vf)
  | none => false

/-- The walk that a fault reply answers (R326). A bit of word 0 that the rule makes zero is not looked at: the model's choice (log entry 94). -/
def State.askedWalk (s : State) (q : SysReq) : Option (Nat × Walk) :=
  let cl := bitsOf q.word0.toNat 16 8
  ((s.cluster cl).walks.find? fun w => w.no == bitsOf q.word0.toNat 0 16 && w.vf == q.vf && s.awaitsAnswer q.at_ w).map fun w => (cl, w)

/-- The fault reply of a number, if its verb is of a kind. -/
def State.faultReply (s : State) (reply : Nat) (verb : Nat → Bool) : Option SysReq :=
  s.sysReqs.find? fun q => q.no == reply && q.service == 3 && verb (bitsOf q.word0.toNat 24 2)

/-- A walk is denied: PAGEFAULT with DETAIL[56], or the job's FAULT (R326). -/
def State.denyWalk (s : State) (cl : Nat) (w : Walk) : State := s.endWalk cl w fun s x => s.failWaiter cl .pagefault true x

/-- `FAULT_RETRY` (R326): the TSC walks again. -/
def execFaultRetry (reply : Nat) (s : State) : Out :=
  match s.faultReply reply (· == 0) with
  | none => .next s
  | some q =>
    match s.askedWalk q with
    | none => .next (s.takeReq reply)
    | some (cl, w) =>
      .next ((s.takeReq reply).modCluster cl fun k =>
        { k with walks := k.walks.map fun x => if x.no = w.no then { x with asked := none } else x })

/-- `FAULT_DENY` (R326): any verb but RETRY and EMULATED. -/
def execFaultDeny (reply : Nat) (s : State) : Out :=
  match s.faultReply reply (fun v => v == 1 || v == 3) with
  | none => .next s
  | some q =>
    match s.askedWalk q with
    | none => .next (s.takeReq reply)
    | some (cl, w) => .next ((s.takeReq reply).denyWalk cl w)

/-- `FAULT_EMULATED` (R326): the waiting access completes with VALUE; a waiting job treats it as DENY. -/
def execFaultEmulated (reply : Nat) (s : State) : Out :=
  match s.faultReply reply (· == 2) with
  | none => .next s
  | some q =>
    match s.askedWalk q with
    | none => .next (s.takeReq reply)
    | some (cl, w) =>
      .next ((s.takeReq reply).endWalk cl w fun s x =>
        match x with
        | .job _ => s.failWaiter cl .pagefault true x
        | .core n =>
          match (s.core ⟨cl, n⟩).park with
          | some (.translation va _ _) => (s.modCore ⟨cl, n⟩ fun k => { k with emul := k.emul ++ [(va, q.word1)] }).endTranslationPark ⟨cl, n⟩
          | _ => s)

/-- Whether an answer to a walk was accepted in time, and is still to be acted on (R326). -/
def State.answered (s : State) (cl : Nat) (w : Walk) : Bool := s.sysReqs.any fun q => q.service == 3 && s.askedWalk q == some (cl, w)

/-- `FAULT_ANSWER_TIMEOUT` (R326): no answer within TRAPWAIT. -/
def execFaultAnswerTimeout (cl walk : Nat) (s : State) : Out :=
  match (s.cluster cl).walks.find? fun w => w.no == walk with
  | none => .next s
  | some w =>
    match w.asked with
    | some since => if since + s.trapWait w.vf ≤ s.now.toNat ∧ !s.answered cl w then .next (s.denyWalk cl w) else .next s
    | none => .next s

/-- `SHOOTDOWN` (R327): the TSC of one cluster of the range removes the matching entries from its cache and from the eight TLBs, and answers once the
accesses that may have used them are applied. Bits [63:56] of the tag word, with which a `tlbinv` would trap ENGINE, are not looked at: the model's choice (log entry 94). -/
def execShootdown (req cl : Nat) (s : State) : Out :=
  match s.sysReqs.find? fun q => q.no == req && q.service == 2 with
  | none => .next s
  | some q =>
    let first := bitsOf q.word1.toNat 0 8
    let count := bitsOf q.word1.toNat 8 8 + 1
    if cl < first ∨ first + count ≤ cl ∨ q.done.contains cl then .next s
    else
      let s := (s.tlbRemove cl (List.range 8) q.word0).modCluster cl fun k => { k with cache := k.cache.filter fun e => !tagRemoves q.word0 e }
      if !s.deviceApplied cl (List.range 8) then .next s
      else
        let (vf, ep) := match q.reply.sender with | .host vf ep => (vf, ep) | _ => (q.vf, 0)
        let done := cl :: q.done
        let all := decide (min count (256 - first) ≤ done.length)
        let left := if all then s.sysReqs.filter (fun x => x.no != req)
          else s.sysReqs.map (fun x => if x.no = req then { x with done := done } else x)
        let s := { s with sysReqs := left }
        .next (s.inject (.tsc cl) vf cl (endpointAddress vf ep)
          (plainMsg 0x19 [.ofNat 64 (cl + 2 ^ 48 * bitsOf q.word1.toNat 48 16), 0]) 0 none)

end Sys2Proof.Machine
end

