-- ==== Sys2Proof/Machine/Firing.lean ====
section
/-! DEFINITION. The scheduler: starting a firing (R24, R98 to R109), the watchdog, and what becomes of a parked firing (R105, R312 to R317). -/

namespace Sys2Proof.Machine

/-! ## Starting a firing -/

/-- The READY slots of a core with the class of their ropes (R98). -/
def State.readySlots (s : State) (c : CoreId) : List (Nat × Nat) :=
  (List.range 16).filterMap fun i =>
    if s.slotStatus c i = .ready then
      (s.ropes.get ((s.core c).slot i).rope).map fun r => (i, r.decl.cls.toNat)
    else none

/-- The slot that the scheduler takes (R100): of the lowest class, the first after that class's pointer. -/
def State.pickSlot (s : State) (c : CoreId) : Option (Nat × Nat) :=
  let ready := s.readySlots c
  let cls := (ready.map fun e => e.2).foldl min 8
  let ptr := match (s.core c).pointers.toList[cls]? with | some p => p.toNat | none => 15
  (((List.range 16).map fun j => (ptr + 1 + j) % 16).find? fun i => ready.contains (i, cls)).map fun i => (i, cls)

/-- Claims a port's rate of messages if the chosen handler lists it (R24). -/
def claimPorts (mask : BitVec 8) (ins : List InPort) : List InPort :=
  ins.zipIdx.map fun (p, k) => { p with claimed := if mask.getLsbD k then p.rate else 0, readWords := 0 }

/-- The gating ports of a handler's list, in ascending order. -/
def gatingPorts (mask : BitVec 8) : List Nat := (List.range 8).filter fun k => mask.getLsbD k

/-- A tagged capability whose cursor is its base (R132). -/
def presetCap (space : BitVec 3) (base : Nat) (len : Nat) (perm : BitVec 4) : Cap :=
  ({ cursor := .ofNat 52 base, base := .ofNat 52 base, mant := 0, exp := 0, perm := perm, space := space, tag := true : Cap }).withLen len

/-- The registers of a firing start (Table 04-4, R109). -/
def Slot.startRegs (t : Slot) (h : Handler) (argVa : BitVec 52) (argLen : Nat) : Regs :=
  let ports := gatingPorts h.mask
  let bound (j : Nat) : Binding := match ports[j]? with | some k => .recv k | none => .unbound
  let x := (((Regs.zero.x.set 10 (.ofNat 64 t.actor)).set 11 (.ofNat 64 t.strand)).set 12 (.ofNat 64 (ports.head?.getD 0)))
  let c1 := presetCap 1 t.stateBase t.stateLen 0xB
  let c2 := presetCap 4 argVa.toNat argLen 0x1
  let c3 := if t.scratchLen = 0 then Cap.null else presetCap 1 t.scratchBase t.scratchLen 0xB
  { Regs.zero with
    x := x
    c := ((Regs.zero.c.set 1 c1).set 2 c2).set 3 c3
    pc := .ofNat 64 h.entry
    bind := #v[bound 0, bound 1, bound 2, bound 3] }

/-- The tiles whose arrival messages a firing claims are visited; on the make-good lap their bit clears (R159, R163). -/
def State.visitTiles (s : State) (c : CoreId) (i : Nat) (firing : Nat) (claimed : List Msg) : State :=
  { s with tours := s.tours.map fun e =>
      let t := e.2
      let here := t.phase == .arrived && s.stopActor t == some (c, i)
        && claimed.any fun m => kindOf m.typ == 1 && m.words[0]? == some (.ofNat 64 (s.tileHandle t))
      if here then (e.1, { t with
        phase := .visited c.core i firing
        holdFrom := none
        mask := if t.lap then setBit t.mask t.stop false else t.mask }) else e }

/-- The tiles at the actors of a core whose hold counts have passed their limits expired before, so that no firing that starts now visits them (R159, R170). -/
def State.expireOverdue (s : State) (c : CoreId) : State :=
  s.tours.foldl (fun s e =>
    if (e.2.phase = .held ∨ e.2.phase = .arrived) ∧ s.tileOverdue e.2 ∧ (s.stopActor e.2).any (fun p => p.1 == c) then s.expireTour e.1 e.2 else s) s

/-- `FIRING_START` (R24, R99, R100, R108): claim and start are one step. -/
def execFiringStart (c : CoreId) (s : State) : Out :=
  if (s.core c).running.isSome ∨ 8 ≤ c.core then .next s
  else
    let s := s.expireOverdue c
    let k := s.core c
    match s.pickSlot c with
    | none => .next s
    | some (i, cls) =>
      if hi : i < 16 then
        let t := k.slots[i]
        match t.chosen, s.ropes.get t.rope with
        | some hn, some r =>
          let h := (t.handlers[hn]?).getD ⟨0, 0, false⟩
          let ins := claimPorts h.mask t.ins
          let claimed := (ins.map fun p => p.msgs.take p.claimed).flatten
          let t' := { t with
            phase := .firing
            ins := ins
            outs := t.outs.map fun q => { q with sent := 0, refusals := [] } }
          let firing := k.firingNo + 1
          let s := s.setCore c { k with
            regs := t.startRegs h r.argVa r.argLen
            slots := k.slots.set i t'
            running := some ⟨i, hi⟩
            handler := .ofNat 3 hn
            firingNo := firing
            streams := 0
            left := t.limit
            budget := t.limit
            wait := .none
            park := none
            fpDefault := .none
            hbind := []
            hbad := false
            pointers := if hc : cls < 8 then k.pointers.set cls (.ofNat 4 i) else k.pointers
            emul := []
            after := [] }
          let s := s.modCable r.cable fun x => { x with firings := satNat (x.firings + 1) (2 ^ 64 - 1) }
          .next ((s.visitTiles c i firing claimed).wakeCluster c.cluster)
        | _, _ => .next s
      else .next s

/-! ## The watchdog -/


/-- `BUDGET_EXPIRY` (R105): the watchdog reached LIMIT. -/
def execBudgetExpiry (c : CoreId) (s : State) : Out :=
  let k := s.core c
  if k.running.isSome ∧ k.park.isNone ∧ k.overBudget ∧ !s.coreHalted c then .next ((s.wakeDelay c).budgetTrap c) else .next s

/-! ## Answers to a trap -/

/-- The core that a trap reply names, if a firing is parked there under its PARKSEQ in the replier's VF, and TRAPWAIT had not passed since it parked when the
reply was accepted (R315, R316). A bit of word 0 that Table 16-4 makes zero is not looked at: the model's choice (log entry 94). -/
def State.parkedBy (s : State) (q : SysReq) : Option (CoreId × TrapCode) :=
  let c : CoreId := ⟨bitsOf q.word0.toNat 0 8, bitsOf q.word0.toNat 8 3⟩
  match (s.core c).park with
  | some (.trap code _ _ since _) =>
    if (s.core c).parkseq.toNat = bitsOf q.word0.toNat 16 16 ∧ s.vfAt c = q.reply.vf ∧ q.at_ < since + s.trapWait (s.vfAt c)
      then some (c, code) else none
  | _ => none

/-- The x register that a RESUME or a REPLACE writes (R201). -/
def FpDefault.dest : FpDefault → Option Reg
  | .x n _ => some (.x n)
  | _ => Option.none

/-- Goes on after a trap (R201, R315): an FPX trap's result is written, with a replacement if one is given; execution continues at the next
instruction, after a reissued one where it stood, and for a trap that `end` reports at the `end` itself, whose wait is over and which completes (R111). A result that is a word too
many for the rate of the send port to which its register is bound traps RATE (R27, R259). -/
def State.resume (s : State) (c : CoreId) (replacement : Option Word64) : State :=
  match (s.core c).park with
  | some (.trap _ _ _ _ next) =>
    let d := match (s.core c).fpDefault, replacement with
      | .x n _, some v => .x n v
      | .f n _, some v => .f n v
      | d, _ => d
    match s.arrivalTest c d.dest with
    | .trap code detail => ((s.dropPartial c d.dest.toList).unpark c).takeTrap c code detail (s.core c).regs.pc next
    | _ =>
      let s := (s.writeResult c d false).unpark c
      s.modCore c fun k =>
        let k := { k with fpDefault := .none, emul := [] }
        match next with
        | none => { k.dropFailed with wait := .finishing }
        | some n =>
          if n = k.regs.pc then k
          else match k.after with
            | a :: rest => { k with after := rest, regs := { k.regs with pc := a } }
            | [] => { k with regs := { k.regs with pc := n } }
  | _ => s

/-- Issues the trapping instruction again (R315); a producer that is not the next instruction is issued alone, and then execution goes on where it stood. -/
def State.retry (s : State) (c : CoreId) : State :=
  match (s.core c).park with
  | some (.trap _ _ pc _ next) =>
    (s.unpark c).modCore c fun k =>
      let k := { k with fpDefault := .none, emul := [] }
      match next with
      | none => { k with wait := .finishing }
      | some n => if n = k.regs.pc then { k with after := n :: k.after, regs := { k.regs with pc := pc } } else k
  | _ => s

/-- The trap reply of a number, if its verb is of a kind. -/
def State.trapReply (s : State) (reply : Nat) (verb : Nat → Bool) : Option SysReq :=
  s.sysReqs.find? fun q => q.no == reply && q.service == 1 && verb (bitsOf q.word0.toNat 32 3)

/-- Whether the result that a RESUME or a REPLACE writes completes a message for which the core's send queue has no room yet (R260). -/
def State.resultWaits (s : State) (q : SysReq) : Bool :=
  match s.parkedBy q with
  | some (c, _) => s.arrivalTest c (s.core c).fpDefault.dest == .stall
  | none => false

/-- Answers a trap: a reply that matches no parked firing is discarded; a verb that the code does not allow acts as ABORT. -/
def State.answerTrap (s : State) (reply : Nat) (q : SysReq) (allowed : TrapCode → Bool) (act : State → CoreId → State) : State :=
  let t := s.takeReq reply
  match s.parkedBy q with
  | none => t
  | some (c, code) => if allowed code then act t c else t.abort c

/-- `TRAP_ABORT` (R315): verbs 0 and 4 to 7. -/
def execTrapAbort (reply : Nat) (s : State) : Out :=
  match s.trapReply reply (fun v => v == 0 || decide (4 ≤ v)) with
  | none => .next s
  | some q => .next (s.answerTrap reply q (fun _ => true) fun s c => s.abort c)

/-- `TRAP_RESUME` (R315). -/
def execTrapResume (reply : Nat) (s : State) : Out :=
  match s.trapReply reply (· == 1) with
  | none => .next s
  | some q =>
    if s.resultWaits q then .next s
    else .next (s.answerTrap reply q (fun x => x != .budget && x != .ecc) fun s c => s.resume c none)

/-- `TRAP_RETRY` (R315). -/
def execTrapRetry (reply : Nat) (s : State) : Out :=
  match s.trapReply reply (· == 2) with
  | none => .next s
  | some q =>
    .next (s.answerTrap reply q (fun x => x != .illegal && x != .budget && x != .ecc && x != .soft) fun s c => s.retry c)

/-- `TRAP_REPLACE` (R315). -/
def execTrapReplace (reply : Nat) (s : State) : Out :=
  match s.trapReply reply (· == 3) with
  | none => .next s
  | some q =>
    if s.resultWaits q then .next s else .next (s.answerTrap reply q (· == .fpx) fun s c => s.resume c (some q.word1))

/-- Whether a valid reply to the trap of a core was accepted in time, and is still to be acted on (R316). -/
def State.replied (s : State) (c : CoreId) : Bool := s.sysReqs.any fun q => q.service == 1 && (s.parkedBy q).any fun x => x.1 == c

/-- `TRAPWAIT_EXPIRY` (R316): TRAPWAIT passed since the firing parked, and no valid reply came. -/
def execTrapwaitExpiry (c : CoreId) (s : State) : Out :=
  match (s.core c).park with
  | some (.trap _ _ _ since _) => if since + s.trapWait (s.vfAt c) ≤ s.now.toNat ∧ !s.replied c then .next (s.abort c) else .next s
  | _ => .next s

/-- `TRAP_MESSAGE_REOFFER` (R245, R312): a held trap message is offered, or offered again, once the core's earlier accesses are performed. -/
def execTrapMessageReoffer (c : CoreId) (s : State) : Out :=
  match s.heldTraps.find? fun h => h.at_ == c with
  | none => .next s
  | some h =>
    if !s.allPerformed c h.opNo then .next s
    else .next { s with
      heldTraps := s.heldTraps.erase h
      flight := s.flight ++ [{ h.packet with no := s.fresh }]
      fresh := s.fresh + 1 }

end Sys2Proof.Machine
end

