-- ==== Sys2Proof/Machine/Router.lean ====
section
/-! DEFINITION. The routers: reduction slots, their instructions and events, route swaps, and remote writes (R293, R296 to R308). -/

namespace Sys2Proof.Machine

/-! ## Handles and slots -/

/-- Whether a handle has a reserved bit set (R297). -/
def handleReserved (h : Word64) : Bool := bitsOf h.toNat 3 5 != 0 || bitsOf h.toNat 34 2 != 0 || bitsOf h.toNat 40 24 != 0

/-- A reduction slot of a router. -/
def Cluster.redSlot (k : Cluster) (i : Nat) : RedSlot := (k.redSlots.toList)[i]?.getD ⟨0, none⟩

/-- Changes a reduction slot. -/
def Cluster.modRedSlot (k : Cluster) (i : Nat) (f : RedSlot → RedSlot) : Cluster :=
  if h : i < 8 then { k with redSlots := k.redSlots.set i (f k.redSlots[i]) } else k

/-- The slot of router `cl` that a handle names, if the rope holds it with that generation (R301). -/
def State.namedSlot (s : State) (cl rope : Nat) (h : Word64) : Option (Nat × RedHeld) :=
  let i := bitsOf h.toNat 0 3
  let t := (s.cluster cl).redSlot i
  match t.held with
  | some x => if x.rope = rope ∧ t.gen.toNat = bitsOf h.toNat 16 16 ∧ bitsOf h.toNat 8 8 = cl then some (i, x) else none
  | none => none

/-- The handle of a slot: INST as given, RP and RPV zero (Table 15-3). -/
def redHandle (cl slot : Nat) (gen : BitVec 16) (inst : BitVec 2) : Word64 :=
  .ofNat 64 (slot + 2 ^ 8 * cl + 2 ^ 16 * gen.toNat + 2 ^ 32 * inst.toNat)

/-- Combines lanes of a width, by a function on their bits. -/
def lanesOf (width : Nat) (f : Nat → Nat → Nat) (a b : Word64) : Word64 :=
  .ofNat 64 ((List.range (64 / width)).map fun k => f (bitsOf a.toNat (k * width) width) (bitsOf b.toNat (k * width) width) % 2 ^ width * 2 ^ (k * width)).sum

/-- Combination of a partial with a contribution (R298): no event, rounded to nearest. -/
def redCombine (fmt : BitVec 3) (a b : Word64) : Word64 :=
  let fl (f : Fmt) : Word64 := lanesOf f.width (fun x y => (addBits f .nearest x y).1) a b
  match fmt.toNat with
  | 0 => fl fmtF64
  | 1 => fl fmtF32
  | 2 => fl fmtF16
  | 3 => fl fmtBf16
  | 4 => a + b
  | _ => lanesOf 32 (· + ·) a b

/-- A contribution joins an OPEN slot of its instance: the first is stored unchanged (R298, R301). -/
def RedHeld.combine (x : RedHeld) (v : Word64) : RedHeld :=
  { x with
    part := some (match x.part with | some p => redCombine x.fmt p v | none => v)
    got := x.got + 1
    full := decide (x.count ≤ x.got + 1) }

/-- The partition of a rope. -/
def State.partOfRope (s : State) (rope : Nat) : Nat :=
  match s.ropes.get rope with
  | some r => s.partOfVf r.vf
  | none => 0

/-- The refusal of a contribution: a reply if its handle asks for one, which its partition's limiter pays for, else nothing (R262, R294, R301). -/
def State.refuseContribution (s : State) (p : Contribution) (why : BitVec 3) : State :=
  match p.origin with
  | some (c, slot) =>
    if p.handle.getLsbD 39 then
      (s.charge (s.partOfRope p.rope) c.cluster 16).refusalReply p.rope c slot (bitsOf p.handle.toNat 36 3) (refusalWord why 0 0) p.handle
    else s
  | none => s

/-- A slot that became FULL and is no root has its partial for its parent (R302); the packet leaves when the parent takes it (`execContributionArrival`). -/
def State.forward (s : State) (cl i : Nat) : State :=
  match ((s.cluster cl).redSlot i).held with
  | some x =>
    if x.full && x.parent != 0 then
      let w : Word64 := .ofNat 64 (x.parent.toNat % 2 ^ 32 + 2 ^ 32 * x.inst.toNat)
      { s.modCluster (bitsOf x.parent.toNat 8 8) fun k =>
          { k with redPackets := k.redPackets ++ [⟨s.fresh, x.rope, w, x.part.getD 0, none, some (cl, i)⟩] } with
        fresh := s.fresh + 1 }
    else s
  | none => s

/-- Combines a contribution into a slot, and forwards the partial if that completes the instance. -/
def State.combineAt (s : State) (cl i : Nat) (v : Word64) : State :=
  (s.modCluster cl fun k => k.modRedSlot i fun t => { t with held := t.held.map fun x => x.combine v }).forward cl i

/-- Applies one packet that was held for the instance that begins: combined while the slot is OPEN, else refused FULL (R301). -/
def State.applyHeld (s : State) (cl i : Nat) (p : Contribution) : State :=
  match ((s.cluster cl).redSlot i).held with
  | some x => if x.full then s.refuseContribution p 1 else s.combineAt cl i p.value
  | none => s.refuseContribution p 4

/-- A slot goes on to its next instance: cleared, OPEN, and its held packets are applied in the order they were held (R302, R303). -/
def State.nextWave (s : State) (cl i : Nat) : State :=
  let mine := (s.cluster cl).redHold.filter fun p => bitsOf p.handle.toNat 0 3 == i
  let s := s.modCluster cl fun k =>
    { (k.modRedSlot i fun t => { t with held := t.held.map fun x => { x with part := none, got := 0, inst := x.inst + 1, full := false } }) with
      redHold := k.redHold.filter fun p => bitsOf p.handle.toNat 0 3 != i }
  mine.foldl (fun s p => s.applyHeld cl i p) s

/-- Frees a slot: its partial is discarded, wherever it is, and its held packets are refused NOACTOR (R304). -/
def State.freeRedSlot (s : State) (cl i : Nat) : State :=
  let mine := (s.cluster cl).redHold.filter fun p => bitsOf p.handle.toNat 0 3 == i
  let s := s.modCluster cl fun k =>
    { (k.modRedSlot i fun t => { t with held := none }) with redHold := k.redHold.filter fun p => bitsOf p.handle.toNat 0 3 != i }
  let s := { s with clusters := s.clusters.map fun e =>
    (e.1, { e.2 with redPackets := e.2.redPackets.filter fun p => p.child != some (cl, i) }) }
  mine.foldl (fun s p => s.refuseContribution p 4) s

/-- Frees every slot that a rope holds, in every router (R296, R369). -/
def State.freeRopeSlots (s : State) (rope : Nat) : State :=
  s.clusters.foldl (fun s e => (List.range 8).foldl (fun s i =>
    match ((s.cluster e.1).redSlot i).held with
    | some x => if x.rope = rope then s.freeRedSlot e.1 i else s
    | none => s) s) s

/-! ## Instructions -/

/-- Whether a core's firing issues no request to a router now: its network drains (R293). -/
def State.requestWaits (s : State) (c : CoreId) : Bool := s.draining (s.partAt c)

/-- The request of a core's firing to a router; its stamp is that of the issue, and where the limiter is empty its packet waits at injection (R294, R299). -/
def State.redRequest (s : State) (c : CoreId) (w1 w2 : Word64) (i : InstrWord) : RedReq :=
  ⟨s.fresh, s.now.toNat, s.partAt c, c.cluster, c.core, (s.core c).curSlot.rope, (s.core c).opNo, w1, w2, i, s.limiterOpen (s.partAt c) c.cluster⟩

/-- Whether the packet of a request has been injected, or may be now (R293, R294). -/
def State.reqArrives (s : State) (q : RedReq) : Bool := q.sent || (!s.draining q.part && s.limiterOpen q.part q.cluster)

/-- The packet of a request is paid for as it is injected (R294). -/
def State.chargeReq (s : State) (q : RedReq) (payload : Nat) (now : Bool) : State :=
  if q.sent == now then s.charge q.part q.cluster payload else s

/-- Whether a `redslot` traps ENGINE (R299). -/
def redslotBad (a b : Word64) : Bool :=
  let n := a.toNat
  bitsOf n 12 4 != 0 || bitsOf n 24 8 != 0 || bitsOf n 40 24 != 0 || decide (5 < bitsOf n 9 3) || bitsOf n 16 8 == 0
    || (bitsOf n 8 1 == 1 && (b != 0 || decide (32 < bitsOf n 16 8))) || (b != 0 && handleReserved b)

/-- `redslot` (R299). -/
def execRedslot (d a b : BitVec 5) (u v : Bool) (s : State) : Out :=
  s.issue s.cur [⟨.x a, u⟩, ⟨.x b, v⟩] (s.lateDest s.cur (.x d)) fun s0 =>
    let (w1, s) := s0.takeX s0.cur a
    let (w2, s) := s.takeX s.cur b
    let word := (encode (.redslot d a b u v)).getD 0
    if redslotBad w1 w2 then .trap s0 .engine (.ofNat 64 word.toNat)
    else if s.requestWaits s.cur then .stall
    else
      let q := s.redRequest s.cur w1 w2 word
      let s := { (s.chargeReq q 16 true).modCluster (bitsOf w1.toNat 32 8) fun k => { k with redReqs := k.redReqs ++ [q] } with fresh := s.fresh + 1 }
      .done (s.produce s.cur (some (.x d)) 0 .redslot)

/-- `redput` (R301): the contribution leaves through the send queue. -/
def execRedput (a b : BitVec 5) (u v : Bool) (s : State) : Out :=
  s.issue s.cur [⟨.x a, u⟩, ⟨.x b, v⟩] [] fun s0 =>
    let (h, s) := s0.takeX s0.cur a
    let (w, s) := s.takeX s.cur b
    let k := s.core s.cur
    let rp := bitsOf h.toNat 36 3
    if handleReserved h then .trap s0 .engine (.ofNat 64 ((encode (.redput a b u v)).getD 0).toNat)
    else if h.getLsbD 39 && !(match k.curSlot.ins[rp]? with | some q => q.typ == 0x19 | none => false) then
      .trap s0 .port (portDetail rp false)
    else if k.sendLate || 8 ≤ k.sendQ.length || s.draining (s.partAt s.cur) then .stall
    else
      .done ((s.modCore s.cur fun k =>
        { k with sendQ := k.sendQ ++ [⟨k.opNo, k.curIndex, k.curSlot.rope, k.firingNo, none, 0, plainMsg 0 [h, w], 0, 0⟩] }).advance s.cur)

/-- `redget` (R303). -/
def execRedget (d a : BitVec 5) (u : Bool) (s : State) : Out :=
  s.issue s.cur [⟨.x a, u⟩] (s.lateDest s.cur (.x d)) fun s0 =>
    let (h, s) := s0.takeX s0.cur a
    let word := (encode (.redget d a u)).getD 0
    if handleReserved h then .trap s0 .engine (.ofNat 64 word.toNat)
    else if s.requestWaits s.cur then .stall
    else
      let q := s.redRequest s.cur h 0 word
      let s := { (s.chargeReq q 8 true).modCluster (bitsOf h.toNat 8 8) fun k => { k with redGets := k.redGets ++ [q] } with fresh := s.fresh + 1 }
      .done (s.produce s.cur (some (.x d)) 0 .redget)

/-- `redfree` (R304): it does not wait for the router. -/
def execRedfree (a : BitVec 5) (u : Bool) (s : State) : Out :=
  s.issue s.cur [⟨.x a, u⟩] [] fun s0 =>
    let (h, s) := s0.takeX s0.cur a
    let word := (encode (.redfree a u)).getD 0
    if handleReserved h then .trap s0 .engine (.ofNat 64 word.toNat)
    else if s.requestWaits s.cur then .stall
    else
      let q := s.redRequest s.cur h 0 word
      .done ({ (s.chargeReq q 8 true).modCluster (bitsOf h.toNat 8 8) fun k => { k with redFrees := k.redFrees ++ [q] } with fresh := s.fresh + 1 }.advance s.cur)

/-! ## Events of the reduction unit -/

/-- The place of a partition in the cyclic order after a router's partition pointer (R300). -/
def afterPtr (ptr : BitVec 4) (part : Nat) : Nat := (part + 15 - ptr.toNat) % 16

/-- Whether a request is served before another (R300): stamp, partition after the pointer, cluster, core. -/
def RedReq.before (ptr : BitVec 4) (a b : RedReq) : Bool :=
  if a.stamp ≠ b.stamp then decide (a.stamp < b.stamp)
  else if a.part ≠ b.part then decide (afterPtr ptr a.part < afterPtr ptr b.part)
  else if a.cluster ≠ b.cluster then decide (a.cluster < b.cluster)
  else decide (a.core < b.core)

/-- The requests that a router may serve: those that reached it, 64 ticks after their stamps at the earliest (R300). -/
def State.dueReqs (s : State) (cl : Nat) : List RedReq :=
  (s.cluster cl).redReqs.filter fun q => decide (q.stamp + 64 ≤ s.now.toNat) && s.reqArrives q

/-- The request that a router serves next (R300). Of two of one core with one stamp, which the rule does not order, it is the one that was issued first: the model's choice
(log entry 103). -/
def State.nextRedReq (s : State) (cl : Nat) : Option RedReq :=
  (s.dueReqs cl).foldl (fun best q => match best with
    | none => some q
    | some b => if q.before (s.cluster cl).redPtr b then some q else some b) none

/-- Whether a request won a tie between partitions, which moves the pointer. -/
def State.tied (s : State) (cl : Nat) (q : RedReq) : Bool := (s.dueReqs cl).any fun x => x.stamp == q.stamp && x.part != q.part

/-- What DENIED and SLOT_BUSY read as (R299). -/
def deniedValue : Word64 := 0x8000000000000002
def slotBusyValue : Word64 := 0x8000000000000001

/-- The lowest free slot of a router. -/
def Cluster.freeRedSlotNo (k : Cluster) : Option Nat := (List.range 8).find? fun i => (k.redSlot i).held.isNone

/-- The result of a request, and the router's state after it (R299). -/
def State.reserve (s : State) (cl : Nat) (q : RedReq) : Word64 × State :=
  let k := s.cluster cl
  let n := q.word1.toNat
  let coll : BitVec 8 := .ofNat 8 n
  let orphan := q.word2 != 0 && (s.namedSlot (bitsOf q.word2.toNat 8 8) q.rope q.word2).isNone
  let twice := k.redSlots.toList.any fun t => match t.held with | some x => x.rope == q.rope && x.coll == coll | none => false
  if orphan || twice then (deniedValue, s)
  else match k.freeRedSlotNo with
    | none => (slotBusyValue, s)
    | some i =>
      let gen := if (k.redSlot i).gen = 0xFFFF then 1 else (k.redSlot i).gen + 1
      let vf := match s.ropes.get q.rope with | some r => r.vf | none => 0
      let x : RedHeld := ⟨vf, q.rope, coll, bitsOf n 8 1 == 1, .ofNat 3 (n / 2 ^ 9), bitsOf n 16 8, q.word2, 0, none, 0, false⟩
      (redHandle cl i gen 0, s.modCluster cl fun k => k.modRedSlot i fun _ => ⟨gen, some x⟩)

/-- The answer of a router reaches the producer that waits for it; the requester's limiter pays for it (R294). -/
def State.answerProducer (s : State) (q : RedReq) (p : Pending) : State :=
  (s.charge q.part q.cluster 8).modCore ⟨q.cluster, q.core⟩ fun k => { k with prods := k.prods.map fun x =>
    if x.no = q.producer then (match x.pending with | .redslot | .redget => { x with pending := p } | _ => x) else x }

/-- `REDSLOT_SERVE` (R300). -/
def execRedslotServe (cl : Nat) (s : State) : Out :=
  match s.nextRedReq cl with
  | none => .next s
  | some q =>
    let tied := s.tied cl q
    let s := (s.chargeReq q 16 false).modCluster cl fun k =>
      { k with redReqs := k.redReqs.filter fun x => x.no != q.no, redPtr := if tied then .ofNat 4 q.part else k.redPtr }
    let (w, s) := s.reserve cl q
    .next (s.answerProducer q (.answer (.word w)))

/-- What a router decides of a contribution (R301). -/
inductive Ruling where
  | combine (slot : Nat)
  | hold
  | refuse (why : BitVec 3)
  deriving DecidableEq, Repr

/-- The first rule of the table of R301 that applies. -/
def State.ruling (s : State) (cl : Nat) (p : Contribution) : Ruling :=
  match s.namedSlot cl p.rope p.handle with
  | none => .refuse 4
  | some (i, x) =>
    let d : BitVec 2 := .ofNat 2 (p.handle.toNat / 2 ^ 32) - x.inst
    if d = 0 then (if x.full then .refuse 1 else .combine i)
    else if d = 1 then (if (s.cluster cl).redHold.length < 16 then .hold else .refuse 1)
    else .refuse 5

/-- Whether a partial may go to its parent: its partition's network does not drain, and the limiter of its child's cluster is not empty (R293, R294). A bucket of the partition
stands at the child's router even where that lies outside the partition's clusters: the model's choice (log entry 7). -/
def State.partialMoves (s : State) (p : Contribution) (ccl : Nat) : Bool :=
  !s.draining (s.partOfRope p.rope) && s.limiterOpen (s.partOfRope p.rope) ccl

/-- `CONTRIBUTION_ARRIVAL` (R301, R302): a partial that its parent would hold, or refuse for now, is kept by its child and offered again. A partial is paid
for as its parent takes it (R294). -/
def execContributionArrival (cl pkt : Nat) (s : State) : Out :=
  let k := s.cluster cl
  match k.redPackets.find? fun p => p.no == pkt with
  | none => .next s
  | some p =>
    if (k.redPackets.takeWhile fun q => q.no != pkt).any fun q => q.origin.isSome && q.origin == p.origin then .next s
    else
      let t := (match p.child with | some (ccl, _) => s.charge (s.partOfRope p.rope) ccl 16 | none => s).modCluster cl fun k =>
        { k with redPackets := k.redPackets.filter fun q => q.no != pkt }
      match s.ruling cl p, p.child with
      | .combine i, none => .next (t.combineAt cl i p.value)
      | .hold, none => .next (t.modCluster cl fun k => { k with redHold := k.redHold ++ [p] })
      | .refuse why, none => .next (t.refuseContribution p why)
      | .combine i, some (ccl, ci) => if s.partialMoves p ccl then .next ((t.combineAt cl i p.value).nextWave ccl ci) else .next s
      | .refuse why, some (ccl, ci) => if why = 4 ∧ s.partialMoves p ccl then .next (t.nextWave ccl ci) else .next s
      | .hold, some _ => .next s

/-- The result of an instance reaches its `redget`: rd has it, and the slot goes on to its next instance (R303). A destination that is bound to a send port
without room keeps the slot FULL. -/
def State.redResult (s : State) (cl i : Nat) (q : RedReq) (v : Word64) : State :=
  let c : CoreId := ⟨q.cluster, q.core⟩
  match (s.core c).producer q.producer with
  | none => s
  | some p =>
    if s.arrivalTest c p.dest = .stall then s
    else
      let t := s.modCluster cl fun k => { k with redGets := k.redGets.filter fun x => x.no != q.no }
      (((t.charge q.part q.cluster 8).arrive c p (.word v)).nextWave cl i)

/-- `REDGET_SERVE` (R303): ENGINE unless the handle names a root slot of the rope at its instance; else the result, once the slot is FULL. -/
def execRedgetServe (cl req : Nat) (s0 : State) : Out :=
  match (s0.cluster cl).redGets.find? fun q => q.no == req with
  | none => .next s0
  | some q =>
    if !s0.reqArrives q then .next s0 else
    let s := (s0.chargeReq q 8 false).modCluster cl fun k =>
      { k with redGets := k.redGets.map fun x => if x.no = req then { x with sent := true } else x }
    let bad := (s.modCluster cl fun k => { k with redGets := k.redGets.filter fun x => x.no != req }).answerProducer q
      (.fail .engine (.ofNat 64 q.instrWord.toNat))
    match s.namedSlot cl q.rope q.word1 with
    | none => .next bad
    | some (i, x) =>
      if x.parent ≠ 0 ∨ x.inst.toNat ≠ bitsOf q.word1.toNat 32 2 then .next bad
      else if x.full then .next (s.redResult cl i q (x.part.getD 0))
      else .next s

/-- `REDFREE_SERVE` (R304). -/
def execRedfreeServe (cl req : Nat) (s : State) : Out :=
  match (s.cluster cl).redFrees.find? fun q => q.no == req with
  | none => .next s
  | some q =>
    if !s.reqArrives q then .next s else
    let s := (s.chargeReq q 8 false).modCluster cl fun k => { k with redFrees := k.redFrees.filter fun x => x.no != req }
    match s.namedSlot cl q.rope q.word1 with
    | some (i, _) => .next (s.freeRedSlot cl i)
    | none => .next s

/-! ## Routes (R293) -/

/-- Where a packet goes next by the routes that differ from dimension order; the rest is dimension order, along x first (R293). -/
def routeOf (rows : List RouteRow) (cl dst : Nat) : Option Nat := (rows.find? fun r => r.at_ == cl && r.dst == dst).map RouteRow.next

/-- The Hilbert index of a place (R85). -/
def hilbert (x y : Nat) : Nat :=
  let go (acc : Nat × Nat × Nat) (s : Nat) : Nat × Nat × Nat :=
    let (d, x, y) := acc
    let rx := x / s % 2
    let ry := y / s % 2
    let d := d + s * s * ((3 * rx) ^^^ ry)
    let x := x % s
    let y := y % s
    if ry = 0 then (if rx = 1 then (d, s - 1 - y, s - 1 - x) else (d, y, x)) else (d, x, y)
  (([8, 4, 2, 1] : List Nat).foldl go (0, x, y)).1

/-- The places of the mesh by Hilbert index. -/
def placeOf (cl : Nat) : Nat × Nat :=
  ((List.range 256).find? fun p => hilbert (p % 16) (p / 16) == cl).elim (0, 0) fun p => (p % 16, p / 16)

/-- The next cluster in dimension order. -/
def dimensionNext (cl dst : Nat) : Nat :=
  let (x, y) := placeOf cl
  let (u, v) := placeOf dst
  if x < u then hilbert (x + 1) y else if u < x then hilbert (x - 1) y
  else if y < v then hilbert x (y + 1) else if v < y then hilbert x (y - 1) else cl

/-- Whether the packets for a destination reach it from a cluster: none of the routes returns to where it was. -/
def reaches (rows : List RouteRow) (dst : Nat) : Nat → Nat → Bool
  | 0, _ => false
  | n + 1, cl => cl == dst || reaches rows dst n ((routeOf rows cl dst).getD (dimensionNext cl dst))

/-- Whether routes contain no cycle (R293): for every destination that has a row, every cluster's packets arrive. R293 does not say what a cycle of routes is: that it is a way to a
destination that returns to where it was, and no cycle of waits between links, is the model's choice (log entry 111). -/
def acyclic (rows : List RouteRow) : Bool :=
  ((rows.map RouteRow.dst).eraseDups).all fun dst => (rows.filter fun r => r.dst == dst).all fun r => reaches rows dst 256 r.at_

/-- Whether a management command comes from the privileged management endpoint; all others are refused (R374). -/
def managesAs : MgmtSender → Bool
  | .privileged => true
  | .guest .. => false

/-- Whether a sender is an endpoint in a VF's endpoint table (R374). -/
def State.listed (s : State) (who : MgmtSender) (vf : Nat) : Bool :=
  match who with
  | .privileged => false
  | .guest v ep => v == vf && ((s.vfs.get v).bind fun x => x.endpoints.get ep).isSome

/-- What leaves the package. -/
def State.reply (s : State) (o : HostOut) : State := { s with hostOut := s.hostOut ++ [o] }

/-- Whether the boot has ended, so that the ports answer (R375). -/
def State.booted (s : State) : Bool := s.boot.step == 6

/-- A management command that only the privileged endpoint may send, with its own refusal (R374); before the boot has ended nothing answers (R375). -/
def State.command (s : State) (who : MgmtSender) (ok : Bool) (f : State → State) : Out :=
  if !s.booted then .next s
  else if !managesAs who then .next (s.reply .noActor)
  else if ok then .next ((f s).reply .done)
  else .next (s.reply .refusedCommand)

/-- The route banks of a network. -/
def State.routesOf (s : State) (net : Nat) : List RouteRow × List RouteRow × Bool := (s.routes.get net).getD ([], [], false)

/-- Whether a load or an atomic of a core is in a router: it could be performed at its home now (R293). One that waits for an earlier access of its core, a buffered store
among them, at its home for a stack or the notify queue, at a pending word, or at the sequencer is in none. -/
def State.accessFlies (s : State) (c : CoreId) (p : Producer) : Bool :=
  match p.atomicAt with
  | some (x, m, _) =>
    decide (x.loc < 2 ^ 39) && (s.core c).stores.all (fun e => decide (m.no < e.no)) && s.mayPerform c m && !s.atomicWaits x
      && !s.sequencer.any fun u => u.at_ == c && u.work == .inr p.no
  | none => p.ops.any fun a => decide (a.loc < 2 ^ 39) && s.mayPerform c a && s.afterOwnStores c a && !s.replicaPending c a

/-- The loads and atomics of a network that are on the mesh, by the key of their core and their number (R293): the limiter has let them in. -/
def State.accessesOf (s : State) (net : Nat) : List (Nat × Nat) :=
  (s.cores.map fun e =>
    if s.partOfCluster (coreOfKey e.1).cluster = some net ∧ s.limiterOpen net (coreOfKey e.1).cluster then
      (e.2.prods.filter fun p => s.accessFlies (coreOfKey e.1) p).map fun p => (CoreId.key (coreOfKey e.1), p.no)
    else []).flatten

/-- `ROUTE_SWAP` (R293): the routes go into the standby banks, and injection stops; the accesses that are on the mesh go on. That a route whose next cluster is no neighbour on the
mesh is taken is the model's choice: the spec does not say what the command does then (log entry 112). -/
def execRouteSwap (who : MgmtSender) (net : Nat) (routes : List RouteRow) (s : State) : Out :=
  s.command who (decide (net < 17) && acyclic routes && !(s.routesOf net).2.2) fun s =>
    let on := s.accessesOf net
    { s with routes := s.routes.set net ((s.routesOf net).1, routes, true) }.modPart net fun p => { p with crossing := on }

/-- Whether a load or an atomic that was on the mesh when the swap of its network's routes began is still in a router. -/
def State.crosses (s : State) (e : Nat × Nat) : Bool :=
  match (s.core (coreOfKey e.1)).producer e.2 with
  | some p => s.accessFlies (coreOfKey e.1) p
  | none => false

/-- Whether the result of a `redget` can be written to its register now: a send port to which the register is bound has room (R260). -/
def State.resultFits (s : State) (q : RedReq) : Bool :=
  match (s.core ⟨q.cluster, q.core⟩).producer q.producer with
  | some p => s.arrivalTest ⟨q.cluster, q.core⟩ p.dest != .stall
  | none => false

/-- Whether a `redget` has a packet on the mesh: the router would answer it, and it waits neither there for its slot nor for room at its core (R303). -/
def State.redgetFlies (s : State) (cl : Nat) (q : RedReq) : Bool :=
  match s.namedSlot cl q.rope q.word1 with
  | none => true
  | some (_, x) => x.parent != 0 || x.inst.toNat != bitsOf q.word1.toNat 32 2 || (x.full && s.resultFits q)

/-- Whether a store that left its core's buffer is in a router: it can be applied at its home now; an atomic is among the accesses. -/
def State.storeFlies (s : State) (u : Update) : Bool := match u.work with | .inl e => s.mayPerform u.at_ e.op | .inr _ => false

/-- Whether an update at the sequencer has packets on the mesh: its replicas are still to acknowledge it, or it can be committed (R248). -/
def State.updateFlies (s : State) (u : Update) : Bool := s.firstOfLocation s.sequencer u && !(u.acknowledged && s.commitWaits u)

/-- Whether a packet of a network is on the mesh (R293): a message of a send port, an answer, an update, a contribution, a request, or an access that was there when
the swap began. The messages of the other units, and partials, enter the mesh as they are offered. -/
def State.netBusy (s : State) (net : Nat) : Bool :=
  s.flight.any (fun p => s.partOfVf p.vf == net && (match p.sender with | .port .. => true | _ => false))
    || s.answers.any (fun e => s.partOfVf e.1.vf == net)
    || s.flying.any (fun u => s.storeFlies u && s.partOfCluster u.at_.cluster == some net)
    || s.sequencer.any (fun u => s.updateFlies u && s.partOfCluster u.at_.cluster == some net)
    || s.clusters.any (fun e => e.2.redPackets.any (fun p => s.partOfRope p.rope == net && p.child.isNone)
        || (e.2.redReqs ++ e.2.redFrees).any (fun q => q.part == net && q.sent) || e.2.redGets.any fun q => q.part == net && q.sent && s.redgetFlies e.1 q)
    || (s.part net).crossing.any s.crosses

/-- `ROUTE_SWAP_ACTIVATE` (R293). -/
def execRouteSwapActivate (net : Nat) (s : State) : Out :=
  let (_, standby, draining) := s.routesOf net
  if draining && !s.netBusy net then
    .next ({ s with routes := s.routes.set net (standby, [], false) }.modPart net fun p => { p with crossing := [] })
  else .next s

/-! ## Remote writes (R307, R308) -/

/-- The physical address of a device virtual address of a VF, by its shadow tables (R323); none where it does not translate. -/
def State.devicePa (s : State) (vf : Nat) (va : Nat) (write : Bool) : Option Nat :=
  match s.walk vf va write with
  | .leaf e => some (e.physical va)
  | _ => none

/-- Whether an access of a VF to a run of device virtual bytes has to wait: a word of it, or of the tables that translate it, lies in a stack that takes no
access (R361). -/
def State.deviceAsleep (s : State) (vf va n : Nat) (write : Bool) : Bool :=
  (List.range ((va + n + 0xFFFF) / 2 ^ 16 - va / 2 ^ 16)).any fun i =>
    let a := max va ((va / 2 ^ 16 + i) * 2 ^ 16)
    s.walkAsleep vf a || (match s.walk vf a write with | .leaf e => s.writeAsleep (locDram (e.physical a)) (write && e.repl) | _ => false)

/-- Takes the next packet of a delivery context: its entropy value; the context's next one comes in cyclic order (R305). -/
def State.sendOver (s : State) (ctx : Nat) : BitVec 16 × State :=
  match s.contexts.get ctx with
  | some x => (x.entropy[x.next]?.getD 0, { s with contexts := s.contexts.set ctx { x with next := (x.next + 1) % x.entropy.length } })
  | none => (0, s)

/-- An error in a remote write of a context's VF is reported to the host (R307). -/
def State.writeFails (s : State) (ctx vf : Nat) : State :=
  let (e, t) := s.sendOver ctx
  t.reply (.writeError vf e)

/-- Writes bytes that no core writes, each through the VF's tables, by a translation that grants a write or, for `write` false, a read; none where a
byte does not translate. -/
def State.deviceWrite (s : State) (vf : Nat) (write : Bool) (va : Nat) : List Byte → Option State
  | [] => some s
  | b :: r =>
    match s.devicePa vf va write with
    | none => none
    | some pa =>
      -- a word that is written whole is sound again (R342)
      let whole := va % 8 == 0 && decide (7 ≤ r.length)
      (s.modMem none (locDram pa) 1 fun m =>
        let m := m.setByte (locDram pa) b
        if whole then m.clearBad (locDram pa) else m).deviceWrite vf write (va + 1) r

/-- `REMOTE_WRITE_DATA` (R305, R307): a packet of a RUD context that is assigned, of at most 4,096 bytes; any other carries no remote write. The data lands, in whatever
order its packets come, once its network does not drain (R293) and no stack that it reaches is asleep (R361); a range that does not translate is an error to the host. Before
the boot has ended no port answers (R375). That a packet's bytes land in one step is the model's choice: R252 gives the writes of a host no size in which they are whole
(log entry 102). -/
def execRemoteWriteData (ctx xfer total : Nat) (compl : Word64) (va : BitVec 52) (data : List Byte) (s : State) : Out :=
  match s.contexts.get ctx with
  | none => .next s
  | some x =>
    if !s.booted || x.ordered || decide (4096 < data.length) || s.draining (s.partOfVf x.vf) || s.deviceAsleep x.vf va.toNat data.length true then .next s
    else match s.deviceWrite x.vf true va.toNat data with
      | none => .next (s.writeFails ctx x.vf)
      | some t =>
        let y := (t.transfers.get xfer).getD ⟨ctx, x.vf, total, 0, compl⟩
        .next { t with transfers := t.transfers.set xfer { y with landed := y.landed + data.length } }

/-- Where a completion address leads: the state region's word of a placed or saved actor (R307). -/
def State.completionPlace (s : State) (w : Word64) : Option (Nat × CoreId × Nat) :=
  let a := bitsOf w.toNat 0 36
  let off := bitsOf w.toNat 36 19
  if bitsOf w.toNat 55 9 ≠ 0 ∨ addrKind a ≠ 0 ∨ bitsOf a 15 3 ≠ 0 ∨ off % 8 ≠ 0 then none
  else match s.findActor a with
    | some (_, c, _, t) => if off + 8 ≤ t.stateLen then some (addrVf a, c, t.stateBase + off) else none
    | none => none

/-- Writes a transfer's count to its completion word and sets it full, in one access (R307). -/
def State.writeCompletion (s : State) (w : Word64) (count : Nat) : State :=
  match s.completionPlace w with
  | some (_, c, off) =>
    let loc := locScratch c.cluster c.core off
    s.modMem none loc 8 fun m => (((m.write loc (leBytes 8 count)).setFull loc true).setTag loc false).clearBad loc
  | none => s

/-- `REMOTE_WRITE_COMPLETION` (R307, R308): all bytes landed, and its network does not drain (R293). A switched-out VF's completion is held, up to 64; one more is refused. -/
def execRemoteWriteCompletion (xfer : Nat) (s : State) : Out :=
  match s.transfers.get xfer with
  | none => .next s
  | some t =>
    if t.landed < t.total || !s.booted || s.draining (s.partOfVf t.vf) then .next s
    else
      let done := { s with transfers := s.transfers.erase xfer }
      match s.completionPlace t.address with
      | none => .next (done.writeFails t.ctx t.vf)
      | some (vf, _, _) =>
        if s.switchedOut vf then
          match s.vfs.get vf with
          | some v =>
            if v.heldWrites.length < 64 then
              .next (done.modVf vf fun v => { v with heldWrites := v.heldWrites ++ [(t.address, t.total)] })
            else
              let (e, done) := done.sendOver t.ctx
              .next (done.reply (.writeRefused t.vf e))
          | none => .next done
        else .next (done.writeCompletion t.address t.total)

end Sys2Proof.Machine
end

