-- ==== Sys2Proof/Machine/Launch.lean ====
section
/-! DEFINITION. The launcher: the image (R43, R44, R383), the launch message (R75 to R78), the cable queue (R79 to R83), and how a cable ends (R371). -/

namespace Sys2Proof.Machine

/-! ## Reading device memory -/

/-- A byte at a device virtual address of a VF, as the launcher reads it; none where the translation faults. A word that holds an uncorrectable error is read as it stands,
since R342 has no row for the launcher: the model's choice (log entry 88). -/
def State.deviceByte (s : State) (vf va : Nat) : Option Byte := (s.devicePa vf va false).map fun pa => s.mem.byte (locDram pa)

/-- The bytes from an address on, up to the first whose translation faults: that a text, const or init region is cut there, and its rope is placed and starts all the
same, is the model's choice (log entry 81). -/
def State.deviceRead (s : State) (vf : Nat) : Nat → Nat → List Byte
  | _, 0 => []
  | va, n + 1 =>
    match s.deviceByte vf va with
    | some b => b :: s.deviceRead vf (va + 1) n
    | none => []

/-- The next multiple of a number. -/
def roundUp (n m : Nat) : Nat := (n + m - 1) / m * m

/-! ## The image -/

/-- The header of an image (Table 01-5). -/
structure Header where
  bytes : List Byte
  deriving DecidableEq, Repr

/-- A field of the header, little-endian. -/
def Header.field (h : Header) (off size : Nat) : Nat := leNat ((h.bytes.drop off).take size)

def Header.textSize (h : Header) : Nat := h.field 0x0C 4
def Header.constOff (h : Header) : Nat := h.field 0x10 4
def Header.constSize (h : Header) : Nat := h.field 0x14 4
def Header.dataOff (h : Header) : Nat := h.field 0x18 4
def Header.dataSize (h : Header) : Nat := h.field 0x1C 4
def Header.workOff (h : Header) : Nat := h.field 0x20 4
def Header.workSize (h : Header) : Nat := h.field 0x24 4

/-- Whether the header keeps R43, but for its counts. -/
def Header.ok (h : Header) : Bool :=
  h.field 0 4 == 0x4D494B5A && h.field 4 2 == 1 && h.field 6 2 == 0
    && h.field 8 4 == 0x40 && h.textSize % 4 == 0 && decide (h.textSize ≤ 2 ^ 22)
    && h.constOff == roundUp (0x40 + h.textSize) 64 && decide (h.constSize ≤ 2 ^ 26)
    && h.dataOff == roundUp (h.constOff + h.constSize) 64 && decide (h.dataSize ≤ 2 ^ 26)
    && h.workOff == roundUp (h.dataOff + h.dataSize) 64 && h.workSize % 16 == 0
    && decide (1 ≤ h.field 0x28 2) && decide (h.field 0x28 2 ≤ 8) && (h.bytes.drop 0x30).all (· == 0)

/-- A record of the work table: its offset in the image, and its 16 bytes. -/
structure Rec where
  off : Nat
  bytes : List Byte
  deriving DecidableEq, Repr

def Rec.u8 (r : Rec) (i : Nat) : Nat := (r.bytes[i]?.getD 0).toNat
def Rec.u16 (r : Rec) (i : Nat) : Nat := leNat ((r.bytes.drop i).take 2)
def Rec.u32 (r : Rec) (i : Nat) : Nat := leNat ((r.bytes.drop i).take 4)

/-- Whether every byte that Table 01-6 does not name is zero. -/
def Rec.only (r : Rec) (named : List Nat) : Bool := (List.range 16).all fun i => i == 0 || named.contains i || r.u8 i == 0

/-- A breach at an offset, unless the condition holds. -/
def breachUnless (ok : Bool) (off : Nat) : List Nat := if ok then [] else [off]

/-- Whether a count agrees with what follows it (R44); of a table that a fault cuts off, what follows may only be no more (R383). -/
def countOk (cut : Bool) (declared found : Nat) : Bool := if cut then decide (found ≤ declared) else declared == found

/-- Whether a place of a list is the last one, where a fault cut the table off. -/
def cutLast {α : Type} (cut : Bool) (l : List α) (i : Nat) : Bool := cut && i + 1 == l.length

/-- Splits records at those of some kinds: what comes before the first, then each with what follows it. -/
def groups (kinds : List Nat) : List Rec → List Rec × List (Rec × List Rec)
  | [] => ([], [])
  | r :: rs =>
    let (pre, gs) := groups kinds rs
    if kinds.contains (r.u8 0) then ([], (r, pre) :: gs) else (r :: pre, gs)

/-- The records of a kind. -/
def ofKind (k : Nat) (rs : List Rec) : List Rec := rs.filter fun r => r.u8 0 == k

/-- Whether a type code is valid (R20). -/
def validType (t : Nat) : Bool := decide (t < 32) && t != 0x10

/-- A port record as a declaration. -/
def Rec.port (r : Rec) : PortDecl := ⟨.ofNat 8 (r.u8 2), r.u8 3, r.u8 4⟩

/-- An emit record as a declaration. -/
def Rec.emit (r : Rec) : PortDecl := ⟨.ofNat 8 (r.u8 2), 0, r.u8 3⟩

/-- An actor record with what follows it. -/
def actorOf (r : Rec) (body : List Rec) : ActorDecl where
  core := r.u8 1
  ins := (ofKind 4 body).map Rec.port
  outs := (ofKind 5 body).map Rec.emit
  handlers := (ofKind 6 body).map fun h => (.ofNat 8 (h.u8 2), h.u32 4)
  stateBytes := r.u32 8
  init := if r.u32 12 = 0xFFFFFFFF then none else some (r.u32 12)

/-- The breaches of an actor, which is number `n` of strand `k` (R19 to R27, R39, R40); `cut` says that a fault cuts its records off. -/
def actorBreaches (h : Header) (cut : Bool) (k n : Nat) (r : Rec) (body : List Rec) : List Nat :=
  let ins := ofKind 4 body
  let outs := ofKind 5 body
  let hs := ofKind 6 body
  let st := r.u32 8
  breachUnless (r.only [1, 2, 3, 4, 6, 7, 8, 9, 10, 11, 12, 13, 14, 15] && decide (r.u8 1 < 8) && countOk cut (r.u8 2) ins.length && countOk cut (r.u8 3) outs.length
      && countOk cut (r.u8 4) hs.length && decide (r.u8 2 ≤ 8) && decide (r.u8 3 ≤ 8) && decide (1 ≤ r.u8 4) && decide (r.u8 4 ≤ 8) && r.u16 6 == 128 * k + n && st % 16 == 0 && decide (16 ≤ st) && decide (st ≤ 262144)
      && (r.u32 12 == 0xFFFFFFFF || decide (r.u32 12 + st ≤ h.dataSize))) r.off
    ++ (body.filter fun x => !([4, 5, 6] : List Nat).contains (x.u8 0)).map Rec.off
    ++ (ins.zipIdx.map fun (x, i) => breachUnless (x.only [1, 2, 3, 4] && x.u8 1 == i && decide (i < 8) && validType (x.u8 2)
        && (x.u8 2 / 8 != 1 || x.u8 2 == 9) && decide (1 ≤ x.u8 3) && decide (x.u8 3 ≤ 64) && decide (x.u8 4 ≤ x.u8 3)) x.off).flatten
    ++ (outs.zipIdx.map fun (x, i) => breachUnless (x.only [1, 2, 3] && x.u8 1 == i && decide (i < 8) && validType (x.u8 2)
        && decide (1 ≤ x.u8 3)) x.off).flatten
    ++ (hs.zipIdx.map fun (x, i) => breachUnless (x.only [1, 2, 4, 5, 6, 7] && x.u8 1 == i && decide (i < 8) && x.u8 2 != 0
        && ((List.range 8).all fun p => bitsOf (x.u8 2) p 1 == 0 || (match ins[p]? with | some q => q.u8 4 != 0 | none => cut))
        && x.u32 4 % 4 == 0 && decide (x.u32 4 < h.textSize)) x.off).flatten

/-- The words of an actor's ports: capacity times word count (R22). -/
def ActorDecl.words (a : ActorDecl) : Nat := (a.ins.map fun p => p.capacity * wordsOf p.typ).sum

/-- The actor records that first exceed a core's 16 actors or 1,920 mailbox words. -/
def coreBreaches (as : List (Rec × ActorDecl)) : List Nat :=
  as.zipIdx.filterMap fun (x, i) =>
    let same := ((as.take (i + 1)).filter fun y => y.2.core == x.2.core).map Prod.snd
    if 16 < same.length ∨ 1920 < (same.map ActorDecl.words).sum then some x.1.off else none

/-- A strand record with what follows it. -/
def strandOf (r : Rec) (body : List Rec) : StrandDecl := ⟨r.u32 4, (groups [3] body).2.map fun g => actorOf g.1 g.2⟩

/-- The breaches of a strand (R16, R38). -/
def strandBreaches (h : Header) (cut : Bool) (k : Nat) (r : Rec) (body : List Rec) : List Nat :=
  let (pre, gs) := groups [3] body
  breachUnless (r.only [2, 3, 4, 5, 6, 7] && countOk cut (r.u16 2) gs.length && decide (1 ≤ r.u16 2) && decide (r.u16 2 ≤ 128) && r.u32 4 % 64 == 0 && decide (r.u32 4 ≤ 262144)) r.off
    ++ pre.map Rec.off
    ++ (gs.zipIdx.map fun (g, n) => actorBreaches h (cutLast cut gs n) k n g.1 g.2).flatten
    ++ coreBreaches (gs.map fun g => (g.1, actorOf g.1 g.2))

/-- The stops that a stop record names. -/
def Rec.stops (r : Rec) : List Nat := (List.range (r.u8 1)).map fun i => r.u16 (2 + 2 * i)

/-- An itinerary record with its stop records. -/
def itinOf (r : Rec) (body : List Rec) : ItinDecl :=
  ⟨((ofKind 8 body).map Rec.stops).flatten, r.u8 2 == 1, r.u8 3, r.u16 4, r.u32 8⟩

/-- How far a fault leaves a rope's records unread (R383): whether it cuts them off, and the actor whose records it cuts off. -/
structure Cut where
  open_ : Bool
  actor : Option Nat
  deriving DecidableEq, Repr

/-- Whether a rope declares an actor that a test holds of; where a fault cuts the rope off, what it leaves unread may. -/
def RopeDecl.has (d : RopeDecl) (cut : Cut) (logical : Nat) (p : ActorDecl → Bool) : Bool :=
  match d.actor logical with
  | some a => p a || cut.actor == some logical
  | none => cut.open_

/-- The breaches of an itinerary (R41, R44, R166); `last` says that a fault cuts its records off. -/
def itinBreaches (d : RopeDecl) (cut : Cut) (last : Bool) (r : Rec) (body : List Rec) : List Nat :=
  let lines := ofKind 8 body
  let stops := (lines.map Rec.stops).flatten
  breachUnless (r.only [1, 2, 3, 4, 5, 8, 9, 10, 11] && countOk last (r.u8 1) stops.length && decide (1 ≤ r.u8 1) && decide (r.u8 1 ≤ 64)
      && decide (r.u8 2 ≤ 1) && decide (1 ≤ r.u32 8) && decide (r.u32 8 ≤ 2 ^ 24)
      && d.has cut (r.u16 4) fun a => match a.ins[r.u8 3]? with | some p => p.typ == 2 | none => false) r.off
    ++ (body.filter fun x => x.u8 0 != 8).map Rec.off
    ++ (lines.zipIdx.map fun (x, i) =>
        let full := decide (i + 1 < lines.length)
        breachUnless (x.only (1 :: (List.range (2 * x.u8 1)).map (· + 2)) && (if full then x.u8 1 == 7 else decide (1 ≤ x.u8 1) && decide (x.u8 1 ≤ 7))
          && x.stops.all fun l => d.has cut l fun a => (firstPortOfKind a.ins 1).isSome) x.off).flatten

/-- A rope record with what follows it. -/
def ropeOfRec (r : Rec) (body : List Rec) : RopeDecl :=
  let gs := (groups [2, 7] body).2
  { cls := .ofNat 3 (r.u8 1)
    supervisor := if r.u16 2 = 0xFFFF then none else some (r.u16 2)
    strands := (gs.filter fun g => g.1.u8 0 == 2).map fun g => strandOf g.1 g.2
    itins := (gs.filter fun g => g.1.u8 0 == 7).map fun g => itinOf g.1 g.2 }

/-- What a fault leaves unread of a rope: the last strand's last actor is cut off, unless an itinerary follows it. -/
def cutOf (cut : Bool) (d : RopeDecl) (gs : List (Rec × List Rec)) : Cut :=
  ⟨cut, if cut && (match gs.getLast? with | some g => g.1.u8 0 == 2 | none => false) then
    (match d.strands.getLast? with | some sd => some (128 * (d.strands.length - 1) + (sd.actors.length - 1)) | none => none) else none⟩

/-- The breaches of a rope (R17, R37, R314). -/
def ropeBreaches (h : Header) (cut : Bool) (r : Rec) (body : List Rec) : List Nat :=
  let (pre, gs) := groups [2, 7] body
  let d := ropeOfRec r body
  let c := cutOf cut d gs
  let strands := gs.zipIdx.filter fun g => g.1.1.u8 0 == 2
  breachUnless (r.only [1, 2, 3, 4, 5, 6, 7] && decide (r.u8 1 < 8) && countOk cut (r.u16 4) d.strands.length && decide (1 ≤ r.u16 4)
      && decide (r.u16 4 ≤ 256) && countOk cut (r.u16 6) d.itins.length
      && (match d.supervisor with
        | none => true
        | some l => d.has c l fun a => match firstPortOfKind a.ins 3 with
          | some k => (match a.ins[k]? with | some p => p.typ == 0x1B | none => false)
          | none => false)) r.off
    ++ pre.map Rec.off
    ++ (strands.zipIdx.map fun (g, k) => strandBreaches h (cutLast cut gs g.2) k g.1.1 g.1.2).flatten
    ++ ((gs.zipIdx.filter fun g => g.1.1.u8 0 == 7).map fun g => itinBreaches d c (cutLast cut gs g.2) g.1.1 g.1.2).flatten

/-- The records of a work table. -/
def recordsOf (off : Nat) : Nat → List Byte → List Rec
  | 0, _ => []
  | n + 1, bs => ⟨off, bs.take 16⟩ :: recordsOf (off + 16) n (bs.drop 16)

/-- An image as the launcher reads it. -/
structure Image where
  header : Header
  ropes : List RopeDecl
  deriving DecidableEq, Repr

/-- Reads the header and the work table of an image: the image, or the lowest offset of a breach, of which a fault in reading is one, at its byte; what
the fault leaves unread breaks nothing (R383). -/
def State.readImage (s : State) (vf : Nat) (at_ : BitVec 52) : Image ⊕ Nat :=
  let hb := s.deviceRead vf at_.toNat 64
  let h : Header := ⟨hb⟩
  if hb.length < 64 then .inr hb.length
  else if !h.ok then .inr 0
  else
    let wb := s.deviceRead vf (at_.toNat + h.workOff) h.workSize
    let cut := decide (wb.length < h.workSize)
    let all := recordsOf h.workOff (wb.length / 16) wb
    let ends := match all.getLast? with | some r => !cut && r.u8 0 == 0x0F | none => false
    let (pre, gs) := groups [1] (if ends then all.dropLast else all)
    let ropes := gs.map fun g => ropeOfRec g.1 g.2
    let strands := (ropes.map RopeDecl.strands).flatten
    let counts := countOk cut (h.field 0x28 2) ropes.length && countOk cut (h.field 0x2A 2) strands.length
      && countOk cut (h.field 0x2C 2) (strands.map fun d => d.actors.length).sum
      && countOk cut (h.field 0x2E 2) (ropes.map fun d => d.itins.length).sum
    let breaches := breachUnless counts 0
      ++ pre.map Rec.off
      ++ (gs.zipIdx.map fun (g, i) => ropeBreaches h (cutLast cut gs i) g.1 g.2).flatten
      ++ (if cut then [h.workOff + wb.length]
        else match all.getLast? with
          | some r => if ends then breachUnless (r.only []) r.off else [h.workOff + h.workSize]
          | none => [h.workOff + h.workSize])
    match breaches with
    | [] => .inl ⟨h, ropes⟩
    | b :: r => .inr (r.foldl min b)

/-- Whether the launcher has to wait for an image: a stack that holds a part of it takes no access (R361). -/
def State.imageAsleep (s : State) (vf : Nat) (at_ : BitVec 52) : Bool :=
  let h : Header := ⟨s.deviceRead vf at_.toNat 64⟩
  s.deviceAsleep vf at_.toNat 64 false
    || (h.bytes.length == 64 && h.ok && s.deviceAsleep vf at_.toNat (h.workOff + h.workSize) false)

/-! ## Room (R89) -/

/-- The bytes that a strand's state regions take on a core, up to the scratch allotment. -/
def StrandDecl.stateSpan (d : StrandDecl) (k : Nat) : Nat :=
  roundUp ((d.actors.filter fun a => a.core == k).map fun a => roundUp (roundLen a.stateBytes) 64).sum 4096

/-- How many actors a strand has on a core. -/
def StrandDecl.slotsOn (d : StrandDecl) (k : Nat) : Nat := (d.actors.filter fun a => a.core == k).length

/-- The extent that a strand takes on a core; none where it has no actor. -/
def StrandDecl.extent (d : StrandDecl) (k : Nat) : Nat :=
  if d.slotsOn k = 0 then 0 else roundUp (d.stateSpan k + d.scratch) 4096

/-- The mailbox words that a strand takes on a core. -/
def StrandDecl.wordsOn (d : StrandDecl) (k : Nat) : Nat := ((d.actors.filter fun a => a.core == k).map ActorDecl.words).sum

/-- The tour slots that a strand reserves. -/
def StrandDecl.tourSlots (d : StrandDecl) : Nat := (d.actors.filter fun a => (firstPortOfKind a.ins 1).isSome).length

/-- Whether a strand fits an empty cluster (R93). -/
def StrandDecl.fitsEmpty (d : StrandDecl) : Bool :=
  ((List.range 8).all fun k => decide (d.slotsOn k ≤ 16) && decide (d.wordsOn k ≤ 1920) && decide (d.extent k ≤ 2 ^ 19)) && decide (d.tourSlots ≤ 32)

/-! ## How a cable ends -/

/-- The code of an outcome (Table 20-1). -/
def RopeOutcome.code : RopeOutcome → Nat
  | .ok => 0 | .depfail => 1 | .ended => 2 | .gangstop => 3 | .lostimage => 4

/-- Whether a cable is live: queued, in launch or running. -/
def Cable.live (c : Cable) : Bool := c.state != .complete

/-- The live cable of a VF with an identifier. -/
def State.liveCable (s : State) (vf : Nat) (name : BitVec 16) : Option (Nat × Cable) :=
  s.cables.find? fun e => e.2.vf == vf && e.2.name == name && e.2.live

/-- TOURREREAD and NOTIFYLOST summed over the cable's ropes as they stand, the retired ones from the cable's own counts. -/
def State.ropeCounts (s : State) (n : Nat) (c : Cable) : Nat × Nat :=
  let mine := s.ropes.filter fun e => e.2.cable == n
  (satNat (c.reread + (mine.map fun e => e.2.reread.toNat).sum) (2 ^ 32 - 1), satNat (c.lost + (mine.map fun e => e.2.notifyLost.toNat).sum) (2 ^ 32 - 1))

/-- The cycles that the running firings of a cable's ropes have used (Table 20-2). -/
def State.runningCycles (s : State) (n : Nat) : Nat :=
  (s.cores.map fun e =>
    if e.2.running.isSome && (match s.ropes.get e.2.curSlot.rope with | some r => r.cable == n | none => false)
      then e.2.budget.toNat - e.2.left.toNat else 0).sum

/-- Words 2 to 5 of the completion message (Table 20-2), as they stand; the cycles of a firing count as they pass. -/
def State.cableWords (s : State) (n : Nat) (c : Cable) : List Word64 :=
  let (reread, lost) := s.ropeCounts n c
  let elapsed := if c.state = .complete then c.elapsed else s.now.toNat - c.acceptedAt
  [.ofNat 64 elapsed, .ofNat 64 c.firings, .ofNat 64 (satNat (c.cycles + s.runningCycles n) (2 ^ 64 - 1)), .ofNat 64 (reread + 2 ^ 32 * lost)]


/-- Records that a cable is COMPLETE, and writes the completion map (R79, R83). -/
def State.markComplete (s : State) (n : Nat) (c : Cable) (o : RopeOutcome) (decider : Nat) : State :=
  (s.modCable n fun c => { c with state := .complete, outcome := o, decider := decider, elapsed := s.now.toNat - c.acceptedAt }).modVf c.vf
    fun v => { v with completion := v.completion.set c.name.toNat (if o = .ok then 1 else 2) }

/-- Injects a cable's completion message to DONE (Table 20-2). -/
def State.sendDone (s : State) (n : Nat) : State :=
  match s.cables.get n with
  | some c => s.inject (.launcher c.vf) c.vf (s.homeOf c.vf) c.done
      (plainMsg 0x1D ([.ofNat 64 (c.name.toNat + 2 ^ 16 * c.outcome.code + 2 ^ 24 * c.decider), c.tag] ++ s.cableWords n c)) 0 none
  | none => s

/-- A cable completes (R371): the completion map, then the dependent cables, of which each fails or has one dependence less, then the message.
The first argument bounds how deep the failures go: no deeper than there are cables. -/
def State.completeCable : Nat → State → Nat → RopeOutcome → Nat → State
  | 0, s, _, _, _ => s
  | fuel + 1, s, n, o, decider =>
    match s.cables.get n with
    | none => s
    | some c =>
      let s := s.markComplete n c o decider
      let waiting := s.cables.filter fun e => e.2.vf == c.vf && e.2.state == .queued && e.2.deps.contains c.name
      let s := waiting.foldl (fun s e =>
        if o = .ok then s.modCable e.1 fun x => { x with deps := x.deps.filter (· != c.name) }
        else match s.cables.get e.1 with
          | some x => if x.live then State.completeCable fuel s e.1 .depfail 0 else s
          | none => s) s
      s.sendDone n

/-- Frees the texts that no live cable of their VF names any more (R45). -/
def State.freeTexts (s : State) (vf : Nat) : State :=
  { s with texts := s.texts.filter fun t => t.vf != vf || s.cables.any fun e => e.2.vf == vf && e.2.image == t.image && e.2.live }

/-- A cable completes, with the depth that its VF's cables allow. -/
def State.finishCable (s : State) (n : Nat) (o : RopeOutcome) (decider : Nat) : State := 
  let s := State.completeCable (s.cables.length + 1) s n o decider
  match s.cables.get n with
  | some c => s.freeTexts c.vf
  | none => s

/-- The number of ropes of a cable. -/
def Cable.count (c : Cable) : Nat := c.ropes.length

/-- A cable whose every rope has an outcome completes: with the first that is not OK, in ROPES order (R371). -/
def State.cableIfDone (s : State) (n : Nat) : State :=
  match s.cables.get n with
  | none => s
  | some c =>
    let outcomes := (List.range c.count).map fun i => (c.outcomes.find? fun e => e.1 == i).map Prod.snd
    if c.live && outcomes.all Option.isSome then
      match outcomes.findIdx? fun o => o != some .ok with
      | some i => s.finishCable n (((outcomes[i]?).getD none).getD .ok) i
      | none => s.finishCable n .ok 0
    else s

/-! ## The launch message -/

/-- A launch status (Table 03-2). -/
structure LaunchStatus where
  code : Nat
  detail : Nat
  argf : Bool
  deriving DecidableEq, Repr

/-- The status message (R77). -/
def statusMsg (cable : Nat) (st : LaunchStatus) (tag : Word64) : Msg :=
  plainMsg 0x19 [.ofNat 64 (cable + 2 ^ 16 * st.code + 2 ^ 24 * st.detail + 2 ^ 32 * b2n st.argf), tag]

/-- The words of a launch message (Table 03-1). -/
structure LaunchWords where
  w : List Word64
  deriving DecidableEq, Repr

def LaunchWords.bits (m : LaunchWords) (word lo n : Nat) : Nat := bitsOf ((m.w[word]?).getD 0).toNat lo n
def LaunchWords.cable (m : LaunchWords) : Nat := m.bits 0 0 16
def LaunchWords.cls (m : LaunchWords) : Nat := m.bits 0 16 3
def LaunchWords.nrope (m : LaunchWords) : Nat := m.bits 0 20 4
def LaunchWords.rope (m : LaunchWords) (j : Nat) : Nat := m.bits 0 (24 + 3 * j) 3
def LaunchWords.ndep (m : LaunchWords) : Nat := m.bits 0 48 3
def LaunchWords.dep (m : LaunchWords) (j : Nat) : Nat := m.bits 4 (16 * j) 16
def LaunchWords.ropes (m : LaunchWords) : List Nat := (List.range m.nrope).map m.rope
def LaunchWords.deps (m : LaunchWords) : List Nat := (List.range m.ndep).map m.dep

/-- BADMSG: the lowest word that shows a failure. -/
def LaunchWords.bad (m : LaunchWords) : Option Nat :=
  if m.bits 0 19 1 ≠ 0 ∨ m.bits 0 51 13 ≠ 0 ∨ m.nrope = 0 ∨ 8 < m.nrope ∨ 4 < m.ndep ∨ (List.range 8).any (fun j => decide (m.nrope ≤ j) && m.rope j != 0)
    then some 0
  else if m.bits 1 52 12 ≠ 0 ∨ m.bits 1 0 6 ≠ 0 then some 1
  else if m.bits 2 52 12 ≠ 0 ∨ m.bits 2 0 3 ≠ 0 then some 2
  else if m.bits 3 13 51 ≠ 0 ∨ 4096 < m.bits 3 0 13 then some 3
  else if (List.range 4).any fun j => decide (m.ndep ≤ j) && m.dep j != 0 then some 4
  else none

/-- Whether an identifier was never accepted for a VF (Table 03-2, BADDEP). -/
def State.neverAccepted (s : State) (vf name : Nat) : Bool :=
  (s.liveCable vf (.ofNat 16 name)).isNone && (match (s.vfs.get vf).bind fun v => v.completion.get name with | some 1 => false | some 2 => false | _ => true)

/-- The checks of Table 03-2 in their order: the first that fails, or the launch arguments. -/
def State.launchCheck (s : State) (vf : Nat) (v : Vf) (m : LaunchWords) : List Byte ⊕ LaunchStatus :=
  let mine := s.cables.filter fun e => e.2.vf == vf && (e.2.state == .queued || e.2.state == .inLaunch)
  match m.bad with
  | some w => .inr ⟨1, w, false⟩
  | none =>
    if 64 ≤ mine.length then .inr ⟨2, 0, false⟩
    else if (s.liveCable vf (.ofNat 16 m.cable)).isSome then .inr ⟨3, 0, false⟩
    else match m.deps.findIdx? fun d => d == m.cable || s.neverAccepted vf d with
      | some j => .inr ⟨4, j, false⟩
      | none =>
        if m.cls < v.floor.toNat then .inr ⟨5, 8, false⟩
        else match s.readImage vf (.ofNat 52 (m.bits 1 0 52)) with
          | .inr off => .inr ⟨6, satNat (off / 64) 255, false⟩
          | .inl im =>
            let args := s.deviceRead vf (m.bits 2 0 52) (m.bits 3 0 13)
            if args.length < m.bits 3 0 13 then .inr ⟨6, 0, true⟩
            else match m.ropes.findIdx? fun r => decide (im.ropes.length ≤ r) with
              | some j => .inr ⟨7, j, false⟩
              | none =>
                let named := m.ropes.filterMap fun r => im.ropes[r]?
                match named.findIdx? fun d => decide (d.cls.toNat < v.floor.toNat) with
                | some j => .inr ⟨5, j, false⟩
                | none =>
                  match named.findIdx? fun d => decide ((s.part v.part).len < d.strands.length) || !d.strands.all StrandDecl.fitsEmpty with
                  | some j => .inr ⟨8, j, false⟩
                  | none => .inl args

/-- The cable that an accepted launch message makes; its dependences that are decided already are gone (R78, R83). The copy of its arguments, for which R78 gives no address
in the VF's system area, stands in the cable, at no address of device memory: the model's choice (log entry 100). -/
def State.cableOf (s : State) (vf : Nat) (m : LaunchWords) (args : List Byte) : Cable where
  vf := vf
  name := .ofNat 16 m.cable
  cls := .ofNat 3 m.cls
  ropes := m.ropes
  deps := (m.deps.map fun d => BitVec.ofNat 16 d).filter fun d => (s.liveCable vf d).isSome
  image := .ofNat 52 (m.bits 1 0 52)
  args := args
  done := (m.w[5]?).getD 0
  reply := (m.w[6]?).getD 0
  tag := (m.w[7]?).getD 0
  state := .queued
  acceptedAt := s.now.toNat
  next := 0
  placed := []
  outcomes := []
  outcome := .ok
  decider := 0
  elapsed := 0
  firings := 0
  cycles := 0
  reread := 0
  lost := 0

/-- `LAUNCH_MESSAGE` (R75, R77, R78, R83): a dependence that completed other than OK fails the cable at once (R81). The launcher's reads of the image and the arguments go
by the system's virtual network and no limiter: the model's choice (log entry 57). -/
def execLaunchMessage (vf : Nat) (s : State) : Out :=
  match s.vfs.get vf with
  | none => .next s
  | some v =>
    match v.launchPort with
    | [] => .next s
    | msg :: rest =>
      let m : LaunchWords := ⟨msg.words⟩
      let tag := (m.w[7]?).getD 0
      if s.imageAsleep vf (.ofNat 52 (m.bits 1 0 52)) || s.deviceAsleep vf (m.bits 2 0 52) (m.bits 3 0 13) false then .next s else
      let t := s.modVf vf fun v => { v with launchPort := rest }
      let status (s : State) (st : LaunchStatus) : State :=
        s.inject (.launcher vf) vf (s.homeOf vf) ((m.w[6]?).getD 0) (statusMsg m.cable st tag) 0 none
      match s.launchCheck vf v m with
      | .inr st => .next (status t st)
      | .inl args =>
        let failed := m.deps.any fun d => (s.liveCable vf (.ofNat 16 d)).isNone && v.completion.get d == some 2
        let n := t.fresh
        let t := { t with cables := t.cables.set n (s.cableOf vf m args), fresh := t.fresh + 1 }
        let t := t.modVf vf fun v => { v with completion := v.completion.erase m.cable }
        let t := status t ⟨0, 0, false⟩
        .next (if failed then t.finishCable n .depfail 0 else t)

end Sys2Proof.Machine
end

