-- ==== Sys2Proof/Machine/Matrix.lean ====
section
/-! DEFINITION. The joint matrix array: geometry, the gang form, steps, draining and clearing (R188, R221 to R239). -/

namespace Sys2Proof.Machine

/-! ## Format pairs -/

/-- How the codes of an operand are read (R173, R179, R180). -/
inductive ElemKind where
  | flt (f : Fmt)
  | int (w : Nat)
  | code (w : Nat)
  deriving DecidableEq, Repr

/-- The bits of an element. -/
def ElemKind.width : ElemKind → Nat
  | .flt f => f.width
  | .int w => w
  | .code w => w

/-- A format pair (Table 02-14). -/
structure Pair where
  a : ElemKind
  b : ElemKind
  k : Nat
  deriving DecidableEq, Repr

/-- The pairs by their sub. -/
def pairOf (sub : Nat) : Pair :=
  match sub with
  | 0 => ⟨.flt fmtE4m3, .flt fmtE4m3, 32⟩
  | 1 => ⟨.flt fmtE4m3, .flt fmtE5m2, 32⟩
  | 2 => ⟨.flt fmtE5m2, .flt fmtE4m3, 32⟩
  | 3 => ⟨.flt fmtE5m2, .flt fmtE5m2, 32⟩
  | 4 => ⟨.flt fmtE3m2, .flt fmtE3m2, 32⟩
  | 5 => ⟨.flt fmtE2m1, .flt fmtE2m1, 64⟩
  | 6 => ⟨.int 8, .int 8, 32⟩
  | 7 => ⟨.int 4, .int 4, 64⟩
  | 8 => ⟨.int 8, .code 8, 32⟩
  | 9 => ⟨.int 8, .code 4, 32⟩
  | 10 => ⟨.int 4, .code 4, 64⟩
  | 11 => ⟨.flt fmtBf16, .flt fmtBf16, 16⟩
  | 12 => ⟨.flt fmtF16, .flt fmtF16, 16⟩
  | 13 => ⟨.flt fmtE4m3, .flt fmtE4m3, 32⟩
  | 14 => ⟨.flt fmtE5m2, .flt fmtE5m2, 32⟩
  | 15 => ⟨.flt fmtE3m2, .flt fmtE3m2, 32⟩
  | _ => ⟨.flt fmtE2m1, .flt fmtE2m1, 64⟩

/-- The q pairs, whose B is scaled by group records. -/
def isQ (sub : Nat) : Bool := decide (8 ≤ sub ∧ sub ≤ 10)

/-- The block-exponent pairs. -/
def isBlock (sub : Nat) : Bool := decide (13 ≤ sub)

/-- The value of an element's bits. -/
def ElemKind.value (x : ElemKind) (bits : Nat) : FVal :=
  match x with
  | .flt f => f.value bits
  | .int w => .ofInt (BitVec.ofNat w bits).toInt 0 false
  | .code _ => .ofInt bits 0 false

/-- The bytes that hold element e of an array: the first, and how many (R180). -/
def elemBytes (w e : Nat) : Nat × Nat := (w * e / 8, (w * e + w - 1) / 8 - w * e / 8 + 1)

/-- The bits of element e of an array at a location (R180). -/
def elemBits (mem : Memory) (loc w e : Nat) : Nat :=
  let (off, n) := elemBytes w e
  bitsOf (leNat (mem.read (loc + off) n)) (w * e % 8) w

/-! ## Geometry -/

/-- The fields of me0 (Table 09-1) and the output size of R225. -/
structure Geometry where
  n : Nat
  h : Nat
  w : Nat
  c : Nat
  kh : Nat
  kw : Nat
  sh : Nat
  sw : Nat
  ph : Nat
  pw : Nat
  dh : Nat
  dw : Nat
  deriving DecidableEq, Repr

/-- The geometry of me0. -/
def geometryOf (m : BitVec 128) : Geometry :=
  let f (lo n : Nat) : Nat := bitsOf m.toNat lo n
  ⟨f 0 16, f 16 16, f 32 16, f 48 16, f 64 8, f 72 8, f 80 8, f 88 8, f 96 8, f 104 8, f 112 8, f 120 8⟩

/-- OH of R225. -/
def Geometry.oh (g : Geometry) : Int := ((g.h : Int) + 2 * g.ph - g.dh * ((g.kh : Int) - 1) - 1) / g.sh + 1
/-- OW of R225. -/
def Geometry.ow (g : Geometry) : Int := ((g.w : Int) + 2 * g.pw - g.dw * ((g.kw : Int) - 1) - 1) / g.sw + 1

/-- Whether me0, me1 and me2 are legal for a step of a pair (R224, R231). -/
def Regs.geometryLegal (r : Regs) (sub : Nat) : Bool :=
  let g := geometryOf r.me[0]
  let m1 := r.me[1].toNat
  let m2 := r.me[2].toNat
  let width := (pairOf sub).a.width
  let zero := [g.n, g.h, g.w, g.c, g.kh, g.kw, g.sh, g.sw, g.dh, g.dw].any fun x => x == 0
  !zero && (width != 4 || g.c % 2 == 0) && (width != 6 || g.c % 4 == 0)
    && bitsOf m1 5 3 == 0 && bitsOf m1 13 3 == 0 && bitsOf m1 21 107 == 0
    && bitsOf m2 18 110 == 0 && bitsOf m2 0 16 % 16 == 0 && !(isQ sub && bitsOf m2 16 2 == 3)
    && decide (1 ≤ g.oh) && decide (1 ≤ g.ow)

/-- The c registers that me1 names. -/
def Regs.aCap (r : Regs) : BitVec 5 := .ofNat 5 r.me[1].toNat
def Regs.bCap (r : Regs) : BitVec 5 := .ofNat 5 (r.me[1].toNat / 2 ^ 8)
def Regs.dCap (r : Regs) : BitVec 5 := .ofNat 5 (r.me[1].toNat / 2 ^ 16)

/-- HLEN and the group size of me2. -/
def Regs.hlen (r : Regs) : Nat := bitsOf r.me[2].toNat 0 16
def Regs.group (r : Regs) : Nat := 32 * 2 ^ bitsOf r.me[2].toNat 16 2

/-- The element of the activation tensor that stands at a place of the unfolded matrix; none is a +0 (R225). -/
def Geometry.unfold (g : Geometry) (m k : Nat) : Option Nat :=
  let oh := g.oh.toNat
  let ow := g.ow.toNat
  if g.n * oh * ow ≤ m ∨ g.kh * g.kw * g.c ≤ k then none
  else
    let ih : Int := (m / ow % oh * g.sh : Nat) - (g.ph : Int) + (k / (g.c * g.kw) * g.dh : Nat)
    let iw : Int := (m % ow * g.sw : Nat) - (g.pw : Int) + (k / g.c % g.kw * g.dw : Nat)
    if ih < 0 ∨ (g.h : Int) ≤ ih ∨ iw < 0 ∨ (g.w : Int) ≤ iw then none
    else some (((m / (oh * ow) * g.h + ih.toNat) * g.w + iw.toNat) * g.c + k % g.c)

/-! ## The gang form -/

/-- What a gang form that waits at the wired barrier carries. -/
structure GangForm where
  pair : Nat
  op1 : Word64
  op2 : Word64
  a : BitVec 5
  b : BitVec 5
  fs : BitVec 5
  zero : Bool
  tile : Bool
  bank : Bool
  opNo : Nat
  deriving DecidableEq, Repr

/-- The gang form of a core that waits at the wired barrier. -/
def Core.gangForm (k : Core) : Option GangForm :=
  match k.wait with
  | .gang p o1 o2 a b f z t k n => some ⟨p, o1, o2, a, b, f, z, t, k, n⟩
  | _ => none

/-- The gang of a core's firing (R222). -/
def State.gangAt (s : State) (c : CoreId) : List Nat :=
  match s.ropeAt c with
  | some r => r.gang (s.core c).curSlot.strand
  | none => []

/-- The bytes of a block of B (R227). -/
def blockBytes (sub : Nat) : Nat := 128 * (pairOf sub).k * (pairOf sub).b.width / 8

/-- The kind of access of the operands of a step: space 1 only (R231). -/
def AccKind.operand : AccKind := ⟨[1], true, false, false⟩

/-- The checks of a gang form at issue, in their order (R231): the trap of the first that fails. DETAIL of a handle's CAPBOUNDS, where the tile is too short for the
blocks, is the slot's address, as for TOURREVOKED: the model's reading (log entry 23). -/
def State.gangFails (s : State) (c : CoreId) (g : GangForm) (word : Word64) : Option (TrapCode × Word64) :=
  let r := (s.core c).regs
  let k := s.cluster c.cluster
  let lead := c.core == 0
  let pair := pairOf g.pair
  let geo := geometryOf r.me[0]
  let acap := r.readC r.aCap
  let bcap := r.readC r.bCap
  let blk := bitsOf g.op2.toNat 40 8
  let need := r.hlen + (blk + 1) * blockBytes g.pair
  let t := (s.core c).curSlot
  let bref := bitsOf g.op2.toNat 0 32
  if !(s.gangAt c).contains 0 then some (.engine, word)
  else if bitsOf g.op1.toNat 48 16 ≠ 0 ∨ bitsOf g.op2.toNat 48 8 ≠ 0 then some (.engine, word)
  else if lead && ((g.tile && g.op2.getLsbD 39) || (!g.tile && bitsOf g.op2.toNat 32 8 != 0)) then some (.engine, word)
  else if !r.geometryLegal g.pair then some (.engine, word)
  else match s.rangeFails c acap acap.cursor.toNat ((geo.n * geo.h * geo.w * geo.c * pair.a.width + 7) / 8) .operand with
    | some code => some (code, accessDetail acap.cursor.toNat acap.space false)
    | none =>
      let b : Option (TrapCode × Word64) :=
        if !lead then none
        else if g.tile then
          match s.heldTour c (.ofNat 64 (bitsOf g.op2.toNat 0 39)) with
          | none => some (.tourRevoked, handleDetail g.op2)
          | some (_, tour) => if tour.len < need then some (.capbounds, handleDetail g.op2) else none
        else
          let a : Int := bcap.cursor.toNat + bref
          if bref % 16 ≠ 0 then some (.align, accessDetail a bcap.space false)
          else (s.rangeFails c bcap a need .operand).map fun code => (code, accessDetail a bcap.space false)
      match b with
      | some e => some e
      | none =>
        let bank := k.bank c.core g.bank
        if !g.zero && (bank.owner != some (t.rope, t.strand) || bank.poison) then some (.engine, word) else none

/-- The common form of the gang forms (R231): the checks, then the wired barrier. The words of bound port registers leave their ports when the step starts, so that a
trap at the join and a BUDGET trap take nothing (R232, R234). -/
def gang (s : State) (sub : Nat) (f : Option (BitVec 5)) (a b : BitVec 5) (u v z t k : Bool) (i : Instr) : Out :=
  let r := (s.core s.cur).regs
  let srcs : List Src := [⟨.x a, u⟩, ⟨.x b, v⟩, ⟨.c r.aCap, false⟩, ⟨.me 0, false⟩, ⟨.me 1, false⟩, ⟨.me 2, false⟩] ++ (if s.cur.core = 0 ∧ !t then [⟨.c r.bCap, false⟩] else [])
  s.issue s.cur srcs (match f with | some n => [.f n] | none => []) fun s0 =>
    let (op1, s) := s0.takeX s0.cur a
    let (op2, _) := s.takeX s.cur b
    let g : GangForm := ⟨sub, op1, op2, a, b, f.getD 0, z, t, k, (s0.core s0.cur).opNo⟩
    match s0.gangFails s0.cur g (.ofNat 64 ((encode i).getD 0).toNat) with
    | some (code, e) => .trap s0 code e
    | none => .done (s0.waitFor s0.cur (.gang sub op1 op2 a b (f.getD 0) z t k g.opNo))

/-- `mma.e4e4` (R231). -/
def execMmaE4e4 (a b : BitVec 5) (u v z t k : Bool) (s : State) : Out := gang s 0 none a b u v z t k (.mmaE4e4 a b u v z t k)
/-- `mma.e4e5` (R231). -/
def execMmaE4e5 (a b : BitVec 5) (u v z t k : Bool) (s : State) : Out := gang s 1 none a b u v z t k (.mmaE4e5 a b u v z t k)
/-- `mma.e5e4` (R231). -/
def execMmaE5e4 (a b : BitVec 5) (u v z t k : Bool) (s : State) : Out := gang s 2 none a b u v z t k (.mmaE5e4 a b u v z t k)
/-- `mma.e5e5` (R231). -/
def execMmaE5e5 (a b : BitVec 5) (u v z t k : Bool) (s : State) : Out := gang s 3 none a b u v z t k (.mmaE5e5 a b u v z t k)
/-- `mma.e3e3` (R231). -/
def execMmaE3e3 (a b : BitVec 5) (u v z t k : Bool) (s : State) : Out := gang s 4 none a b u v z t k (.mmaE3e3 a b u v z t k)
/-- `mma.e2e2` (R231). -/
def execMmaE2e2 (a b : BitVec 5) (u v z t k : Bool) (s : State) : Out := gang s 5 none a b u v z t k (.mmaE2e2 a b u v z t k)
/-- `mma.i8i8` (R231). -/
def execMmaI8i8 (a b : BitVec 5) (u v z t k : Bool) (s : State) : Out := gang s 6 none a b u v z t k (.mmaI8i8 a b u v z t k)
/-- `mma.i4i4` (R231). -/
def execMmaI4i4 (a b : BitVec 5) (u v z t k : Bool) (s : State) : Out := gang s 7 none a b u v z t k (.mmaI4i4 a b u v z t k)
/-- `mma.i8q8` (R231). -/
def execMmaI8q8 (a b : BitVec 5) (u v z t k : Bool) (s : State) : Out := gang s 8 none a b u v z t k (.mmaI8q8 a b u v z t k)
/-- `mma.i8q4` (R231). -/
def execMmaI8q4 (a b : BitVec 5) (u v z t k : Bool) (s : State) : Out := gang s 9 none a b u v z t k (.mmaI8q4 a b u v z t k)
/-- `mma.i4q4` (R231). -/
def execMmaI4q4 (a b : BitVec 5) (u v z t k : Bool) (s : State) : Out := gang s 10 none a b u v z t k (.mmaI4q4 a b u v z t k)
/-- `mma.bf16` (R231). -/
def execMmaBf16 (a b : BitVec 5) (u v z t k : Bool) (s : State) : Out := gang s 11 none a b u v z t k (.mmaBf16 a b u v z t k)
/-- `mma.f16` (R231). -/
def execMmaF16 (a b : BitVec 5) (u v z t k : Bool) (s : State) : Out := gang s 12 none a b u v z t k (.mmaF16 a b u v z t k)
/-- `mmb.e4e4` (R231). -/
def execMmbE4e4 (f a b : BitVec 5) (u v z t k : Bool) (s : State) : Out := gang s 13 (some f) a b u v z t k (.mmbE4e4 f a b u v z t k)
/-- `mmb.e5e5` (R231). -/
def execMmbE5e5 (f a b : BitVec 5) (u v z t k : Bool) (s : State) : Out := gang s 14 (some f) a b u v z t k (.mmbE5e5 f a b u v z t k)
/-- `mmb.e3e3` (R231). -/
def execMmbE3e3 (f a b : BitVec 5) (u v z t k : Bool) (s : State) : Out := gang s 15 (some f) a b u v z t k (.mmbE3e3 f a b u v z t k)
/-- `mmb.e2e2` (R231). -/
def execMmbE2e2 (f a b : BitVec 5) (u v z t k : Bool) (s : State) : Out := gang s 16 (some f) a b u v z t k (.mmbE2e2 f a b u v z t k)

/-- `ecfg` of a matrix geometry register (R224). -/
def execEcfgMe (e : BitVec 4) (a b : BitVec 5) (u v : Bool) (s : State) : Out :=
  s.issue s.cur [⟨.x a, u⟩, ⟨.x b, v⟩] [] fun s =>
    let (lo, s) := s.takeX s.cur a
    let (hi, s) := s.takeX s.cur b
    .done ((s.modRegs s.cur fun r => r.putMe e (hi ++ lo)).advance s.cur)

/-! ## Banks -/

/-- Changes a bank of a core's slice. -/
def Cluster.modBank (k : Cluster) (core : Nat) (bank : Bool) (f : Bank → Bank) : Cluster :=
  if h : 2 * core + b2n bank < 16 then { k with banks := k.banks.set (2 * core + b2n bank) (f k.banks[2 * core + b2n bank]) } else k

/-- Whether a started step that is not complete writes a bank. -/
def Cluster.bankPending (k : Cluster) (core : Nat) (bank : Bool) : Bool :=
  k.steps.any fun m => m.parts.any fun p => p.core == core && p.bank == bank

/-- An f32 element of a bank's data. -/
def bankElem (d : BitVec 65536) (t j : Nat) : Nat := d.toNat / 2 ^ (32 * (128 * t + j)) % 2 ^ 32

/-- `mzero` (R236). -/
def execMzero (k : Bool) (s : State) : Out :=
  s.issue s.cur [] [] fun s =>
    let c := s.cur
    let t := (s.core c).curSlot
    if !(s.gangAt c).contains 0 then .trap s .engine (.ofNat 64 ((encode (.mzero k)).getD 0).toNat)
    else if (s.cluster c.cluster).bankPending c.core k then .stall
    else .done ((s.modCluster c.cluster fun q => q.modBank c.core k fun _ => ⟨some (t.rope, t.strand), 0, false⟩).advance c)

/-- The format of `mdrain`'s fmt. -/
def drainKind (f : BitVec 2) : Kind :=
  match f.toNat with
  | 0 => .float fmtF32
  | 1 => .float fmtBf16
  | 2 => .float fmtF16
  | _ => .float fmtE4m3

/-- The bytes of an element of `mdrain`. -/
def drainBytes (f : BitVec 2) : Nat :=
  match f.toNat with
  | 0 => 4
  | 1 => 2
  | 2 => 2
  | _ => 1

/-- The bits of an element as `mdrain` writes it (R235). -/
def drainElem (f : BitVec 2) (sat8 : Bool) (bits : Nat) : Nat :=
  if f = 0 ∧ !(fmtF32.value bits).isNan then bits else (convert ⟨0, sat8⟩ (fmtF32.value bits) oneVal (drainKind f)).1

/-- The kind of access of `mdrain` (R235). -/
def AccKind.drain : AccKind := ⟨[1, 2, 4], false, true, false⟩

/-- `mdrain` (R235): the checks, then the core's store buffer drains, then the writes go on until the last is applied. DETAIL of the ECC trap of a poisoned bank, of
which no address is formed yet, is 0: the model's choice (log entry 23). -/
def execMdrain (a b : BitVec 5) (u v : Bool) (f : BitVec 2) (k : Bool) (s : State) : Out :=
  s.issue s.cur [⟨.x a, u⟩, ⟨.x b, v⟩, ⟨.c (s.core s.cur).regs.dCap, false⟩, ⟨.me 1, false⟩] [] fun s0 =>
    let (off, s) := s0.takeX s0.cur a
    let (pitch, s) := s.takeX s.cur b
    let c := s.cur
    let r := (s.core c).regs
    let t := (s.core c).curSlot
    let bank := (s.cluster c.cluster).bank c.core k
    let word : Word64 := .ofNat 64 ((encode (.mdrain a b u v f k)).getD 0).toNat
    let m1 := r.me[1].toNat
    let rb := 128 * drainBytes f
    let cap := r.readC r.dCap
    let d : Int := cap.cursor.toNat + off.toInt
    if (s.cluster c.cluster).bankPending c.core k then .stall
    else if bank.owner ≠ some (t.rope, t.strand) then .trap s0 .engine word
    else if bank.poison then .trap s0 .ecc 0
    else if bitsOf m1 5 3 ≠ 0 ∨ bitsOf m1 13 3 ≠ 0 ∨ bitsOf m1 21 107 ≠ 0 then .trap s0 .engine word
    else if pitch.toNat % 8 ≠ 0 ∨ pitch.toNat < rb then .trap s0 .engine word
    else if d % 8 ≠ 0 then .trap s0 .align (accessDetail d cap.space true)
    else match s.checkRows c cap d pitch.toNat rb 16 .drain with
      | some (code, e) => .trap s0 code e
      | none =>
        if !(s.core c).stores.isEmpty then .stall
        else .done (s.waitFor c (.mdrain cap.space d.toNat pitch.toNat f r.sat8 k 0))

/-- The bytes of a word of `mdrain`: word w of the 16 rows, counted row by row. -/
def drainWord (d : BitVec 65536) (f : BitVec 2) (sat8 : Bool) (w : Nat) : List Byte :=
  let n := drainBytes f
  let perRow := 16 * n
  ((List.range (8 / n)).map fun i => leBytes n (drainElem f sat8 (bankElem d (w / perRow) (w % perRow * (8 / n) + i)))).flatten

/-- `MDRAIN_WRITES_APPLIED` (R235): an `mdrain` moves on by one word; with the last write the core issues again. A miss in space 4 parks the
firing for the translation, and a PAGEFAULT traps with what was written before. A word to device memory waits while its network drains, its limiter is empty
or its stack is asleep (R293, R294, R361). -/
def execMdrainWritesApplied (c : CoreId) (s : State) : Out :=
  let k := s.core c
  match k.wait with
  | .mdrain space from_ pitch f sat8 bank w =>
    if k.running.isNone || k.park.isSome then .next s
    else
      let perRow := 16 * drainBytes f
      let a := from_ + w / perRow * pitch + 8 * (w % perRow)
      let bs := drainWord ((s.cluster c.cluster).bank c.core bank).data f sat8 w
      let goOn (s : State) : State :=
        if w + 1 = 16 * perRow then s.endWait c
        else s.modCore c fun k => { k with emul := [], wait := .mdrain space from_ pitch f sat8 bank (w + 1) }
      match (if space = 4 then s.translate c a true else Access.ok (spaceLoc c space a) false) with
      | .ok loc repl =>
        if s.writeAsleep loc repl || s.netDrains c.cluster loc || !s.netOpen c.cluster loc then .next s
        else .next (goOn ((s.chargeAccess c.cluster loc 8 0).modMem (some c) loc 8 fun m => m.engineWord loc bs))
      | .emulated _ => .next (goOn s)
      | .miss va wr => .next (s.parkForTranslation c va wr none)
      | _ => .next s
  | _ => .next s

/-! ## A step -/

/-- The B region of a step: where it lies (R227). -/
def State.regionB (s : State) (cl : Nat) (g : GangForm) : Nat :=
  if g.tile then locTile cl (bitsOf g.op2.toNat 0 5) 0
  else
    let r := (s.core ⟨cl, 0⟩).regs
    locScratch cl 0 ((r.readC r.bCap).cursor.toNat + bitsOf g.op2.toNat 0 32)

/-- The group record of row r of a block and column j (R227, Table 07-3). -/
def recordOf (mem : Memory) (base group k blk r j : Nat) : Nat := leNat (mem.read (base + 4 * (128 * ((blk * k + r) / group) + j)) 4)

/-- Whether a record is malformed: its reserved bits (Table 07-3). -/
def recordBad (b : ElemKind) (rec : Nat) : Bool := bitsOf rec 24 8 != 0 || (b.width == 4 && bitsOf rec 20 4 != 0)

/-- Whether a header is too short for a step, or a record that it reads malformed (R227, R230, R232). -/
def State.headerBad (s : State) (cl : Nat) (g : GangForm) : Bool :=
  let r := (s.core ⟨cl, 0⟩).regs
  let pair := pairOf g.pair
  let blk := bitsOf g.op2.toNat 40 8
  let base := s.regionB cl g
  if isBlock g.pair then decide (r.hlen < blk + 1)
  else if isQ g.pair then
    decide (r.hlen < 4 * (128 * ((blk * pair.k + pair.k - 1) / r.group) + 128))
      || (List.range pair.k).any fun row => (List.range 128).any fun j => recordBad pair.b (recordOf s.mem base r.group pair.k blk row j)
  else false

/-- Dequant (R179): σ × (q − z), exactly. -/
def dequant (rec q : Nat) : FVal := (mulVal (fmtF16.value (rec % 2 ^ 16)) (.ofInt ((q : Int) - bitsOf rec 16 8) 0 false)).val

/-- The value of element (r, j) of a step's block of B. -/
def MatStep.elemB (m : MatStep) (mem : Memory) (r j : Nat) : FVal :=
  let pair := pairOf m.pair
  let column := m.baseB + m.hlen + m.blk * blockBytes m.pair + j * pair.k * pair.b.width / 8
  let bits := elemBits mem column pair.b.width r
  if isQ m.pair then dequant (recordOf mem m.baseB m.group pair.k m.blk r j) bits else pair.b.value bits

/-- The location of a core's activation tensor. -/
def State.baseA (s : State) (c : CoreId) : Nat :=
  let r := (s.core c).regs
  locScratch c.cluster c.core (r.readC r.aCap).cursor.toNat

/-- The element of A that a step reads for a local row and a position of a core's part (R225, R226). -/
def StepPart.indexA (p : StepPart) (t k : Nat) : Option Nat :=
  (geometryOf p.geo).unfold (bitsOf p.op1.toNat 0 24 + t) (bitsOf p.op1.toNat 24 24 + k)

/-- Its value, of a pair. -/
def StepPart.elemA (p : StepPart) (mem : Memory) (pair t k : Nat) : FVal :=
  let kind := (pairOf pair).a
  match p.indexA t k with
  | some e => kind.value (elemBits mem p.baseA kind.width e)
  | none => .fin false 0 0

/-- The scale exponent S of a core (R229); none is a NaN. -/
def scaleOf (ea eb : Nat) : Option Nat := if ea = 0xFF ∨ eb = 0xFF then none else some (ea + eb)

/-- The f64 value 2^(S − 254), or the canonical quiet NaN (R229). -/
def scaleWord (x : Option Nat) : Word64 :=
  match x with
  | some e => .ofNat 64 ((fmtF64.round .nearest ⟨.fin false 1 ((e : Int) - 254), false, 0⟩).1)
  | none => 0x7FF8000000000000

/-- A term, scaled by the core's scale (Table 09-3). -/
def scaleTerm (block : Bool) (x : Option Nat) (p : FVal) : FVal :=
  if !block then p
  else match x, p with
    | none, _ => .nan false
    | some e, .fin neg m g => .fin neg m (g + (e : Int) - 254)
    | _, p => p

/-- `Round32` of a sum (R188). -/
def round32 (a b : FVal) : FVal := fmtF32.value (fmtF32.round .nearest (addVal 0 a b)).1

/-- One level of the tree of `StepSum`. -/
def sumPairs : List FVal → List FVal
  | a :: b :: r => round32 a b :: sumPairs r
  | l => l

/-- `StepSum` (R188): as many levels as given. -/
def stepSum : Nat → List FVal → FVal
  | 0, l => l.head?.getD (.fin false 0 0)
  | n + 1, l => stepSum n (sumPairs l)

/-- The sum that an element of a part's bank takes, as the bits of an f32 (R188, R228). -/
def MatStep.sum (m : MatStep) (mem : Memory) (p : StepPart) (t j : Nat) : Nat :=
  let terms := (List.range (pairOf m.pair).k).map fun k =>
    scaleTerm (isBlock m.pair) p.scale (mulVal (p.elemA mem m.pair t k) (m.elemB mem k j)).val
  (fmtF32.round .nearest ⟨stepSum 6 terms, false, 0⟩).1

/-- The new value of an element of a bank, from its old value and its sum (R228). -/
def stepElem (zero : Bool) (old sum : Nat) : Nat :=
  let acc := if zero then FVal.fin false 0 0 else fmtF32.value old
  (fmtF32.round .nearest (addVal 0 acc (fmtF32.value sum))).1

/-- The data of a bank, element by element. -/
def bankOf (f : Nat → Nat → Nat) : BitVec 65536 := .ofNat 65536 ((List.range 2048).foldr (fun e n => n * 2 ^ 32 + f (e / 128) (e % 128)) 0)

/-- Whether a word of A that a step reads for a part holds an uncorrectable error (R238). -/
def StepPart.badA (p : StepPart) (mem : Memory) (pair : Nat) : Bool :=
  (List.range 16).any fun t => (List.range (pairOf pair).k).any fun k =>
    match p.indexA t k with
    | some e => let (off, n) := elemBytes (pairOf pair).a.width e; mem.badIn (p.baseA + off) n
    | none => false

/-- The runs of header bytes that a step reads: its first byte and their number (R227). -/
def MatStep.header (m : MatStep) : Nat × Nat :=
  let k := (pairOf m.pair).k
  if isBlock m.pair then (m.baseB + m.blk, 1)
  else if isQ m.pair then
    let first := (m.blk * k) / m.group
    (m.baseB + 512 * first, 512 * ((m.blk * k + k - 1) / m.group + 1 - first))
  else (m.baseB, 0)

/-- Whether a word of B or of the header that a step reads holds an uncorrectable error (R238). -/
def MatStep.badB (m : MatStep) (mem : Memory) : Bool :=
  mem.badIn (m.baseB + m.hlen + m.blk * blockBytes m.pair) (blockBytes m.pair) || (decide (0 < m.header.2) && mem.badIn m.header.1 m.header.2)

/-- A step reads the word that holds a location, unless it has (R233). -/
def MatStep.readWord (m : MatStep) (mem : Memory) (loc : Nat) : MatStep :=
  let w := loc / 8 * 8
  if m.seen.any fun e => e.1 == w then m
  else { m with seen := m.seen ++ [(w, .ofNat 64 (leNat (mem.read w 8)), mem.badIn w 8)] }

/-- Memory as a step sees it: the words that it has read as they were then (R233). -/
def MatStep.view (m : MatStep) (mem : Memory) : Memory :=
  m.seen.foldl (fun mem e =>
    let mem := mem.write e.1 (leBytes 8 e.2.1.toNat)
    if e.2.2 then mem.setBad e.1 else mem.clearBad e.1) mem

/-- A step has read every operand: what it has not read before, it reads now (R233). -/
def MatStep.readAll (m : MatStep) (mem : Memory) : MatStep :=
  let mem := m.view mem
  { m with
    seen := []
    parts := m.parts.map fun p =>
      if p.sums.isSome then p else { p with sums := some (bankOf fun t j => m.sum mem p t j, m.badB mem || p.badA mem m.pair) } }

/-- A started step reads an operand word. -/
def State.stepRead (s : State) (cl step loc : Nat) : State :=
  s.modCluster cl fun k => { k with steps := k.steps.map fun (m : MatStep) => if m.no = step then m.readWord s.mem loc else m }

/-- The gang that is complete at the wired barrier of a cluster, if one is (R222, R223): every core with its gang form. -/
def State.completeGang (s : State) (cl : Nat) : Option (List (Nat × GangForm)) :=
  let lead : CoreId := ⟨cl, 0⟩
  let t := (s.core lead).curSlot
  let gang := s.gangAt lead
  let forms := gang.filterMap fun n =>
    let k := s.core ⟨cl, n⟩
    if k.curSlot.rope = t.rope ∧ k.curSlot.strand = t.strand ∧ k.running.isSome ∧ k.park.isNone then k.gangForm.map fun g => (n, g) else none
  if gang.contains 0 && forms.length == gang.length then some forms else none

/-- The gang form of a core traps ENGINE at the join (R232). -/
def State.failGang (s : State) (c : CoreId) : State :=
  let pc := (s.core c).regs.pc
  s.takeTrap c .engine ((s.fetch c).setWidth 64) pc (some (pc + 4))

/-- One core's part in a step that starts: its bank's owner and, with zero-first, a bank without poison; its scale register; the words of its port registers; and the
completion of its gang form. -/
def State.joinStep (s : State) (cl no : Nat) (scale : Option Nat) (n : Nat) (g : GangForm) : State :=
  let c : CoreId := ⟨cl, n⟩
  let t := (s.core c).curSlot
  let s := s.modCluster cl fun k => k.modBank n g.bank fun b => if g.zero then { b with owner := some (t.rope, t.strand), poison := false } else b
  let s := if isBlock g.pair then s.modCore c fun k => { k with scales := k.scales ++ [(no, g.fs, k.firingNo, scaleWord scale)] } else s
  (((s.takeX c g.a).2.takeX c g.b).2).endWait c

/-- One core's part of a step. -/
def State.stepPart (s : State) (cl : Nat) (scale : Option Nat) (n : Nat) (g : GangForm) : StepPart :=
  ⟨n, g.bank, g.zero, (s.core ⟨cl, n⟩).regs.me[0], s.baseA ⟨cl, n⟩, g.op1, scale, none⟩

/-- The step that a complete gang starts. -/
def State.newStep (s : State) (cl : Nat) (forms : List (Nat × GangForm)) (lead : GangForm) : MatStep :=
  let r := (s.core ⟨cl, 0⟩).regs
  let base := s.regionB cl lead
  let blk := bitsOf lead.op2.toNat 40 8
  let eb := (s.mem.byte (base + blk)).toNat
  let t := (s.core ⟨cl, 0⟩).curSlot
  ⟨s.fresh, (t.rope, t.strand), lead.pair, base, r.hlen, r.group, blk, if lead.tile then some (bitsOf lead.op2.toNat 0 5) else none, [],
    forms.map fun e => s.stepPart cl (scaleOf (bitsOf e.2.op2.toNat 56 8) eb) e.1 e.2⟩

/-- How many words hold a run of bytes. -/
def wordsOver (run : Nat × Nat) : Nat := if run.2 = 0 then 0 else (run.1 % 8 + run.2 + 7) / 8

/-- The words of its header, and no other, which a step reads as it starts (log entry 17). -/
def MatStep.readHeader (m : MatStep) (mem : Memory) : MatStep :=
  (List.range (wordsOver m.header)).foldl (fun m i => m.readWord mem (m.header.1 + 8 * i)) m

/-- `STEP_START` (R223, R228, R229, R232): the gang is complete, what it stored before is performed, and fewer than two steps are under way; the one before
has read its operands by then. The header, from which the checks and the scales come, is read at the start; the other operands until the next
step starts or this one completes (R233; log entry 17). -/
def execStepStart (cl : Nat) (s : State) : Out :=
  match s.completeGang cl with
  | none => .next s
  | some forms =>
    let ready := forms.all fun e => (s.core ⟨cl, e.1⟩).stores.isEmpty && s.allPerformed ⟨cl, e.1⟩ e.2.opNo
    if !ready || decide (2 ≤ (s.cluster cl).steps.length) then .next s
    else match forms.find? fun e => e.1 == 0 with
      | none => .next s
      | some (_, lead) =>
        if (forms.any fun e => e.2.pair != lead.pair || e.2.tile != lead.tile) || s.headerBad cl lead then
          .next (forms.foldl (fun s e => s.failGang ⟨cl, e.1⟩) s)
        else
          let m := (s.newStep cl forms lead).readHeader s.mem
          let t := (forms.zip m.parts).foldl (fun t e => t.joinStep cl m.no e.2.scale e.1.1 e.1.2) s
          .next { t.modCluster cl fun k => { k with steps := k.steps.map (fun (x : MatStep) => x.readAll s.mem) ++ [m] } with fresh := s.fresh + 1 }

/-- `SCALE_WRITE` (R223, R229): the scale registers of a started step are written, for the firings that issued it. -/
def execScaleWrite (cl step : Nat) (s : State) : Out :=
  .next ((List.range 8).foldl (fun s n =>
    let c : CoreId := ⟨cl, n⟩
    let k := s.core c
    if k.scales.any fun e => e.1 == step then
      s.modCore c fun k => { k with
        scales := k.scales.filter fun e => e.1 != step
        regs := (k.scales.filter fun e => e.1 == step && e.2.2.1 == k.firingNo && k.running.isSome).foldl (fun r e => r.putF e.2.1 e.2.2.2) k.regs }
    else s) s)

/-- What a step leaves in the bank of one of its cores: the new values, and poison where a word that it read was in error. That the poison shows with the results, and
not before, is the model's choice (log entry 23; R238). -/
def StepPart.settle (p : StepPart) (b : Bank) : Bank :=
  match p.sums with
  | some (sums, bad) =>
    { b with data := bankOf fun t j => stepElem p.zero (bankElem b.data t j) (bankElem sums t j), poison := (!p.zero && b.poison) || bad }
  | none => b

/-- `STEP_COMPLETE` (R223, R238): the results of the oldest step stand in the banks, after its scale registers are written; the banks of a retired strand whose
last step this is are then cleared. -/
def execStepComplete (cl step : Nat) (s : State) : Out :=
  let k := s.cluster cl
  match k.steps with
  | m :: rest =>
    if m.no ≠ step ∨ ((List.range 8).any fun n => (s.core ⟨cl, n⟩).scales.any fun e => e.1 == step) then .next s
    else .next (s.modCluster cl fun k =>
      ((m.readAll s.mem).parts.foldl (fun (k : Cluster) (p : StepPart) => k.modBank p.core p.bank p.settle) { k with steps := rest }).settleDoomed m.owner)
  | [] => .next s

end Sys2Proof.Machine
end

