-- ==== Sys2Proof/Machine/Place.lean ====
section
/-! DEFINITION. The dispatcher: placing a rope, its scrub and its start (R80 to R97). -/

namespace Sys2Proof.Machine

/-! ## The head of the queue -/

/-- The head of a VF's queue (R80, R82): the cable in launch, else the first eligible one by class and acceptance. -/
def State.headCable (s : State) (vf : Nat) : Option (Nat × Cable) :=
  match s.cables.find? fun e => e.2.vf == vf && e.2.state == .inLaunch with
  | some e => some e
  | none =>
    (s.cables.filter fun e => e.2.vf == vf && e.2.state == .queued && e.2.deps.isEmpty).foldl
      (fun best e => match best with
        | none => some e
        | some b => if e.2.cls.toNat < b.2.cls.toNat ∨ (e.2.cls = b.2.cls ∧ e.1 < b.1) then some e else some b) none

/-! ## What is held in a cluster (R89, R90) -/

/-- The placed strands of a cluster that have not retired, with the declarations they come from; those of a switched-out VF do not count. -/
def State.strandsIn (s : State) (cl : Nat) : List (StrandDecl × Strand) :=
  (s.ropes.map fun e =>
    if s.switchedOut e.2.vf then []
    else (e.2.decl.strands.zip e.2.strands).filter fun d => d.2.cluster == cl && !d.2.retired).flatten

/-- The free actor slots of a core, lowest first. -/
def State.freeSlots (s : State) (c : CoreId) : List Nat := (List.range 16).filter fun i => ((s.core c).slot i).phase == .vacant

/-- The mailbox words that the actors of a core hold. -/
def State.wordsHeld (s : State) (c : CoreId) : Nat :=
  ((s.core c).slots.toList.map fun t => if t.phase = .vacant then 0 else (t.ins.map fun q => q.capacity * wordsOf q.typ).sum).sum

/-- The extents held on a core. -/
def State.extentsOn (s : State) (c : CoreId) : List Extent :=
  ((s.strandsIn c.cluster).map fun d => d.2.extents.filter fun x => x.core == c.core && x.len != 0).flatten

/-- The lowest-addressed free extent of a length on a core (R92). -/
def State.freeExtent (s : State) (c : CoreId) (len : Nat) : Option Nat :=
  let held := s.extentsOn c
  let free (b : Nat) : Bool := decide (b + len ≤ 2 ^ 19) && held.all fun x => decide (x.base + x.len ≤ b ∨ b + len ≤ x.base)
  (0 :: held.map fun x => x.base + x.len).foldl
    (fun best b => if free b then (match best with | some a => some (min a b) | none => some b) else best) none

/-- Whether a strand fits a cluster (R89, R90). -/
def State.fits (s : State) (d : StrandDecl) (cl : Nat) : Bool :=
  let held := s.strandsIn cl
  ((List.range 8).all fun k =>
    decide (d.slotsOn k ≤ (s.freeSlots ⟨cl, k⟩).length) && decide (s.wordsHeld ⟨cl, k⟩ + d.wordsOn k ≤ 1920)
      && (d.slotsOn k == 0 || (s.freeExtent ⟨cl, k⟩ (d.extent k)).isSome))
    && decide (held.length < 8) && decide ((held.map fun x => x.1.tourSlots).sum + d.tourSlots ≤ 32)

/-! ## Reserving -/

/-- An input port as placed: empty. -/
def PortDecl.input (p : PortDecl) : InPort := ⟨p.typ, p.capacity, p.rate, [], 0, 0, []⟩

/-- A send port as placed: no destination, SEQ 0 (R257). -/
def PortDecl.output (p : PortDecl) : OutPort := ⟨p.typ, p.rate, 0, 0, false, 0, [], []⟩

/-- A handler table of eight entries (R269). -/
def handlerTable (hs : List (BitVec 8 × Nat)) : List Handler :=
  (List.range 8).map fun i => match hs[i]? with | some (m, e) => ⟨m, e, true⟩ | none => ⟨0, 0, false⟩

/-- The offset of an actor's state region in its core's extent: after the regions of the actors before it on the core (R92). -/
def StrandDecl.stateOffset (d : StrandDecl) (n k : Nat) : Nat :=
  (((d.actors.take n).filter fun a => a.core == k).map fun a => roundUp (roundLen a.stateBytes) 64).sum

/-- How many actors before this one lie on the core. -/
def StrandDecl.rankOn (d : StrandDecl) (n k : Nat) : Nat := ((d.actors.take n).filter fun a => a.core == k).length

/-- The slot of an actor of a placed strand (R92, R106). -/
def placedSlot (rope strand n : Nat) (d : StrandDecl) (a : ActorDecl) (base : Nat) : Slot where
  phase := .waiting
  rope := rope
  strand := strand
  actor := n
  limit := 0x100000
  barred := false
  ins := a.ins.map PortDecl.input
  outs := a.outs.map PortDecl.output
  handlers := handlerTable a.handlers
  stateBase := base + d.stateOffset n a.core
  stateBytes := a.stateBytes
  stateLen := roundLen a.stateBytes
  scratchBase := base + d.stateSpan a.core
  scratchLen := d.scratch

/-- The extents that a strand takes in a cluster. -/
def State.takeExtents (s : State) (d : StrandDecl) (cl : Nat) : List Extent :=
  (List.range 8).filterMap fun k =>
    if d.slotsOn k = 0 then none else (s.freeExtent ⟨cl, k⟩ (d.extent k)).map fun b => ⟨k, b, d.extent k⟩

/-- Where a strand's actors go in a cluster: the core and slot of each, in declaration order. -/
def State.takeSlots (s : State) (d : StrandDecl) (cl : Nat) : List (CoreId × Nat) :=
  d.actors.zipIdx.map fun (a, n) => (⟨cl, a.core⟩, ((s.freeSlots ⟨cl, a.core⟩)[d.rankOn n a.core]?).getD 0)

/-- Puts the actors of a strand into their slots. -/
def State.fillSlots (s : State) (rope strand : Nat) (d : StrandDecl) (xs : List Extent) (places : List (CoreId × Nat)) : State :=
  (d.actors.zip places).zipIdx.foldl (fun s e =>
    let ((a, c, i), n) := e
    let base := match xs.find? fun x => x.core == a.core with | some x => x.base | none => 0
    s.modSlot c i fun _ => placedSlot rope strand n d a base) s

/-- An entry of the placement table (Table 03-6). -/
def placementEntry (p : CoreId × Nat) : BitVec 32 := .ofNat 32 (p.1.cluster % 2 ^ 8 + 2 ^ 8 * (p.1.core % 8) + 2 ^ 11 * (p.2 % 16) + 2 ^ 15)

/-- The entries of a strand: 128 of them. -/
def strandEntries (places : List (CoreId × Nat)) : List (BitVec 32) :=
  (List.range 128).map fun n => match places[n]? with | some p => placementEntry p | none => 0

/-- The search for a cluster for one strand (R91): the first position after the pointer that is not used and that it fits. -/
def State.findPlace (s : State) (part : Part) (ptr : Nat) (used : List Nat) (d : StrandDecl) : Option Nat :=
  ((List.range part.len).map fun i => (ptr + 1 + i) % part.len).find? fun q => !used.contains q && s.fits d (part.base + q)

/-- Places the strands one after another (R91): the state, the pointer, the placed strands and the table; none if one does not fit. -/
def State.placeStrands (s : State) (part : Part) (rope : Nat) :
    List (StrandDecl × Nat) → Nat → List Nat → Option (State × Nat × List Strand × List (BitVec 32))
  | [], ptr, _ => some (s, ptr, [], [])
  | (d, n) :: rest, ptr, used =>
    match s.findPlace part ptr used d with
    | none => none
    | some q =>
      let cl := part.base + q
      let xs := s.takeExtents d cl
      let places := s.takeSlots d cl
      match (s.fillSlots rope n d xs places).placeStrands part rope rest q (q :: used) with
      | none => none
      | some (s, ptr, strands, table) => some (s, ptr, ⟨cl, xs, [], false⟩ :: strands, strandEntries places ++ table)

/-- The lowest global barrier context of the partition that no rope of the VF holds (R88). -/
def State.freeContext (s : State) (vf : Nat) (part : Part) : Option Nat :=
  (List.range part.barctx).find? fun c => !(s.ropes.any fun e => e.2.vf == vf && e.2.context == c && !e.2.retired)

/-- Loads an image's text, once for each pair of VF and image (R45), up to a page that does not translate (log entry 81). R45 gives the loaded text no address in device memory:
that it lies at none, where no access and no sleeping stack reaches it, is the model's choice (log entry 100). -/
def State.loadText (s : State) (vf : Nat) (image : BitVec 52) (h : Header) : State :=
  if s.texts.any fun t => t.vf == vf && t.image == image then s
  else { s with texts := s.texts ++ [⟨vf, image, s.deviceRead vf (image.toNat + 0x40) h.textSize, []⟩] }

/-- The rope that a placement makes (R45, R94). -/
def placedRope (vf cable pos : Nat) (d : RopeDecl) (image : BitVec 52) (context : Nat) (strands : List Strand) (table : List (BitVec 32))
    (argVa : BitVec 52) (argLen : Nat) : Rope where
  vf := vf
  cable := cable
  pos := pos
  decl := d
  image := image
  context := context
  strands := strands
  placement := table
  argVa := argVa
  argLen := argLen
  toStart := []
  scrubbed := false
  fireable := false
  shed := .none
  tree := []
  reread := 0
  notifyLost := 0
  sources := []
  ending := none
  retired := false

/-- Whether a class is shed (R352). -/
def State.classShed (s : State) (cls : BitVec 3) : Bool := s.power.shed.getLsbD cls.toNat

/-- `PLACE_ROPE` (R91 to R94): the head cable's next rope, whole or not at all. A rope of a shed class is stopped as it is placed (R84, R97). That nothing is placed in a
partition that is gang-stopped is the model's choice, since R339 does not name the dispatcher (log entry 99); so is it that the launcher's reads of the image go by the system's
network and no limiter (log entry 57), and that the placement table, which no instruction reads, has no address in device memory (log entry 100). -/
def execPlaceRope (vf : Nat) (s : State) : Out :=
  match s.vfs.get vf, s.headCable vf with
  | some v, some (n, c) =>
    let part := s.part v.part
    if !s.holdsSlice vf || part.halted || s.imageAsleep vf c.image then .next s
    else match s.readImage vf c.image with
      | .inr _ => .next s
      | .inl im =>
        match (c.ropes[c.next]?).bind fun r => im.ropes[r]? with
        | none => .next s
        | some d =>
          match s.freeContext vf part with
          | none => .next s
          | some ctx =>
            let rope := s.fresh
            match s.placeStrands part rope d.strands.zipIdx v.ptr [] with
            | none => .next s
            | some (t, ptr, strands, table) =>
              let argVa : BitVec 52 := .ofNat 52 ((Config.argPage s.freeNo).toNat * 2 ^ 16)
              let argLen := roundLen (0x1000 + im.header.constSize)
              let r := placedRope vf n c.next d c.image ctx strands table argVa argLen
              let r := if s.classShed d.cls then { r with shed := .stopped } else r
              let t := ({ t with ropes := t.ropes.set rope r, fresh := t.fresh + 1, freeNo := t.freeNo + 1 }.loadText vf c.image im.header).modVf vf
                fun v => { v with ptr := ptr }
              .next (t.modCable n fun c =>
                { c with
                  next := c.next + 1
                  placed := c.placed ++ [rope]
                  state := if c.count ≤ c.next + 1 then .running else .inLaunch })
  | _, _ => .next s

/-! ## Scrub and start (R95, R96) -/

/-- Whether a store or an atomic of a cluster's cores to a run of bytes is not performed yet. -/
def State.writesInto (s : State) (cl loc n : Nat) : Bool :=
  (List.range 8).any fun k => (s.unperformed ⟨cl, k⟩).any fun a => a.store && decide (a.loc < loc + n ∧ loc < a.loc + a.bytes)

/-- Whether a copy job whose rope has no strand in the cluster any more still writes scratchpads there. -/
def State.lateJobs (s : State) (cl : Nat) : Bool :=
  (s.cluster cl).jobs.toList.any fun j =>
    (j.state == .queued || j.state == .running) && (match j.work with | .copy _ dst => dst.space == 1 || dst.space == 2 | _ => false)
      && !(match s.ropes.get j.rope with | some r => r.strands.any fun st => st.cluster == cl && !st.retired | none => false)

/-- Whether something that an earlier owner issued can still reach a rope's extents: the scrub comes after it (R95). -/
def State.extentsBusy (s : State) (r : Rope) : Bool :=
  r.strands.any fun st => s.lateJobs st.cluster || st.extents.any fun x => s.writesInto st.cluster (locScratch st.cluster x.core x.base) x.len

/-- Scrubs the extents of a rope. -/
def State.scrubRope (s : State) (r : Rope) : State :=
  r.strands.foldl (fun s st => st.extents.foldl (fun s x =>
    { s with mem := s.mem.scrub (locScratch st.cluster x.core x.base) x.len }) s) s

/-- Builds an actor's state region from its init bytes (R39, R45), up to a page that does not translate (log entry 81). -/
def State.buildState (s : State) (rope : Nat) (r : Rope) (h : Header) (logical : Nat) (a : ActorDecl) : State :=
  match a.init, r.place logical with
  | some off, some (c, i) =>
    match s.actorSlot rope c i with
    | some t =>
      let bytes := s.deviceRead r.vf (r.image.toNat + h.dataOff + off) a.stateBytes
      { s with mem := s.mem.write (locScratch c.cluster c.core t.stateBase) bytes }
    | none => s
  | _, _ => s

/-- The logical actors of a rope with their declarations. -/
def RopeDecl.allActors (d : RopeDecl) : List (Nat × ActorDecl) :=
  (d.strands.zipIdx.map fun (sd, k) => sd.actors.zipIdx.map fun (a, n) => (128 * k + n, a)).flatten

/-- The bytes of the argument block (R45): the launch arguments, zeros up to 0x1000, the const region, zeros up to the placed length. -/
def argBytes (args const : List Byte) (len : Nat) : List Byte :=
  let b := args ++ List.replicate (0x1000 - args.length) 0 ++ const
  b ++ List.replicate (len - b.length) 0

/-- Whether a rope's argument block lies where the launcher may put it (R45): in pages of the VF's system area, which are ordinary and have their frames on the
VF's home die, and apart from the blocks of the VF's other ropes. The spec gives the system area no bounds: every such page that can be read is one, in the model (log entry 82). -/
def State.argPlaced (s : State) (rope : Nat) (r : Rope) : Bool :=
  decide (r.argVa.toNat + r.argLen ≤ 2 ^ 52)
    && ((List.range ((r.argLen + 0xFFFF) / 2 ^ 16)).all fun i =>
      let va := r.argVa.toNat + i * 2 ^ 16
      match s.walk r.vf va false with
      | .leaf e => !e.repl && homeDie (locDram (e.physical va)) == dieOf (s.homeOf r.vf)
      | _ => false)
    && s.ropes.all fun e => e.1 == rope || e.2.vf != r.vf
      || decide (e.2.argVa.toNat + e.2.argLen ≤ r.argVa.toNat ∨ r.argVa.toNat + r.argLen ≤ e.2.argVa.toNat)

/-- The launcher chooses another place for a rope's argument block (R45). -/
def State.rechooseArgs (s : State) (rope : Nat) : State :=
  { s.modRope rope fun r => { r with argVa := .ofNat 52 ((Config.argPage s.freeNo).toNat * 2 ^ 16) } with freeNo := s.freeNo + 1 }

/-- The start message of an actor (R96). -/
def startMsg (name : BitVec 16) (pos : Nat) : Msg := plainMsg 0 [.ofNat 64 (name.toNat + 2 ^ 16 * pos)]

/-- The launcher sends an actor's start message. -/
def State.sendStart (s : State) (rope : Nat) (r : Rope) (logical : Nat) : State :=
  let name := match s.cables.get r.cable with | some c => c.name | none => 0
  s.inject (.launcher r.vf) r.vf (s.homeOf r.vf) (mailboxAddress r.vf r.context logical 0) (startMsg name r.pos) 0 (some (rope, logical))

/-- `ROPE_START` (R95, R96): once nothing of an earlier owner can reach the extents the scrub is done, the state regions and the argument block are built, and the start messages go out. A rope that has ended,
whose extents may be another's already, starts no more (R370); where the launcher may not put the argument block, it chooses another place. The launcher's reads and its write
of the argument block go by the system's virtual network and no limiter: the model's choice (log entry 57). -/
def execRopeStart (rope : Nat) (s : State) : Out :=
  match s.ropes.get rope with
  | none => .next s
  | some r =>
    if r.scrubbed || r.ending.isSome || r.strands.any (fun st => st.retired) || s.extentsBusy r then .next s
    else if s.imageAsleep r.vf r.image || s.deviceAsleep r.vf r.argVa.toNat r.argLen false then .next s
    else if !s.argPlaced rope r then .next (s.rechooseArgs rope)
    else match s.readImage r.vf r.image with
      | .inr _ => .next s
      | .inl im =>
        let s := s.scrubRope r
        let s := r.decl.allActors.foldl (fun s e => s.buildState rope r im.header e.1 e.2) s
        let args := match s.cables.get r.cable with | some c => c.args | none => []
        let const := s.deviceRead r.vf (r.image.toNat + im.header.constOff) im.header.constSize
        let s := (s.deviceWrite r.vf false r.argVa.toNat (argBytes args const r.argLen)).getD s
        let starts := (r.decl.allActors.filter fun e => match e.2.ins[0]? with | some p => p.typ == 0 | none => false).map Prod.fst
        let s := s.modRope rope fun r => { r with scrubbed := true, toStart := starts, fireable := starts.isEmpty }
        .next (starts.foldl (fun s l => s.sendStart rope r l) s)

/-- `START_MESSAGE_REOFFER` (R96): a start message that was refused FULL is offered again. -/
def execStartMessageReoffer (rope actor : Nat) (s : State) : Out :=
  match s.ropes.get rope with
  | none => .next s
  | some r =>
    if r.toStart.contains actor && !(s.flight.any fun p => p.startOf == some (rope, actor)) then .next (s.sendStart rope r actor)
    else .next s

end Sys2Proof.Machine
end

