-- ==== Sys2Proof/Machine/Retire.lean ====
section
/-! DEFINITION. Ending ropes and cables (R368 to R372), slices and switches (R333 to R337), gang stops (R338, R339). -/

namespace Sys2Proof.Machine

/-! ## Ending a rope -/

/-- The cores on which a rope's strands have actors. -/
def Rope.cores (r : Rope) : List CoreId := r.gangCores.map fun g => ⟨g.1, g.2⟩

/-- Whether a core runs a firing of a rope. -/
def State.runs (s : State) (c : CoreId) (rope : Nat) : Bool := (s.core c).running.isSome && (s.core c).curSlot.rope == rope

/-- Aborts a firing wherever it stands: a translation that it waits for is waited for no more. -/
def State.tear (s : State) (c : CoreId) : State := (s.modCluster c.cluster fun k => k.dropWaiter (.core c.core)).abort c

/-- Aborts every PARKED firing of a rope (R370). -/
def State.abortParked (s : State) (rope : Nat) (r : Rope) : State :=
  r.cores.foldl (fun s c => if s.runs c rope && (s.core c).park.isSome then s.tear c else s) s

/-- An END of a cable in launch, or the loss of one of its ropes (Table 03-3, R370): it gives up its queue entry, and its unplaced ropes take the outcome. -/
def State.endLaunch (s : State) (n : Nat) (o : RopeOutcome) : State :=
  s.modCable n fun c =>
    if c.state = .inLaunch then
      { c with
        state := .running
        outcomes := c.outcomes ++ ((List.range c.count).filter fun i => decide (c.next ≤ i)).map fun i => (i, o) }
    else c

/-- Ends a rope: its slots are HELD from their next boundary, its parked firings are aborted (R370). The cable of a rope that ends so, if it is in
launch, is ended too, and its unplaced ropes take the outcome. No firing of it starts any more, so a shed may be complete with it (R353). -/
def State.endRope (s : State) (rope : Nat) (o : RopeOutcome) : State :=
  match s.ropes.get rope with
  | none => s
  | some r =>
    if r.ending.isSome then s
    else (((s.modRope rope fun r => { r with ending := some o }).abortParked rope r).endLaunch r.cable o).settleShed

/-- A strand of an ending rope retires once its firings are at their boundaries and its cores' stores are applied (R370). -/
def State.endStrand (s : State) (rope : Nat) (r : Rope) (k : Nat) (st : Strand) : State :=
  let cores := (r.gang k).map fun g => (⟨st.cluster, g⟩ : CoreId)
  if !st.retired && cores.all fun c => !s.runs c rope && s.storesApplied c then s.retireStrand rope k else s

/-- The firings of a rope that a gang stop has torn are aborted, each once what it had issued is complete (R339). -/
def State.tearStopped (s : State) (rope : Nat) (r : Rope) : State :=
  if r.ending = some .gangstop then r.cores.foldl (fun s c => if s.runs c rope && !(s.core c).wait.issued then s.tear c else s) s else s

/-- Retires what can retire of an ending rope. -/
def State.endStrands (s : State) (rope : Nat) : State :=
  match s.ropes.get rope with
  | none => s
  | some r =>
    if r.ending.isNone then s
    else r.strands.zipIdx.foldl (fun s e => s.endStrand rope r e.2 e.1) ((s.abortParked rope r).tearStopped rope r)

/-- Whether a message, a trap message or a contribution of the rope's cores is still without its answer, or waits to be sent (R369). -/
def State.unansweredOf (s : State) (rope : Nat) : Bool :=
  let mine (x : Sender) : Bool := match x with | .port _ _ _ r => r == rope | .trapUnit _ r => r == rope | _ => false
  s.flight.any (fun p => mine p.sender) || s.answers.any (fun e => mine e.1.sender) || s.heldTraps.any (fun h => h.rope == rope)
    || s.cores.any (fun e => e.2.sendQ.any fun q => q.rope == rope)
    || s.clusters.any fun e => e.2.redPackets.any (fun p => p.rope == rope && p.origin.isSome) || (e.2.redReqs ++ e.2.redFrees).any fun q => q.rope == rope

/-- Whether a job or a tour of the rope is not over (R369). -/
def State.jobsOf (s : State) (rope : Nat) : Bool :=
  s.clusters.any fun e => e.2.jobs.toList.any fun j => j.taken && j.rope == rope

/-- What a rope waits for before it retires (R369). -/
def State.ropeDone (s : State) (rope : Nat) (r : Rope) : Bool :=
  r.strands.all (fun st => st.retired) && !s.jobsOf rope && !s.unansweredOf rope && r.cores.all fun c => s.writesApplied c

/-- A rope retires (R296, R369): its reduction slots are freed, its context and table released, its outcome recorded. A start message of it that is still on the mesh stays
there: the model's choice (log entry 84). -/
def State.retireRope (s : State) (rope : Nat) (r : Rope) : State :=
  let s := s.freeRopeSlots rope
  let s := s.modCable r.cable fun c =>
    { c with
      outcomes := c.outcomes ++ [(r.pos, r.ending.getD .ok)]
      reread := satNat (c.reread + r.reread.toNat) (2 ^ 32 - 1)
      lost := satNat (c.lost + r.notifyLost.toNat) (2 ^ 32 - 1) }
  ({ s with ropes := s.ropes.erase rope }.settleShed).cableIfDone r.cable

/-- `ROPE_RETIRE` (R369, R370). -/
def execRopeRetire (rope : Nat) (s : State) : Out :=
  let s := s.endStrands rope
  match s.ropes.get rope with
  | none => .next s
  | some r => if s.ropeDone rope r then .next (s.retireRope rope r) else .next s

/-- `END_CABLE` (R370, R374): the privileged endpoint for every VF, one in a VF's endpoint table for that VF. A cable in launch whose placed ropes have
all retired already completes at once. -/
def execEndCable (who : MgmtSender) (vf cable : Nat) (s : State) : Out :=
  if !s.booted then .next s
  else if !(managesAs who || s.listed who vf) then .next (s.reply .noActor)
  else match s.liveCable vf (.ofNat 16 cable) with
    | none => .next (s.reply .refusedCommand)
    | some (n, c) =>
      if c.state = .queued then .next ((s.finishCable n .ended 0).reply .done)
      else .next ((((c.placed.foldl (fun s r => s.endRope r .ended) s).endLaunch n .ended).cableIfDone n).reply .done)

/-! ## Slices (R333) -/

/-- Whether a VF has work: a placed or saved rope, or a queued cable. -/
def State.hasWork (s : State) (vf : Nat) : Bool :=
  s.ropes.any (fun e => e.2.vf == vf) || s.cables.any fun e => e.2.vf == vf && (e.2.state == .queued || e.2.state == .inLaunch)

/-- The VFs of a partition with work, in no order. -/
def State.workers (s : State) (part : Nat) : List Nat := (s.vfs.filter fun e => e.2.part == part && s.hasWork e.1).map Prod.fst

/-- The least number of a list. -/
def leastNat (l : List Nat) : Option Nat := l.foldl (fun b n => match b with | none => some n | some m => some (min m n)) none

/-- The VF whose slice comes next: the first with work from the rotation pointer on, in ascending order, cyclically. -/
def State.nextVf (s : State) (part : Nat) : Option Nat :=
  let ws := s.workers part
  match leastNat (ws.filter fun v => decide ((s.part part).rotation ≤ v)) with
  | some v => some v
  | none => leastNat ws

/-- The core cycles that a partition's cores have counted together. -/
def State.cyclesOf (s : State) (part : Nat) : Nat := ((s.coresOf part).map fun c => (s.core c).cycles.toNat).sum

/-- A slice begins, at a time by which the partition's cores had counted so many cycles. -/
def State.beginSliceAt (s : State) (part vf since cyc : Nat) : State :=
  s.modPart part fun p => { p with slicePhase := .running vf since cyc, lapsed := none }

/-- A slice begins. -/
def State.beginSlice (s : State) (part vf : Nat) : State := s.beginSliceAt part vf s.now.toNat (s.cyclesOf part)

/-- THROTTLEACC at a slice's end: 2.1 × ticks for each core, less the cycles that they received between (R335). -/
def State.addThrottle (s : State) (part vf ticks got : Nat) : State :=
  let due := 21 * ticks * (s.coresOf part).length / 10
  s.modVf vf fun v => { v with throttleAcc := .ofNat 64 (satNat (v.throttleAcc.toNat + (due - got)) (2 ^ 64 - 1)) }

/-- When the slice that a VF holds since a time ends, or ended by its ticks (R333). A SLICE that changes while the slice runs holds for it at once, so that a shorter one may put the
end into the past: the model's choice (log entry 95). -/
def State.sliceOver (s : State) (vf since : Nat) : Nat :=
  match (s.vfs.get vf).bind fun v => v.sliceEnd since with
  | some t => min t s.now.toNat
  | none => s.now.toNat

/-- The end of the slice that a VF holds: when it is over, the cycles of the partition's cores by then, and the last firing boundary since (R335). -/
def State.sliceClose (s : State) (part vf since : Nat) : Nat × Nat × Nat :=
  let till := s.sliceOver vf since
  match (s.part part).lapsed with
  | some e => if e.1 = till then e else (till, s.cyclesOf part, till)
  | none => (till, s.cyclesOf part, till)

/-- The ticks of the running slices pass: what their cores had received by then is kept (R335). -/
def State.noteLapses (s : State) : State :=
  (List.range 16).foldl (fun s part =>
    match (s.part part).slicePhase with
    | .running vf since _ =>
      match (s.vfs.get vf).bind fun v => v.sliceEnd since with
      | some t =>
        if s.now.toNat < t ∨ ((s.part part).lapsed.any fun e => e.1 == t) then s
        else s.modPart part fun p => { p with lapsed := some (t, s.cyclesOf part, t) }
      | none => s
    | _ => s) s

/-- The slice of a VF ends (R333): with only this VF to run a new slice begins at once; without any the slice is nobody's. -/
def State.endSlice (s : State) (part vf since cyc : Nat) : State :=
  let (till, now, last) := s.sliceClose part vf since
  let s := (s.addThrottle part vf (till - since) (now - cyc)).modPart part fun p => { p with rotation := vf + 1 }
  match s.nextVf part with
  | some v =>
    if v = vf then (s.beginSliceAt part vf till now).modVf vf fun x => { x with overrun := 0, gap := 0 }
    else s.modPart part fun p => { p with slicePhase := .ending vf till last }
  | none => (s.modVf vf fun x => { x with overrun := .ofNat 32 (satNat (last - till) (2 ^ 32 - 1)), gap := 0 }).modPart part fun p =>
      { p with slicePhase := .idle (some (vf, till)) }

/-- Whether a slice has come to its end. -/
def State.sliceDue (s : State) (part vf : Nat) : Bool :=
  match s.vfs.get vf with
  | none => true
  | some v =>
    if v.slice = 0 then !s.hasWork vf && !(s.workers part).isEmpty
    else !s.holdsSlice vf

/-- `SLICE_END` (R333). -/
def execSliceEnd (part : Nat) (s : State) : Out :=
  match (s.part part).slicePhase with
  | .running vf since cyc => if s.sliceDue part vf && !(s.part part).halted then .next (s.endSlice part vf since cyc) else .next s
  | _ => .next s

/-- `SWITCH` (R333): ends the slice that runs; where none runs, or the partition is gang-stopped, it is refused: the model's choice (log entry 74). -/
def execSwitchSlice (who : MgmtSender) (part : Nat) (s : State) : Out :=
  match (s.part part).slicePhase with
  | .running vf since cyc => s.command who (!(s.part part).halted) fun s => s.endSlice part vf since cyc
  | _ => s.command who false id

/-! ## Switching (R334 to R337) -/

/-- Whether the outgoing VF is at rest (R334, steps 2 and 3): no firing, no store, no message to send, no copy job; its scrubs are done (R97), and so are its
strands' steps in the matrix arrays (R238). -/
def State.atRest (s : State) (part vf : Nat) : Bool :=
  let mine (rope : Nat) : Bool := match s.ropes.get rope with | some r => r.vf == vf | none => false
  ((s.coresOf part).all fun c =>
    (s.core c).running.isNone && s.storesApplied c && (s.core c).sendQ.isEmpty && (s.core c).prods.isEmpty)
    && (s.clustersOf part).all (fun cl => (s.cluster cl).jobs.toList.all fun j =>
      !(mine j.rope && (match j.work with | .tour .. => false | _ => true) && (j.state == .queued || j.state == .running)))
    && (s.clustersOf part).all (fun cl => (s.cluster cl).steps.all fun m => !mine m.owner.1)
    && s.ropes.all fun e => e.2.vf != vf || e.2.scrubbed || e.2.ending.isSome

/-- The Halyard takes an unclaimed arrival message back from a tile port, and holds it (R167). -/
def State.takeBack (s : State) (n : Nat) (t : Tour) : State :=
  match t.phase, s.stopActor t with
  | .arrived, some (c, i) =>
    let handle : Word64 := .ofNat 64 (s.tileHandle t)
    (s.modSlot c i fun x => { x with ins := x.ins.map fun q => q.withdraw handle }).modTour n fun t => { t with phase := .held }
  | _, _ => s

/-- The slots of a VF's actors. -/
def State.slotsOf (s : State) (vf : Nat) : List (CoreId × Nat × Slot) :=
  ((s.ropes.filter fun e => e.2.vf == vf).map fun e =>
    (((List.range e.2.strands.length).map fun k => e.2.placesOf k).flatten).filterMap fun p =>
      let t := (s.core p.1).slot p.2
      if t.phase ≠ .vacant ∧ t.rope = e.1 then some (p.1, p.2, t) else none).flatten

/-- The extents of a VF's strands that have not retired, as first location and length. -/
def State.rangesOf (s : State) (vf : Nat) : List (Nat × Nat) :=
  ((s.ropes.filter fun e => e.2.vf == vf).map fun e =>
    ((e.2.strands.filter fun st => !st.retired).map fun st => st.extents.map fun x => (locScratch st.cluster x.core x.base, x.len)).flatten).flatten

/-- The accumulator banks of a VF's strands are cleared as it is switched out (R238). -/
def State.clearVf (s : State) (vf : Nat) : State :=
  (s.ropes.filter fun e => e.2.vf == vf).foldl (fun s e =>
    e.2.strands.zipIdx.foldl (fun s st => s.modCluster st.1.cluster fun k => k.clearBanks e.1 st.2) s) s

/-- The unclaimed arrival messages of a VF's tours go back to their Halyards (R167). -/
def State.takeBackAll (s : State) (vf : Nat) : State :=
  s.tours.foldl (fun t e => if (s.ropes.get e.2.rope).any (fun r => r.vf == vf) then t.takeBack e.1 e.2 else t) s

/-- What `SWITCH_SAVE` does once the VF is at rest (R238, R334, R336). -/
def State.saveVf (s : State) (part vf since last : Nat) : State :=
  let s := (s.clearVf vf).takeBackAll vf
  let slots := s.slotsOf vf
  let words := (s.rangesOf vf).map fun x => (x.1, s.mem.restrict x.1 x.2)
  let s := slots.foldl (fun s e => s.modSlot e.1 e.2.1 fun _ => Slot.vacant) s
  let s := s.modVf vf fun v => { v with
    saved := some ⟨slots, words, true⟩
    overrun := .ofNat 32 (satNat (last - since) (2 ^ 32 - 1)) }
  s.modPart part fun p => { p with slicePhase := .saved vf since }

/-- `SWITCH_SAVE` (R334). -/
def execSwitchSave (part : Nat) (s : State) : Out :=
  match (s.part part).slicePhase with
  | .ending vf since last => if s.atRest part vf && !(s.part part).halted then .next (s.saveVf part vf since last) else .next s
  | _ => .next s

/-- The port's next spilled message enters it, if there is room (R337). -/
def InPort.unspill (q : InPort) : InPort :=
  match q.ring with
  | m :: r => if q.msgs.length < q.capacity then { q with msgs := q.msgs ++ [m], ring := r } else q
  | [] => q

/-- The port's spilled messages enter it, as slots allow. -/
def InPort.refill (q : InPort) : InPort := (List.range q.ring.length).foldl (fun q _ => q.unspill) q

/-- Puts a save image back to its own places (R337): the slots, the memory, the spilled messages as slots allow, then the held completions of remote writes. A held completion
whose actor has ended meanwhile is dropped, with no error report: the model's choice (log entry 93). -/
def State.putImage (s : State) (vf : Nat) (im : SaveImage) : State :=
  let s := (s.rangesOf vf).foldl (fun s x => { s with mem := s.mem.scrub x.1 x.2 }) s
  let s := im.words.foldl (fun s w => { s with mem := s.mem.merge w.2 }) s
  let s := im.slots.foldl (fun s e => s.modSlot e.1 e.2.1 fun _ => { e.2.2 with ins := e.2.2.ins.map InPort.refill }) s
  let held := match s.vfs.get vf with | some v => v.heldWrites | none => []
  let s := s.modVf vf fun v => { v with saved := none, heldWrites := [] }
  held.foldl (fun s w => s.writeCompletion w.1 w.2) s

/-- A save image that cannot be read: every rope of the VF ends with LOSTIMAGE (R337, R370). The completions of remote writes that were held for it are dropped, with no error
report: the model's choice (log entry 93). -/
def State.loseImage (s : State) (vf : Nat) : State :=
  let mine := s.ropes.filter fun e => e.2.vf == vf
  let s := s.modVf vf fun v => { v with saved := none, heldWrites := [] }
  mine.foldl (fun s e =>
    let s := s.endRope e.1 .lostimage
    (List.range e.2.strands.length).foldl (fun s k => s.retireStrand e.1 k) s) s

/-- The incoming VF's state is back, whatever it was. -/
def State.bringBack (s : State) (vf : Nat) : State :=
  match (s.vfs.get vf).bind fun v => v.saved with
  | none => s
  | some im => if im.readable then s.putImage vf im else s.loseImage vf

/-- GAP of the VF whose slice ended before (R335). -/
def State.noteGap (s : State) (vf since : Nat) : State :=
  s.modVf vf fun v => { v with gap := .ofNat 32 (satNat (s.now.toNat - since) (2 ^ 32 - 1)) }

/-- `RESTORE` (R333, R334, R337): the next VF of the rotation comes back, and its slice begins. The switch is a fence: every access of the partition's
cores is performed before (R251), and the last firing that a gang stop tore is over (R339). -/
def execRestore (part : Nat) (s : State) : Out :=
  if (s.part part).halted || !(s.coresOf part).all fun c => (s.unperformed c).isEmpty && (s.core c).running.isNone then .next s
  else match (s.part part).slicePhase, s.nextVf part with
    | .idle last, some vf =>
      let t := match last with | some (old, since) => (s.bringBack vf).noteGap old since | none => s.bringBack vf
      .next (t.beginSlice part vf)
    | .saved old since, some vf => .next (((s.bringBack vf).noteGap old since).beginSlice part vf)
    | _, _ => .next s

/-- `SPILL_RING_DRAIN` (R337). -/
def execSpillRingDrain (c : CoreId) (slot port : Nat) (s : State) : Out :=
  .next (s.modSlot c slot fun t => { t with ins := modAt t.ins port InPort.unspill })

/-! ## Gang stops (R338, R339) -/

/-- `GANG_STOP` (R338, R339): a fatal fault stops the partition, and raises its snapshot trigger with CAUSE 1. -/
def execGangStop (part : Nat) (s : State) : Out :=
  if (s.part part).fatal then .next ((s.modPart part fun p => { p with fatal := false, halted := true }).snapshot part 1) else .next s

/-- `HALT` (R338): a fatal fault by command. -/
def execHalt (who : MgmtSender) (part : Nat) (s : State) : Out :=
  s.command who (decide (part < 16) && (s.part part).len != 0 && !(s.part part).halted) fun s => s.modPart part fun p => { p with fatal := true }

/-- Ends every rope of a VF with GANGSTOP: its firings were torn, so that they only complete what they had issued, and each strand retires once the stores of its cores are
applied (R339, R370). A rope that management was ending already takes GANGSTOP too (log entry 42). -/
def State.gangEnd (s : State) (vf : Nat) : State :=
  (s.ropes.filter fun e => e.2.vf == vf).foldl (fun s e =>
    ((s.endRope e.1 .gangstop).modRope e.1 fun r => { r with ending := some .gangstop }).endStrands e.1) s

/-- The VF that holds, or just held, a partition's slice with its firings in place. -/
def SlicePhase.holder : SlicePhase → Option Nat
  | .running vf _ _ => some vf
  | .ending vf _ _ => some vf
  | _ => none

/-- The slice of the VF that a gang stop tore is over (R335): what it lost to throttling is counted, and its last boundary was the tearing. -/
def State.closeSlice (s : State) (part : Nat) : State :=
  let idle (s : State) (vf till : Nat) : State :=
    (s.modVf vf fun v => { v with overrun := .ofNat 32 (satNat (s.now.toNat - till) (2 ^ 32 - 1)) }).modPart part fun p =>
      { p with slicePhase := .idle (some (vf, till)), rotation := vf + 1 }
  match (s.part part).slicePhase with
  | .running vf since cyc =>
    let (till, now, _) := s.sliceClose part vf since
    idle (s.addThrottle part vf (till - since) (now - cyc)) vf till
  | .ending vf since _ => idle s vf since
  | _ => s

/-- `RELEASE` (R339). -/
def execRelease (who : MgmtSender) (part : Nat) (vfs : List Nat) (s : State) : Out :=
  s.command who ((s.part part).halted) fun s =>
    let holder := (s.part part).slicePhase.holder
    let s := match holder with
      | some vf => (s.gangEnd vf).closeSlice part
      | none => s
    let s := (vfs.filter fun v => s.partOfVf v == part && (s.vfs.get v).isSome && some v != holder).foldl (fun s v => s.gangEnd v) s
    s.modPart part fun p => { p with halted := false }

/-- `MANAGEMENT_SNAPSHOT` (R340). -/
def execManagementSnapshot (who : MgmtSender) (part : Nat) (s : State) : Out :=
  s.command who (decide (part < 16)) fun s => s.snapshot part 3

/-- `SNAPSHOT_READ` (R339 to R341): the latched registers of a core, and the counters that the units of its cluster latched, of which the spec gives no list: they are
free (log entry 55). -/
def execSnapshotRead (who : MgmtSender) (c : CoreId) (s : State) : Out :=
  if !s.booted then .next s
  else if !managesAs who then .next (s.reply .noActor)
  else
    let k := (s.core c).snap
    let units := match (s.partOfCluster c.cluster).bind fun p => (s.part p).latched with | some n => Config.unitCounters n c.cluster | none => []
    .next (s.reply (.snapshot [.ofNat 64 (k.seq.toNat + 2 ^ 16 * k.cause.toNat), k.cyc, k.sent, k.recv, .ofNat 64 (k.pc.toNat + 2 ^ 22 * b2n k.valid)] units))

end Sys2Proof.Machine
end

