-- ==== Sys2Proof/Machine/Power.lean ====
section
/-! DEFINITION. The power controller: telemetry, the droop curve, shedding and restoring, the slope of the current, allotments, rails, heat (R347 to R364). -/

namespace Sys2Proof.Machine

/-- Changes the power controller. -/
def State.modPower (s : State) (f : Power → Power) : State := { s with power := f s.power }

/-! ## The droop curve (R349, R350) -/

/-- The fields of the control word (Table 18-2). -/
def Power.safeMask (p : Power) : BitVec 8 := .ofNat 8 (p.control.toNat % 256 / 2 * 2)
def Power.holdoff (p : Power) : Nat := bitsOf p.control.toNat 8 16 * 1000000
def Power.restGap (p : Power) : Nat := bitsOf p.control.toNat 24 8 * 100000
def Power.snapShed (p : Power) : Bool := p.control.getLsbD 32
def Power.snapStale (p : Power) : Bool := p.control.getLsbD 33

/-- Whether a point is enabled. -/
def DroopPoint.enabled (d : DroopPoint) : Bool := d.word.getLsbD 57

/-- A point at a frame (R350). -/
def DroopPoint.see (freq vbus : Nat) (d : DroopPoint) : DroopPoint :=
  let w := d.word.toNat
  let v := if bitsOf w 56 1 = 0 then freq else vbus
  if !d.enabled then { d with active := false }
  else if d.active then { d with active := !decide (bitsOf w 0 32 + bitsOf w 32 16 ≤ v) }
  else { d with active := decide (v < bitsOf w 0 32) }

/-- The curve mask: the masks of the active points together, without class 0. -/
def curveOf (ps : List DroopPoint) : BitVec 8 :=
  ps.foldl (fun m d => if d.enabled && d.active then m ||| .ofNat 8 (bitsOf d.word.toNat 48 8 / 2 * 2) else m) 0

/-- Writes one configuration word: 0 to 7 a point, 8 the control word; reserved fields are ignored, HOLDOFF 0 is written as 1, and RESTGAP 0 leaves
RESTGAP as it is (R8, R349). -/
def Power.configure (p : Power) (index : Nat) (w : Word64) : Power :=
  if h : index < 8 then
    let d := p.points[index]
    let w : Word64 := .ofNat 64 (w.toNat % 2 ^ 58)
    { p with points := p.points.set index ⟨w, d.active && w.getLsbD 57⟩ }
  else
    let n := w.toNat
    let hold := if bitsOf n 8 16 = 0 then 1 else bitsOf n 8 16
    let gap := if bitsOf n 24 8 = 0 then bitsOf p.control.toNat 24 8 else bitsOf n 24 8
    { p with control := .ofNat 64 (n % 2 ^ 8 + 2 ^ 8 * hold + 2 ^ 24 * gap + 2 ^ 32 * bitsOf n 32 2) }

/-! ## Shedding (R352 to R354) -/

/-- A shed request reaches a rope (R352, R354). -/
def State.askShed (s : State) (t : Nat) (r : Rope) : Rope :=
  match r.shed with
  | .none => if s.switchedOut r.vf then { r with shed := .stopped } else { r with shed := .asked (t + 1500000) }
  | _ => r

/-- The partitions that hold a rope of some classes. -/
def State.partsOfClasses (s : State) (m : BitVec 8) : List Nat :=
  (List.range 16).filter fun p => s.ropes.any fun e => m.getLsbD e.2.decl.cls.toNat && s.partOfVf e.2.vf == p

/-- The controller goes by the masks as they stand, for a frame or a staleness at time t: classes that are named and not shed are shed; shed classes that
are unnamed begin to count their hold-off (R352, R355). -/
def State.applyMasks (s : State) (t : Nat) : State :=
  let p := s.power
  let named := p.curve ||| p.safe
  let fresh := named &&& ~~~p.shed
  let shed := p.shed ||| fresh
  let waits := (p.unnamedSince.filter fun e => !named.getLsbD e.1)
    ++ ((List.range 8).filter fun c => shed.getLsbD c && !named.getLsbD c && !(p.unnamedSince.any fun e => e.1 == c)).map fun c => (c, s.now.toNat)
  let s := s.modPower fun p => { p with shed := shed, unnamedSince := waits }
  if fresh = 0 then s
  else
    let s := { s with ropes := s.ropes.map fun (e : Nat × Rope) => if fresh.getLsbD e.2.decl.cls.toNat then (e.1, s.askShed t e.2) else e }
    let s := (s.modPower fun p => { p with shedFrom := some (t, fresh) }).settleShed
    if p.snapShed then (s.partsOfClasses fresh).foldl (fun s q => s.snapshot q 2) s else s

/-! ## Telemetry (R347, R348) -/

/-- One bit of the CRC. -/
def crcBit (crc : Nat) (b : Bool) : Nat :=
  let top := bitsOf crc 15 1 == 1
  let c := crc * 2 % 2 ^ 16
  if top != b then c ^^^ 0x1021 else c

/-- The CRC-16 of bytes: polynomial 0x1021, initial value 0xFFFF, most significant bit first. -/
def crc16 (bs : List Byte) : Nat :=
  bs.foldl (fun c b => ([7, 6, 5, 4, 3, 2, 1, 0] : List Nat).foldl (fun c i => crcBit c (b.getLsbD i)) c) 0xFFFF

/-- A frame's fields. -/
def frameField (f : List Byte) (off n : Nat) : Nat := leNat ((f.drop off).take n)

/-- Whether a frame is valid (R348). -/
def frameValid (f : List Byte) : Bool :=
  f.length == 14 && frameField f 0 1 == 0xA5 && frameField f 11 1 == 0
    && frameField f 12 1 * 256 + frameField f 13 1 == crc16 ((f.drop 1).take 11)
    && decide (40000 ≤ frameField f 3 4) && decide (frameField f 3 4 ≤ 70000)
    && decide (1 ≤ frameField f 7 4) && decide (frameField f 7 4 ≤ 100000)

/-- One more, saturating. -/
def satInc {w : Nat} (v : BitVec w) : BitVec w := if v = BitVec.allOnes w then v else v + 1

/-- The controller's registers after an accepted frame (R348 to R351). -/
def Power.accept (p : Power) (now : Nat) (f : List Byte) : Power :=
  let seq : BitVec 16 := .ofNat 16 (frameField f 1 2)
  let p := p.pendingWrites.foldl (fun p w => p.configure w.1 w.2) p
  let points := p.points.map (DroopPoint.see (frameField f 3 4) (frameField f 7 4))
  { p with
    pendingWrites := []
    points := points
    curve := curveOf points.toList
    gaps := if p.heard && seq != p.seq + 1 then satInc p.gaps else p.gaps
    seq := seq
    freq := .ofNat 32 (frameField f 3 4)
    vbus := .ofNat 32 (frameField f 7 4)
    heard := true
    freshSince := if p.stale then now else p.freshSince
    stale := false
    lastFrame := now }

/-- `TELEMETRY_FRAME` (R348). -/
def execTelemetryFrame (frame : List Byte) (s : State) : Out :=
  if !frameValid frame then .next (s.modPower fun p => { p with bad := satInc p.bad })
  else if s.power.heard && s.power.seq == .ofNat 16 (frameField frame 1 2) then .next s
  else .next ((s.modPower fun p => p.accept s.now.toNat frame).applyMasks s.now.toNat)

/-- No valid frame for 5 ms: frames are stale, and the moment of staleness stands as the frame time (R351). -/
def State.settleStale (s : State) : State :=
  let t := s.power.lastFrame + 5000000
  if s.power.stale ∨ s.now.toNat < t then s
  else
    let s := (s.modPower fun p => { p with stale := true, safe := p.safeMask }).applyMasks t
    if s.power.snapStale then (List.range 16).foldl (fun s q => s.snapshot q 2) s else s

/-- `FRAMES_STALE` (R351); the timebase that reaches the moment of staleness brings it too, so that no later frame can forestall it. -/
def execFramesStale (s : State) : Out := .next s.settleStale

/-- `SAFE_MASK_WITHDRAW` (R351). -/
def execSafeMaskWithdraw (s : State) : Out :=
  if s.power.stale ∨ s.now.toNat < s.power.freshSince + s.power.holdoff then .next s
  else .next ((s.modPower fun p => { p with safe := 0 }).applyMasks s.now.toNat)

/-- `DROOP_CONFIG_WRITE` (R349): at the next accepted frame, or at once while frames are stale. -/
def execDroopConfigWrite (who : MgmtSender) (index : Nat) (value : Word64) (s : State) : Out :=
  s.command who (decide (index ≤ 8)) fun s =>
    if s.power.stale then
      (s.modPower fun p =>
        let p := p.configure index value
        { p with curve := curveOf p.points.toList, safe := p.safeMask }).applyMasks s.now.toNat
    else s.modPower fun p => { p with pendingWrites := p.pendingWrites ++ [(index, value)] }

/-- `SHED_DEADLINE` (R353). -/
def execShedDeadline (rope : Nat) (s : State) : Out :=
  match s.ropes.get rope with
  | none => .next s
  | some r =>
    match r.shed with
    | .asked t => if t ≤ s.now.toNat then .next (s.modRope rope fun r => { r with shed := .stopped }).settleShed else .next s
    | _ => .next s

/-- The classes that are eligible for restore (R355). -/
def Power.eligible (p : Power) (now cls : Nat) : Bool :=
  p.shed.getLsbD cls && p.unnamedSince.any fun e => e.1 == cls && decide (e.2 + p.holdoff ≤ now)

/-- `CLASS_RESTORE` (R354, R355); until the boot has ended every class but 0 stays shed (R375). -/
def execClassRestore (cls : Nat) (s : State) : Out :=
  let p := s.power
  let now := s.now.toNat
  let spaced := match p.lastRestore with | some t => decide (t + p.restGap ≤ now) | none => true
  if !(s.booted && decide (cls < 8) && p.eligible now cls && (List.range cls).all (fun c => !p.eligible now c) && spaced && !p.restoreRising) then .next s
  else
    let s := s.modPower fun p => { p with
      shed := setBit p.shed cls false
      unnamedSince := p.unnamedSince.filter fun e => e.1 != cls
      lastRest := .ofNat 32 (now / 1024)
      lastRestore := some now
      restoreRising := p.up != 0 }
    let s := { s with ropes := s.ropes.map fun (e : Nat × Rope) => if e.2.decl.cls.toNat = cls then (e.1, { e.2 with shed := .none }) else e }
    .next s.settleShed

/-! ## The slope of the current (R356, R357) -/

/-- The load of a cluster in a window. -/
def loadOf (loads : List (Nat × Nat)) (cl : Nat) : Nat := match loads.find? fun e => e.1 == cl with | some e => e.2 | none => 0

/-- Adds to the count of a cluster. -/
def addLoad (loads : List (Nat × Nat)) (cl n : Nat) : List (Nat × Nat) :=
  if loads.any fun e => e.1 == cl then loads.map fun e => if e.1 = cl then (cl, e.2 + n) else e else loads ++ [(cl, n)]

/-- The voltage of the rail that a cluster is on, in mV. -/
def State.railOf (s : State) (cl : Nat) : Nat :=
  if (s.cluster cl).high then (s.power.nowMv.toList[dieOf cl]?).getD 850 else 620

/-- The energy of a window's filler in picojoules: on the clusters whose load fell, in proportion to their fall. -/
def State.fillerEnergy (s : State) (fallen : List (Nat × Nat)) (filler : Nat) : Nat :=
  let all := (fallen.map Prod.snd).sum
  if all = 0 then 0 else (fallen.map fun e => filler * e.2 * s.railOf e.1).sum / all

/-- Charges the filler's energy, in nanojoules, to the partitions in proportion to their share of the fall. -/
def State.chargeFiller (s : State) (fallen : List (Nat × Nat)) (energy : Nat) : State :=
  let all := (fallen.map Prod.snd).sum
  (List.range 16).foldl (fun s p =>
    let mine := ((fallen.filter fun e => s.partOfCluster e.1 == some p).map Prod.snd).sum
    if mine = 0 ∨ all = 0 then s
    else s.modPart p fun q => { q with fillAcc := .ofNat 64 (satNat (q.fillAcc.toNat + energy * mine / all / 1000) (2 ^ 64 - 1)) }) s

/-- `CURRENT_WINDOW` (R356, R357): the loads of the window, in milliamperes. -/
def execCurrentWindow (loads : List LoadRow) (s : State) : Out :=
  let p := s.power
  let now := loads.map fun r => (r.cluster, r.current)
  let load := (now.map Prod.snd).sum
  let floor := if p.down = 0 then 0 else p.current - 1000 * p.down.toNat
  let want := floor - load
  let filler := min want 900000
  let fallen := p.loads.foldl (fun f e => if loadOf now e.1 < e.2 then addLoad f e.1 (e.2 - loadOf now e.1) else f) p.fallen
  let top := p.current + 1000 * p.up.toNat
  let skipped := p.up != 0 && decide (top < load)
  let s := s.chargeFiller fallen (s.fillerEnergy fallen filler)
  .next (s.modPower fun p => { p with
    current := if skipped then top else load + filler
    loads := now
    fallen := if filler = 0 then [] else fallen
    missed := if 900000 < want then satInc p.missed else p.missed
    restoreRising := p.restoreRising && skipped })

/-! ## Allotments (R358) -/

/-- The throttle of a partition after a window of an energy, in microjoules (R358); an allotment of 0 is no limit (log entry 50). -/
def Part.meter (p : Part) (energy : Nat) : Part :=
  let limit := 10 * p.allot.toNat
  let p := { p with lastWin := .ofNat 16 (satNat energy (2 ^ 16 - 1)) }
  if p.allot ≠ 0 ∧ limit < energy then { p with throttle := if p.throttle.toNat < 16 then p.throttle + 1 else p.throttle, calmWindows := 0 }
  else if p.allot = 0 ∨ energy * 10 ≤ limit * 9 then
    if 10 ≤ p.calmWindows + 1 then { p with throttle := if p.throttle = 0 then 0 else p.throttle - 1, calmWindows := 0 }
    else { p with calmWindows := p.calmWindows + 1 }
  else { p with calmWindows := 0 }

/-- `METER_WINDOW` (R358): the partition's energy of a window of 10 µs, in microjoules; its clusters go to the rail that the step puts them on (R359). -/
def execMeterWindow (part energy : Nat) (s : State) : Out :=
  let s := s.modPart part fun p => p.meter energy
  .next ((s.clustersOf part).foldl (fun s cl => s.settleRail cl) s)

/-! ## Rails (R359, R360) -/

/-- The vote of a partition that counts on a die (R360). -/
def State.countingVote (s : State) (part die : Nat) : Option Nat :=
  let p := s.part part
  let v := (p.votes.toList[die]?.getD 0).toNat
  if v ≠ 0 ∧ (s.clustersOf part).any (fun cl => dieOf cl == die) then some v else none

/-- The fused minimum of a die, on a step of the rail (R359). -/
def fusedMin (die : Nat) : Nat := if h : die < 4 then min 950 (((Config.fusedMinRail ⟨die, h⟩).toNat + 4) / 5 * 5) else 0

/-- The target of a die's high rail (R360). -/
def State.railTarget (s : State) (die : Nat) : Nat :=
  match (List.range 16).filterMap fun p => s.countingVote p die with
  | [] => max 850 (fusedMin die)
  | v :: r => max (r.foldl max v) (max (fusedMin die) 700)

/-- Drops the held votes whose clusters have left the high rail or are idle, and sets the targets. -/
def State.settleRails (s : State) : State :=
  let held := s.power.heldVotes.filter fun h => h.2.2.any fun cl => (s.cluster cl).high && !s.clusterIdle cl
  s.modPower fun p => { p with heldVotes := held, target := #v[s.railTarget 0, s.railTarget 1, s.railTarget 2, s.railTarget 3] }

/-- A vote that counts is about to fall, or to count no more: it is held for its partition's clusters on the die. -/
def State.holdVote (s : State) (part die : Nat) : State :=
  match s.countingVote part die with
  | some v => s.modPower fun p => { p with heldVotes := p.heldVotes ++ [(die, v, (s.clustersOf part).filter fun cl => dieOf cl == die)] }
  | none => s

/-- `VOTE_WRITE` (R360): a vote above the rail's range, or off its steps of 5 mV (R359), is refused: the model's choice (log entry 71). -/
def execVoteWrite (who : MgmtSender) (part die : Nat) (mv : BitVec 16) (s : State) : Out :=
  s.command who (decide (part < 16 ∧ die < 4 ∧ mv.toNat ≤ 950 ∧ mv.toNat % 5 = 0)) fun s =>
    let lower := match s.countingVote part die with | some v => decide (mv.toNat < v) | none => false
    let s := if lower then s.holdVote part die else s
    (s.modPart part fun p => { p with votes := if h : die < 4 then p.votes.set die mv else p.votes }).settleRails

/-- `IDLE_LOW_RAIL` (R359): a cluster that has been idle for 10 µs. -/
def execIdleLowRail (cl : Nat) (s : State) : Out :=
  if s.idleLong cl then .next (s.settleRail cl).settleRails else .next s

/-- `RAIL_SWITCH` (R359): the cluster goes to the rail it belongs on. -/
def execRailSwitch (cl : Nat) (s : State) : Out := .next (s.settleRail cl).settleRails

/-- A rail on its way, by a number of millivolts: towards its target, but falling no lower than a vote that is held (R360). -/
def towards (now target held n : Nat) : Nat :=
  if now ≤ target then min target (now + n) else max (max target (min now held)) (now - n)

/-- The greatest vote that is held on a die. -/
def Power.heldVote (p : Power) (die : Nat) : Nat := ((p.heldVotes.filter fun h => h.1 == die).map fun h => h.2.1).foldl max 0

/-- The rails move at 10 mV/µs as the timebase advances (R360). -/
def State.moveRails (s : State) (before : Nat) : State :=
  let s := s.settleRails
  let n := s.now.toNat / 100 - before / 100
  s.modPower fun p => { p with nowMv := Vector.ofFn fun i : Fin 4 => towards p.nowMv[i] p.target[i] (p.heldVote i.val) n }

/-! ## Heat (R361, R362) -/

/-- The threshold of a thermal step, in °C (Table 18-4). -/
def stepThreshold (step : Nat) : Nat := match step with | 0 => 0 | 1 => 85 | 2 => 95 | _ => 105

/-- The highest step whose threshold a sample reaches. -/
def stepReached (celsius : Nat) : Nat := if 105 ≤ celsius then 3 else if 95 ≤ celsius then 2 else if 85 ≤ celsius then 1 else 0

/-- A die's step and its run of cool samples after a sample. -/
def stepAfter (step cool celsius : Nat) : Nat × Nat :=
  if step < stepReached celsius then (stepReached celsius, 0)
  else if step ≠ 0 ∧ celsius + 3 ≤ stepThreshold step then (if 100 ≤ cool + 1 then (step - 1, 0) else (step, cool + 1))
  else (step, 0)

/-- `STACK_SAMPLE` (R361): step 3 is fatal to every partition, and its die's DRAM stays in self-refresh until it reads 90 °C or less. -/
def execStackSample (die celsius : Nat) (s : State) : Out :=
  if h : die < 4 then
    let p := s.power
    let old := p.thermal[die]
    let (step, cool) := stepAfter old p.coolSamples[die] celsius
    let trip := decide (step = 3 ∧ old ≠ 3)
    let s := s.modPower fun p => { p with
      temp := p.temp.set die celsius
      thermal := p.thermal.set die step
      coolSamples := p.coolSamples.set die cool
      selfRefresh := p.selfRefresh.set die ((p.selfRefresh[die] || trip) && decide (90 < celsius)) }
    .next (if trip then { s with parts := s.parts.map fun q => if q.len ≠ 0 ∧ !q.halted then { q with fatal := true } else q } else s)
  else .next s

/-- `DRAM_SHARE_WRITE` (R362): the shares of a die sum to at most 100%. -/
def execDramShareWrite (who : MgmtSender) (part die percent : Nat) (s : State) : Out :=
  let others := ((List.range 16).filter fun p => p != part).map fun p => ((s.part p).shares.toList[die]?).getD 0
  s.command who (decide (part < 16 ∧ die < 4 ∧ others.sum + percent ≤ 100)) fun s =>
    s.modPart part fun p => { p with shares := if h : die < 4 then p.shares.set die percent else p.shares }

/-- `ALLOT_WRITE` (R358). -/
def execAllotWrite (who : MgmtSender) (part : Nat) (watts : BitVec 12) (s : State) : Out :=
  s.command who (decide (part < 16)) fun s => s.modPart part fun p => { p with allot := watts }

/-- `SLOPE_WRITE` (R356, R357, R363): with UP 0 every restore's rise is complete at once. -/
def execSlopeWrite (who : MgmtSender) (down up : BitVec 16) (s : State) : Out :=
  s.command who true fun s =>
    s.modPower fun p => { p with down := down, up := up, restoreRising := p.restoreRising && up != 0 }

end Sys2Proof.Machine
end

