-- ==== Sys2Proof/Machine/Manage.lean ====
section
/-! DEFINITION. Management, boot and attestation (R86, R87, R305, R332, R374 to R378), and what the world outside and time do to the machine. -/

namespace Sys2Proof.Machine

/-! ## Partitions and VFs -/

/-- Whether two ranges of clusters overlap. -/
def rangesMeet (b1 n1 b2 n2 : Nat) : Bool := decide (b1 < b2 + n2 ∧ b2 < b1 + n1)

/-- Whether a partition's VFs have a cable that is not complete, or a saved rope (R87). -/
def State.partBusy (s : State) (part : Nat) : Bool :=
  s.cables.any (fun e => e.2.live && s.partOfVf e.2.vf == part) || s.ropes.any fun e => s.partOfVf e.2.vf == part

/-- Whether the package control core accepts a definition (R87, Table 03-5). -/
def State.mayDefine (s : State) (part base len barctx : Nat) : Bool :=
  let others := (List.range 16).filter fun p => p != part && (s.part p).len != 0
  decide (part < 16 ∧ base < 256 ∧ len ≤ 256 ∧ base + len ≤ 256 ∧ barctx < 128) && !s.partBusy part
    && (len == 0 || (barctx != 0 && decide (barctx + (others.map fun p => (s.part p).barctx).sum ≤ 64)
      && others.all fun p => !rangesMeet base len (s.part p).base (s.part p).len))

/-- `PARTITION_DEFINE` (R86, R87, R91, R333): the VFs' pointers start anew. A gang stop of the partition, and a fatal fault that calls for one, is over then: the
model's choice, since the spec names RELEASE only (log entry 72); so is it that the partition's limiter buckets are full then (R294; log entry 54). -/
def execPartitionDefine (who : MgmtSender) (part base len barctx : Nat) (s : State) : Out :=
  s.command who (s.mayDefine part base len barctx) fun s =>
    let s := (List.range 4).foldl (fun s die => s.holdVote part die) s
    let s := s.modPart part fun p => { p with
      base := base, len := len, barctx := barctx, rotation := 0, slicePhase := .idle none, lapsed := none, fatal := false, halted := false, buckets := []
      latched := none }
    let s := { s with vfs := s.vfs.map fun (e : Nat × Vf) => if e.2.part = part then (e.1, { e.2 with ptr := len - 1 }) else e }
    s.settleRails

/-- A VF as it is created (R83, R91, Table 16-12, Table 16-13). -/
def freshVf (part len : Nat) : Vf where
  part := part
  slice := 0
  classB := false
  floor := 0
  trapWait := 10
  faultEp := 0
  seqDie := 0
  endpoints := []
  root := 0
  launchPort := []
  completion := []
  ptr := len - 1
  throttleAcc := 0
  overrun := 0
  gap := 0
  saved := none
  heldWrites := []

/-- The number of VFs of a partition. -/
def State.vfsOf (s : State) (part : Nat) : Nat := (s.vfs.filter fun e => e.2.part == part).length

/-- `VF_CREATE` (R83): of the package's 384 VFs a partition has at most 64 (R4). -/
def execVfCreate (who : MgmtSender) (vf part : Nat) (s : State) : Out :=
  s.command who (decide (vf < 384 ∧ part < 16 ∧ s.vfsOf part < 64) && (s.vfs.get vf).isNone) fun s =>
    { s with vfs := s.vfs.set vf (freshVf part (s.part part).len) }

/-- `MESHRATE_WRITE` (R294): BURST is 0 with RATE 0, and 1 to 65,535 otherwise; the buckets start full. -/
def execMeshrateWrite (who : MgmtSender) (part : Nat) (rate : BitVec 32) (burst : BitVec 16) (s : State) : Out :=
  s.command who (decide (part < 16) && (rate == 0) == (burst == 0)) fun s =>
    s.modPart part fun p => { p with rate := rate, burst := burst, buckets := [] }

/-- A command about a VF that exists. -/
def State.vfCommand (s : State) (who : MgmtSender) (vf : Nat) (ok : Bool) (f : Vf → Vf) : Out :=
  s.command who (ok && (s.vfs.get vf).isSome) fun s => s.modVf vf f

/-- `VFCTL_WRITE` (R332): a TRAPWAIT of 0 is no value of the field, and leaves it (R8). -/
def execVfctlWrite (who : MgmtSender) (vf : Nat) (value : Word64) (s : State) : Out :=
  let n := value.toNat
  s.vfCommand who vf true fun v => { v with
    slice := .ofNat 32 n
    classB := value.getLsbD 32
    floor := .ofNat 3 (n / 2 ^ 33)
    trapWait := if bitsOf n 36 8 = 0 then v.trapWait else .ofNat 8 (n / 2 ^ 36)
    faultEp := .ofNat 12 (n / 2 ^ 44)
    seqDie := .ofNat 2 (n / 2 ^ 56) }

/-- `ENDPOINT_TABLE_WRITE` (R295): 4,096 entries, of which each names one of the package's 4,096 delivery contexts (R305). -/
def execEndpointTableWrite (who : MgmtSender) (vf index : Nat) (entry : Option Endpoint) (s : State) : Out :=
  s.vfCommand who vf (decide (index < 4096) && entry.all fun e => decide (e.context < 4096)) fun v => { v with
    endpoints := match entry with | some e => v.endpoints.set index e | none => v.endpoints.erase index }

/-- `SHADOW_ROOT_WRITE` (R323). -/
def execShadowRootWrite (who : MgmtSender) (vf : Nat) (pa : BitVec 39) (s : State) : Out :=
  s.vfCommand who vf true fun v => { v with root := pa }

/-- `DELIVERY_CONTEXT_ASSIGN` (R305): 4,096 contexts; a ROD context has one entropy value, a RUD context up to 16. -/
def execDeliveryContextAssign (who : MgmtSender) (ctx vf : Nat) (entropy : Entropy) (s : State) : Out :=
  s.command who (decide (ctx < 4096 ∧ 1 ≤ entropy.values.length ∧ entropy.values.length ≤ (if entropy.ordered then 1 else 16)) && (s.vfs.get vf).isSome) fun s =>
    { s with contexts := s.contexts.set ctx ⟨vf, entropy.ordered, entropy.values, 0⟩ }

/-- `PACKET_COUNTER_READ` (R305, R342): packets dropped for each reason, and soft errors corrected. -/
def execPacketCounterRead (who : MgmtSender) (s : State) : Out :=
  if !s.booted then .next s
  else if !managesAs who then .next (s.reply .noActor)
  else .next (s.reply (.counters (s.dropped.toList ++ [s.corrected])))

/-- `DROPPED_PACKET` (R305). -/
def execDroppedPacket (reason : DropReason) (s : State) : Out :=
  if !s.booted then .next s
  else match reason with
    | .unreliable => .next { s with dropped := s.dropped.set 0 (s.dropped[0] + 1) }
    | .authentication => .next { s with dropped := s.dropped.set 1 (s.dropped[1] + 1) }

/-- `QUERY` (R374): the state of the live cable of an identifier, else of the one that completed last, with words 2 to 5 of Table 20-2. -/
def execQuery (who : MgmtSender) (vf cable : Nat) (s : State) : Out :=
  if !s.booted then .next s
  else if !(managesAs who || s.listed who vf) then .next (s.reply .noActor)
  else
    let found : Option (Nat × Cable) := match s.liveCable vf (.ofNat 16 cable) with
      | some e => some e
      | none => (s.cables.filter fun (e : Nat × Cable) => e.2.vf == vf && e.2.name.toNat == cable).getLast?
    match found with
    | some (n, c) => .next (s.reply (.cable c.state (s.cableWords n c)))
    | none => .next (s.reply .refusedCommand)

/-! ## Firmware and boot (R375 to R377) -/

/-- A field of a firmware image's header (Table 20-5). -/
def fwField (img : List Byte) (off n : Nat) : List Byte := (img.drop off).take n

/-- SVN, and DIGEST as a number. -/
def fwSvn (img : List Byte) : Nat := leNat (fwField img 8 4)
def fwDigest (img : List Byte) : BitVec 384 := .ofNat 384 (leNat (fwField img 0x10 48))

/-- The fused minimum security version. -/
def Boot.least (b : Boot) : Nat := max b.minSvn.toNat Config.fusedMinSvn.toNat

/-- Whether an image is accepted (R376). -/
def Boot.verifies (b : Boot) (img : List Byte) : Bool :=
  let len := leNat (fwField img 0xC 4)
  let signed := fwField img 0 0x40
  leNat (fwField img 0 4) == 0x57464D41 && leNat (fwField img 4 4) == 1 && decide (fwSvn img ≤ 255) && decide (len ≤ 2 ^ 25)
    && decide (0x825 + len ≤ img.length)
    && Config.sha384 (fwField img 0x825 len) == fwDigest img
    && Config.sha384 (fwField img 0x40 97) == Config.fusedEcKey && Config.ecdsaVerifies (fwField img 0x40 97) (fwField img 0xA1 96) signed
    && Config.sha384 (fwField img 0x101 56) == Config.fusedLmsKey && Config.lmsVerifies (fwField img 0x101 56) (fwField img 0x139 1772) signed
    && decide (b.least ≤ fwSvn img)

/-- The machine after a reset that keeps the flash and the fuses, with a new attestation key (R378); what left the package stays outside, and so does what the world still does. -/
def State.afterReset (s : State) : State :=
  { State.reset with
    boot := { s.boot with step := 0, recovery := false, digest := 0, svn := 0, attestKey := s.freeNo }
    hostOut := s.hostOut
    fresh := s.fresh
    freeNo := s.freeNo + 1
    cur := s.cur
    agenda := s.agenda }

/-- The boot of a verified image: the first step of Table 20-4 ends with the image, whose digest and version the evidence gives from then on; the others end one by one, and until
the last has ended the ports answer ATTEST only (R375). -/
def State.bootFrom (s : State) (img : List Byte) : State :=
  { s with boot := { s.boot with step := 1, recovery := false, digest := fwDigest img, svn := .ofNat 32 (fwSvn img) } }

/-- The step of the boot that is under way ends, and the next starts (R375, Table 20-4). None is under way before an image has verified, or once the last has ended. How long each takes,
within its bound, is time's (log entry 110). -/
def Boot.stepEnds (b : Boot) : Boot := if b.step = 0 ∨ 6 ≤ b.step then b else { b with step := b.step + 1 }

/-- `PACKAGE_RESET` (R375 to R377): slot A, else slot B, else recovery. -/
def execPackageReset (s : State) : Out :=
  let t := s.afterReset
  if t.boot.verifies t.boot.slotA then .next (t.bootFrom t.boot.slotA)
  else if t.boot.verifies t.boot.slotB then .next (t.bootFrom t.boot.slotB)
  else .next { t with boot := { t.boot with recovery := true } }

/-- `RECOVERY_IMAGE_LOAD` (R374, R377): in recovery only; the flash is not written. Once the boot has ended it is refused like any other command. -/
def execRecoveryImageLoad (who : MgmtSender) (img : List Byte) (s : State) : Out :=
  if !s.boot.recovery then s.command who false id
  else if !managesAs who then .next (s.reply .noActor)
  else if s.boot.verifies img then .next (s.afterReset.bootFrom img)
  else .next (s.reply .refusedCommand)

/-- `FIRMWARE_WRITE` (R377): a verified image goes to slot A; the fused minimum rises only where that is commanded. -/
def execFirmwareWrite (who : MgmtSender) (img : List Byte) (raise : Bool) (s : State) : Out :=
  s.command who (s.boot.verifies img) fun s =>
    { s with boot := { s.boot with
      slotA := img
      minSvn := if raise && decide (s.boot.minSvn.toNat < fwSvn img) then .ofNat 8 (fwSvn img) else s.boot.minSvn } }

/-! ## Attestation (R378) -/

/-- What PARTS measures: every PARTBASE, PARTLEN, MESHRATE and VFCTL. -/
def State.measured (s : State) : List Byte :=
  (s.parts.toList.map fun p =>
    leBytes 8 p.base ++ leBytes 8 (p.len + 2 ^ 16 * p.barctx) ++ leBytes 8 (p.rate.toNat + 2 ^ 32 * p.burst.toNat)).flatten
    ++ (s.vfs.map fun e => leBytes 8 e.2.ctl).flatten

/-- The evidence but for its signature (Table 20-6). -/
def State.evidence (s : State) (nonce : List Byte) : List (List Byte) :=
  [nonce, leBytes 48 s.boot.digest.toNat, leBytes 4 (s.boot.svn.toNat % 2 ^ 16 + 2 ^ 16 * s.boot.least),
    leBytes 48 (Config.sha384 Config.fuseConfiguration).toNat, leBytes 48 (Config.sha384 s.measured).toNat, leBytes 8 s.now.toNat]

/-- Whether a sender may send ATTEST (R374, R375): the privileged endpoint, an endpoint in a VF's endpoint table, and, until the boot has ended, any. -/
def State.mayAttest (s : State) (who : MgmtSender) : Bool :=
  managesAs who || !s.booted || match who with | .guest vf _ => s.listed who vf | .privileged => true

/-- `ATTEST` (R374, R375, R378): a nonce has 32 bytes; the two certificates follow the evidence where they are asked for. -/
def execAttest (who : MgmtSender) (request : AttestRequest) (s : State) : Out :=
  if !s.mayAttest who then .next (s.reply .noActor)
  else if request.nonce.length ≠ 32 then .next (s.reply .refusedCommand)
  else
    let fields := s.evidence request.nonce
    let sig := Config.attestationSignature s.boot.attestKey s.freeNo (Config.sha384 fields.flatten)
    let chain := if request.certs then [Config.identityCertificate, Config.attestationCertificate s.boot.attestKey] else []
    .next { s.reply (.evidence (fields ++ [leBytes 96 sig.toNat] ++ chain)) with freeNo := s.freeNo + 1 }

/-! ## The world outside, and time -/

/-- A host's message enters the package over a ROD context that is assigned, whose VF is the host's own; where the endpoint stands in the VF's table, its entry names
that context (R295, R305, R306). -/
def State.hostSends (s : State) (ctx ep : Nat) (dest : Word64) (msg : Msg) : State :=
  match s.contexts.get ctx with
  | none => s
  | some x =>
    let entry := (s.vfs.get x.vf).bind fun v => v.endpoints.get ep
    if !s.booted || !x.ordered || (s.vfs.get x.vf).isNone || entry.any (fun e => e.context != ctx) then s
    else s.inject (.host x.vf ep) x.vf (s.homeOf x.vf) dest { msg with tag := false } 0 none

/-- What the world outside, and time, do to the machine. -/
def State.outside (s : State) : Turn → State
  | .core _ => s
  | .event _ => s
  | .tick n => ((({ s with now := s.now + BitVec.ofNat 64 n }.noteBusy).moveRails s.now.toNat).noteLapses).settleStale
  | .icacheMiss c =>
    let k := s.core c
    if k.running.isSome && k.park.isNone && k.wait == .none then s.modCore c fun k => { k with wait := .icache } else s
  | .jobWord cl job w => s.moveWord cl job w
  | .vectorWord c prod elem => s.readAhead c prod elem
  | .lateAccess c => s.modCore c fun k => { k with late := true }
  | .replicaAck upd die => s.replicaAck upd die
  | .correctedError => { s with corrected := s.corrected + 1 }
  | .memoryError loc => { s with mem := s.mem.setBad loc }
  | .textError t w => { s with texts := modAt s.texts t fun x => { x with bad := insertNat w x.bad } }
  | .registerError c g => s.modRegs c fun r => { r with bad := setBit r.bad g.errorBit true }
  | .fatalError part => s.modPart part fun p => { p with fatal := true }
  | .imageLost vf => s.modVf vf fun v =>
      if v.classB then { v with saved := v.saved.map fun im => { im with readable := false } } else v
  | .hostSend ctx ep dest msg => s.hostSends ctx ep dest msg
  | .stepRead cl step loc => s.stepRead cl step loc
  | .bootStep => { s with boot := s.boot.stepEnds }

end Sys2Proof.Machine
end

