-- ==== Sys2Proof/Machine/Dispatch.lean ====
section
/-! DEFINITION. One arm per constructor of `Instr`: the meaning it calls. -/

namespace Sys2Proof.Machine

/-- What an instruction does at the core whose turn it is, or an event where it happens. -/
def exec (i : Instr) (s : State) : Host.Outcome State Fault Refusal :=
  match i with
  | .add d a b u v => Sys2Proof.Machine.execAdd d a b u v s
  | .sub d a b u v => Sys2Proof.Machine.execSub d a b u v s
  | .mul d a b u v => Sys2Proof.Machine.execMul d a b u v s
  | .mulh d a b u v => Sys2Proof.Machine.execMulh d a b u v s
  | .mulhn d a b u v => Sys2Proof.Machine.execMulhn d a b u v s
  | .div d a b u v => Sys2Proof.Machine.execDiv d a b u v s
  | .divn d a b u v => Sys2Proof.Machine.execDivn d a b u v s
  | .rem d a b u v => Sys2Proof.Machine.execRem d a b u v s
  | .remn d a b u v => Sys2Proof.Machine.execRemn d a b u v s
  | .and d a b u v => Sys2Proof.Machine.execAnd d a b u v s
  | .or d a b u v => Sys2Proof.Machine.execOr d a b u v s
  | .xor d a b u v => Sys2Proof.Machine.execXor d a b u v s
  | .andn d a b u v => Sys2Proof.Machine.execAndn d a b u v s
  | .shl d a b u v => Sys2Proof.Machine.execShl d a b u v s
  | .shr d a b u v => Sys2Proof.Machine.execShr d a b u v s
  | .sra d a b u v => Sys2Proof.Machine.execSra d a b u v s
  | .rot d a b u v => Sys2Proof.Machine.execRot d a b u v s
  | .slt d a b u v => Sys2Proof.Machine.execSlt d a b u v s
  | .sltn d a b u v => Sys2Proof.Machine.execSltn d a b u v s
  | .min d a b u v => Sys2Proof.Machine.execMin d a b u v s
  | .max d a b u v => Sys2Proof.Machine.execMax d a b u v s
  | .minn d a b u v => Sys2Proof.Machine.execMinn d a b u v s
  | .maxn d a b u v => Sys2Proof.Machine.execMaxn d a b u v s
  | .clz d a u => Sys2Proof.Machine.execClz d a u s
  | .ctz d a u => Sys2Proof.Machine.execCtz d a u s
  | .popc d a u => Sys2Proof.Machine.execPopc d a u s
  | .bswap d a u => Sys2Proof.Machine.execBswap d a u s
  | .bfx d a b u v => Sys2Proof.Machine.execBfx d a b u v s
  | .bfi d a b u v => Sys2Proof.Machine.execBfi d a b u v s
  | .addi d a u imm => Sys2Proof.Machine.execAddi d a u imm s
  | .andi d a u imm => Sys2Proof.Machine.execAndi d a u imm s
  | .ori d a u imm => Sys2Proof.Machine.execOri d a u imm s
  | .xori d a u imm => Sys2Proof.Machine.execXori d a u imm s
  | .slti d a u imm => Sys2Proof.Machine.execSlti d a u imm s
  | .sltni d a u imm => Sys2Proof.Machine.execSltni d a u imm s
  | .shli d a u sz => Sys2Proof.Machine.execShli d a u sz s
  | .shri d a u sz => Sys2Proof.Machine.execShri d a u sz s
  | .srai d a u sz => Sys2Proof.Machine.execSrai d a u sz s
  | .roti d a u sz => Sys2Proof.Machine.execRoti d a u sz s
  | .lih d imm => Sys2Proof.Machine.execLih d imm s
  | .ld d c w sz imm => Sys2Proof.Machine.execLd d c w sz imm s
  | .st d c w sz imm => Sys2Proof.Machine.execSt d c w sz imm s
  | .ldc d c w imm => Sys2Proof.Machine.execLdc d c w imm s
  | .stc d c w imm => Sys2Proof.Machine.execStc d c w imm s
  | .ldw d c w sz imm => Sys2Proof.Machine.execLdw d c w sz imm s
  | .stf d c w imm => Sys2Proof.Machine.execStf d c w imm s
  | .clrf c w imm => Sys2Proof.Machine.execClrf c w imm s
  | .ldb d c w b l => Sys2Proof.Machine.execLdb d c w b l s
  | .ldbx d c w b l => Sys2Proof.Machine.execLdbx d c w b l s
  | .stb d c w b l => Sys2Proof.Machine.execStb d c w b l s
  | .fld d c w sz imm => Sys2Proof.Machine.execFld d c w sz imm s
  | .fst d c w sz imm => Sys2Proof.Machine.execFst d c w sz imm s
  | .aadd d c b u v o sz => Sys2Proof.Machine.execAadd d c b u v o sz s
  | .aand d c b u v o sz => Sys2Proof.Machine.execAand d c b u v o sz s
  | .aor d c b u v o sz => Sys2Proof.Machine.execAor d c b u v o sz s
  | .axor d c b u v o sz => Sys2Proof.Machine.execAxor d c b u v o sz s
  | .amin d c b u v o sz => Sys2Proof.Machine.execAmin d c b u v o sz s
  | .amax d c b u v o sz => Sys2Proof.Machine.execAmax d c b u v o sz s
  | .aminn d c b u v o sz => Sys2Proof.Machine.execAminn d c b u v o sz s
  | .amaxn d c b u v o sz => Sys2Proof.Machine.execAmaxn d c b u v o sz s
  | .aswap d c b u v o sz => Sys2Proof.Machine.execAswap d c b u v o sz s
  | .aaddz d c b u v o sz => Sys2Proof.Machine.execAaddz d c b u v o sz s
  | .afadd d c b u v t o sz => Sys2Proof.Machine.execAfadd d c b u v t o sz s
  | .afmin d c b u v t o sz => Sys2Proof.Machine.execAfmin d c b u v t o sz s
  | .afmax d c b u v t o sz => Sys2Proof.Machine.execAfmax d c b u v t o sz s
  | .afminn d c b u v t o sz => Sys2Proof.Machine.execAfminn d c b u v t o sz s
  | .afmaxn d c b u v t o sz => Sys2Proof.Machine.execAfmaxn d c b u v t o sz s
  | .cas d c b u v o sz => Sys2Proof.Machine.execCas d c b u v o sz s
  | .beq a b u v o => Sys2Proof.Machine.execBeq a b u v o s
  | .bne a b u v o => Sys2Proof.Machine.execBne a b u v o s
  | .blt a b u v o => Sys2Proof.Machine.execBlt a b u v o s
  | .bge a b u v o => Sys2Proof.Machine.execBge a b u v o s
  | .bltn a b u v o => Sys2Proof.Machine.execBltn a b u v o s
  | .bgen a b u v o => Sys2Proof.Machine.execBgen a b u v o s
  | .jal d imm => Sys2Proof.Machine.execJal d imm s
  | .jalr d a u imm => Sys2Proof.Machine.execJalr d a u imm s
  | .delay a u => Sys2Proof.Machine.execDelay a u s
  | .fence o sz => Sys2Proof.Machine.execFence o sz s
  | .waita d c b u v => Sys2Proof.Machine.execWaita d c b u v s
  | .bmin d a u => Sys2Proof.Machine.execBmin d a u s
  | .pbindRecv d k => Sys2Proof.Machine.execPbindRecv d k s
  | .pbindStream d a u => Sys2Proof.Machine.execPbindStream d a u s
  | .pbindSend d k => Sys2Proof.Machine.execPbindSend d k s
  | .punbind d => Sys2Proof.Machine.execPunbind d s
  | .msend a b u v k => Sys2Proof.Machine.execMsend a b u v k s
  | .mcount d k => Sys2Proof.Machine.execMcount d k s
  | .mstat d k => Sys2Proof.Machine.execMstat d k s
  | .mbind a u k => Sys2Proof.Machine.execMbind a u k s
  | .tour d a c u v => Sys2Proof.Machine.execTour d a c u v s
  | .cast a u => Sys2Proof.Machine.execCast a u s
  | .tstat d a u => Sys2Proof.Machine.execTstat d a u s
  | .tslot d a u => Sys2Proof.Machine.execTslot d a u s
  | .cmov d c u => Sys2Proof.Machine.execCmov d c u s
  | .cbnd d c b u v => Sys2Proof.Machine.execCbnd d c b u v s
  | .cadd d c b u v => Sys2Proof.Machine.execCadd d c b u v s
  | .cset d c b u v => Sys2Proof.Machine.execCset d c b u v s
  | .cperm d c b u v => Sys2Proof.Machine.execCperm d c b u v s
  | .cbase d c u => Sys2Proof.Machine.execCbase d c u s
  | .clen d c u => Sys2Proof.Machine.execClen d c u s
  | .ccur d c u => Sys2Proof.Machine.execCcur d c u s
  | .cprm d c u => Sys2Proof.Machine.execCprm d c u s
  | .ctag d c u => Sys2Proof.Machine.execCtag d c u s
  | .cclr d c u => Sys2Proof.Machine.execCclr d c u s
  | .rds d n => Sys2Proof.Machine.execRds d n s
  | .wrs a u n => Sys2Proof.Machine.execWrs a u n s
  | .trap c => Sys2Proof.Machine.execTrap c s
  | .time d => Sys2Proof.Machine.execTime d s
  | .tlbw d a u => Sys2Proof.Machine.execTlbw d a u s
  | .tlbinv a u => Sys2Proof.Machine.execTlbinv a u s
  | .fadd d a b u v t => Sys2Proof.Machine.execFadd d a b u v t s
  | .fsub d a b u v t => Sys2Proof.Machine.execFsub d a b u v t s
  | .fmul d a b u v t => Sys2Proof.Machine.execFmul d a b u v t s
  | .fdiv d a b u v t => Sys2Proof.Machine.execFdiv d a b u v t s
  | .fsqrt d a u t => Sys2Proof.Machine.execFsqrt d a u t s
  | .fmin d a b u v t => Sys2Proof.Machine.execFmin d a b u v t s
  | .fmax d a b u v t => Sys2Proof.Machine.execFmax d a b u v t s
  | .fminn d a b u v t => Sys2Proof.Machine.execFminn d a b u v t s
  | .fmaxn d a b u v t => Sys2Proof.Machine.execFmaxn d a b u v t s
  | .fabs d a u t => Sys2Proof.Machine.execFabs d a u t s
  | .fneg d a u t => Sys2Proof.Machine.execFneg d a u t s
  | .feq d a b u v t => Sys2Proof.Machine.execFeq d a b u v t s
  | .flt d a b u v t => Sys2Proof.Machine.execFlt d a b u v t s
  | .fle d a b u v t => Sys2Proof.Machine.execFle d a b u v t s
  | .fclass d a u t => Sys2Proof.Machine.execFclass d a u t s
  | .fmvx d a u => Sys2Proof.Machine.execFmvx d a u s
  | .fmvf d a u => Sys2Proof.Machine.execFmvf d a u s
  | .fmadd d a b c t => Sys2Proof.Machine.execFmadd d a b c t s
  | .fmsub d a b c t => Sys2Proof.Machine.execFmsub d a b c t s
  | .fnmsub d a b c t => Sys2Proof.Machine.execFnmsub d a b c t s
  | .fnmadd d a b c t => Sys2Proof.Machine.execFnmadd d a b c t s
  | .vadd d a b m sz => Sys2Proof.Machine.execVadd d a b m sz s
  | .vsub d a b m sz => Sys2Proof.Machine.execVsub d a b m sz s
  | .vmul d a b m sz => Sys2Proof.Machine.execVmul d a b m sz s
  | .vmulh d a b m sz => Sys2Proof.Machine.execVmulh d a b m sz s
  | .vmulhn d a b m sz => Sys2Proof.Machine.execVmulhn d a b m sz s
  | .vand d a b m sz => Sys2Proof.Machine.execVand d a b m sz s
  | .vor d a b m sz => Sys2Proof.Machine.execVor d a b m sz s
  | .vxor d a b m sz => Sys2Proof.Machine.execVxor d a b m sz s
  | .vandn d a b m sz => Sys2Proof.Machine.execVandn d a b m sz s
  | .vshl d a b m sz => Sys2Proof.Machine.execVshl d a b m sz s
  | .vshr d a b m sz => Sys2Proof.Machine.execVshr d a b m sz s
  | .vsra d a b m sz => Sys2Proof.Machine.execVsra d a b m sz s
  | .vmin d a b m sz => Sys2Proof.Machine.execVmin d a b m sz s
  | .vmax d a b m sz => Sys2Proof.Machine.execVmax d a b m sz s
  | .vminn d a b m sz => Sys2Proof.Machine.execVminn d a b m sz s
  | .vmaxn d a b m sz => Sys2Proof.Machine.execVmaxn d a b m sz s
  | .vadds d a b m sz => Sys2Proof.Machine.execVadds d a b m sz s
  | .vaddsn d a b m sz => Sys2Proof.Machine.execVaddsn d a b m sz s
  | .vsubs d a b m sz => Sys2Proof.Machine.execVsubs d a b m sz s
  | .vsubsn d a b m sz => Sys2Proof.Machine.execVsubsn d a b m sz s
  | .vseq d a b m sz => Sys2Proof.Machine.execVseq d a b m sz s
  | .vslt d a b m sz => Sys2Proof.Machine.execVslt d a b m sz s
  | .vsltn d a b m sz => Sys2Proof.Machine.execVsltn d a b m sz s
  | .vfadd d a b m sz t => Sys2Proof.Machine.execVfadd d a b m sz t s
  | .vfsub d a b m sz t => Sys2Proof.Machine.execVfsub d a b m sz t s
  | .vfmul d a b m sz t => Sys2Proof.Machine.execVfmul d a b m sz t s
  | .vfdiv d a b m sz t => Sys2Proof.Machine.execVfdiv d a b m sz t s
  | .vfsqrt d a m t => Sys2Proof.Machine.execVfsqrt d a m t s
  | .vfmin d a b m sz t => Sys2Proof.Machine.execVfmin d a b m sz t s
  | .vfmax d a b m sz t => Sys2Proof.Machine.execVfmax d a b m sz t s
  | .vfminn d a b m sz t => Sys2Proof.Machine.execVfminn d a b m sz t s
  | .vfmaxn d a b m sz t => Sys2Proof.Machine.execVfmaxn d a b m sz t s
  | .vfma d a b m sz t => Sys2Proof.Machine.execVfma d a b m sz t s
  | .vfms d a b m sz t => Sys2Proof.Machine.execVfms d a b m sz t s
  | .vfabs d a m t => Sys2Proof.Machine.execVfabs d a m t s
  | .vfneg d a m t => Sys2Proof.Machine.execVfneg d a m t s
  | .vfeq d a b m sz t => Sys2Proof.Machine.execVfeq d a b m sz t s
  | .vflt d a b m sz t => Sys2Proof.Machine.execVflt d a b m sz t s
  | .vfle d a b m sz t => Sys2Proof.Machine.execVfle d a b m sz t s
  | .vfrec d a m t => Sys2Proof.Machine.execVfrec d a m t s
  | .vfrsq d a m t => Sys2Proof.Machine.execVfrsq d a m t s
  | .vfexp2 d a m t => Sys2Proof.Machine.execVfexp2 d a m t s
  | .vflog2 d a m t => Sys2Proof.Machine.execVflog2 d a m t s
  | .vfredsum d a m t => Sys2Proof.Machine.execVfredsum d a m t s
  | .vfredmin d a m t => Sys2Proof.Machine.execVfredmin d a m t s
  | .vfredmax d a m t => Sys2Proof.Machine.execVfredmax d a m t s
  | .vmv d a m => Sys2Proof.Machine.execVmv d a m s
  | .vbcast d a m => Sys2Proof.Machine.execVbcast d a m s
  | .vbcastf d a m => Sys2Proof.Machine.execVbcastf d a m s
  | .vslideup d a b m => Sys2Proof.Machine.execVslideup d a b m s
  | .vslidedn d a b m => Sys2Proof.Machine.execVslidedn d a b m s
  | .vgather d a b m => Sys2Proof.Machine.execVgather d a b m s
  | .vcompress d a m => Sys2Proof.Machine.execVcompress d a m s
  | .vexpand d a m => Sys2Proof.Machine.execVexpand d a m s
  | .vext d a b => Sys2Proof.Machine.execVext d a b s
  | .vins d a b => Sys2Proof.Machine.execVins d a b s
  | .vredadd d a m => Sys2Proof.Machine.execVredadd d a m s
  | .vredmin d a m => Sys2Proof.Machine.execVredmin d a m s
  | .vredmax d a m => Sys2Proof.Machine.execVredmax d a m s
  | .vredminn d a m => Sys2Proof.Machine.execVredminn d a m s
  | .vredmaxn d a m => Sys2Proof.Machine.execVredmaxn d a m s
  | .mand d a b => Sys2Proof.Machine.execMand d a b s
  | .mor d a b => Sys2Proof.Machine.execMor d a b s
  | .mxor d a b => Sys2Proof.Machine.execMxor d a b s
  | .mnot d a => Sys2Proof.Machine.execMnot d a s
  | .mpopc d a => Sys2Proof.Machine.execMpopc d a s
  | .mfirst d a => Sys2Proof.Machine.execMfirst d a s
  | .vsetvl d a => Sys2Proof.Machine.execVsetvl d a s
  | .vclaim d a => Sys2Proof.Machine.execVclaim d a s
  | .vld d c m w => Sys2Proof.Machine.execVld d c m w s
  | .vst d c m w => Sys2Proof.Machine.execVst d c m w s
  | .vlds d c b m w => Sys2Proof.Machine.execVlds d c b m w s
  | .vsts d c b m w => Sys2Proof.Machine.execVsts d c b m w s
  | .vldx d c b m w => Sys2Proof.Machine.execVldx d c b m w s
  | .vstx d c b m w => Sys2Proof.Machine.execVstx d c b m w s
  | .cvtScalarForm d a b u v p q => Sys2Proof.Machine.execCvtScalarForm d a b u v p q s
  | .cvtVectorForm d a b v p q => Sys2Proof.Machine.execCvtVectorForm d a b v p q s
  | .ecfgCe e a b u v => Sys2Proof.Machine.execEcfgCe e a b u v s
  | .cpq d a b u v k => Sys2Proof.Machine.execCpq d a b u v k s
  | .cppoll d a u => Sys2Proof.Machine.execCppoll d a u s
  | .cpwait a u => Sys2Proof.Machine.execCpwait a u s
  | .mmaE4e4 a b u v z t k => Sys2Proof.Machine.execMmaE4e4 a b u v z t k s
  | .mmaE4e5 a b u v z t k => Sys2Proof.Machine.execMmaE4e5 a b u v z t k s
  | .mmaE5e4 a b u v z t k => Sys2Proof.Machine.execMmaE5e4 a b u v z t k s
  | .mmaE5e5 a b u v z t k => Sys2Proof.Machine.execMmaE5e5 a b u v z t k s
  | .mmaE3e3 a b u v z t k => Sys2Proof.Machine.execMmaE3e3 a b u v z t k s
  | .mmaE2e2 a b u v z t k => Sys2Proof.Machine.execMmaE2e2 a b u v z t k s
  | .mmaI8i8 a b u v z t k => Sys2Proof.Machine.execMmaI8i8 a b u v z t k s
  | .mmaI4i4 a b u v z t k => Sys2Proof.Machine.execMmaI4i4 a b u v z t k s
  | .mmaI8q8 a b u v z t k => Sys2Proof.Machine.execMmaI8q8 a b u v z t k s
  | .mmaI8q4 a b u v z t k => Sys2Proof.Machine.execMmaI8q4 a b u v z t k s
  | .mmaI4q4 a b u v z t k => Sys2Proof.Machine.execMmaI4q4 a b u v z t k s
  | .mmaBf16 a b u v z t k => Sys2Proof.Machine.execMmaBf16 a b u v z t k s
  | .mmaF16 a b u v z t k => Sys2Proof.Machine.execMmaF16 a b u v z t k s
  | .mmbE4e4 f a b u v z t k => Sys2Proof.Machine.execMmbE4e4 f a b u v z t k s
  | .mmbE5e5 f a b u v z t k => Sys2Proof.Machine.execMmbE5e5 f a b u v z t k s
  | .mmbE3e3 f a b u v z t k => Sys2Proof.Machine.execMmbE3e3 f a b u v z t k s
  | .mmbE2e2 f a b u v z t k => Sys2Proof.Machine.execMmbE2e2 f a b u v z t k s
  | .ecfgMe e a b u v => Sys2Proof.Machine.execEcfgMe e a b u v s
  | .mdrain a b u v f k => Sys2Proof.Machine.execMdrain a b u v f k s
  | .mzero k => Sys2Proof.Machine.execMzero k s
  | .redslot d a b u v => Sys2Proof.Machine.execRedslot d a b u v s
  | .redput a b u v => Sys2Proof.Machine.execRedput a b u v s
  | .redget d a u => Sys2Proof.Machine.execRedget d a u s
  | .redfree a u => Sys2Proof.Machine.execRedfree a u s
  | .illegalWord word => Sys2Proof.Machine.execIllegalWord word s
  | .nop => Sys2Proof.Machine.execNop s
  | .endFiring => Sys2Proof.Machine.execEndFiring s
  | .retire => Sys2Proof.Machine.execRetire s
  | .cbar => Sys2Proof.Machine.execCbar s
  | .gbar => Sys2Proof.Machine.execGbar s
  | .snap => Sys2Proof.Machine.execSnap s
  | .vrelease => Sys2Proof.Machine.execVrelease s
  | .launchMessage vf => Sys2Proof.Machine.execLaunchMessage vf s
  | .placeRope vf => Sys2Proof.Machine.execPlaceRope vf s
  | .ropeStart rope => Sys2Proof.Machine.execRopeStart rope s
  | .startMessageReoffer rope actor => Sys2Proof.Machine.execStartMessageReoffer rope actor s
  | .firingStart at_ => Sys2Proof.Machine.execFiringStart at_ s
  | .messageInject at_ => Sys2Proof.Machine.execMessageInject at_ s
  | .messageOffer msg => Sys2Proof.Machine.execMessageOffer msg s
  | .messageAnswer msg => Sys2Proof.Machine.execMessageAnswer msg s
  | .budgetExpiry at_ => Sys2Proof.Machine.execBudgetExpiry at_ s
  | .valueArrival at_ prod => Sys2Proof.Machine.execValueArrival at_ prod s
  | .delayExpiry at_ => Sys2Proof.Machine.execDelayExpiry at_ s
  | .storeDrain at_ => Sys2Proof.Machine.execStoreDrain at_ s
  | .ldwSatisfy at_ prod => Sys2Proof.Machine.execLdwSatisfy at_ prod s
  | .copyJobStart cl job => Sys2Proof.Machine.execCopyJobStart cl job s
  | .copyJobDone cl job => Sys2Proof.Machine.execCopyJobDone cl job s
  | .streamDeliver cl job => Sys2Proof.Machine.execStreamDeliver cl job s
  | .tourJobStart cl job => Sys2Proof.Machine.execTourJobStart cl job s
  | .hitch tour => Sys2Proof.Machine.execHitch tour s
  | .hitchReport cl job => Sys2Proof.Machine.execHitchReport cl job s
  | .arrivalReoffer tour => Sys2Proof.Machine.execArrivalReoffer tour s
  | .holdExpiry tour => Sys2Proof.Machine.execHoldExpiry tour s
  | .tileOnward tour => Sys2Proof.Machine.execTileOnward tour s
  | .completionReoffer cl entry => Sys2Proof.Machine.execCompletionReoffer cl entry s
  | .tourSlotScrubDone cl slot => Sys2Proof.Machine.execTourSlotScrubDone cl slot s
  | .stepStart cl => Sys2Proof.Machine.execStepStart cl s
  | .scaleWrite cl step => Sys2Proof.Machine.execScaleWrite cl step s
  | .stepComplete cl step => Sys2Proof.Machine.execStepComplete cl step s
  | .sequencerCommit upd => Sys2Proof.Machine.execSequencerCommit upd s
  | .waitaWake at_ => Sys2Proof.Machine.execWaitaWake at_ s
  | .waitaTimeout at_ => Sys2Proof.Machine.execWaitaTimeout at_ s
  | .clusterBarrierComplete rope strand => Sys2Proof.Machine.execClusterBarrierComplete rope strand s
  | .barrierTreeComplete rope => Sys2Proof.Machine.execBarrierTreeComplete rope s
  | .notifyReoffer die entry => Sys2Proof.Machine.execNotifyReoffer die entry s
  | .routeSwap who net routes => Sys2Proof.Machine.execRouteSwap who net routes s
  | .routeSwapActivate net => Sys2Proof.Machine.execRouteSwapActivate net s
  | .limiterRefill part cl => Sys2Proof.Machine.execLimiterRefill part cl s
  | .redslotServe cl => Sys2Proof.Machine.execRedslotServe cl s
  | .contributionArrival cl pkt => Sys2Proof.Machine.execContributionArrival cl pkt s
  | .redgetServe cl req => Sys2Proof.Machine.execRedgetServe cl req s
  | .redfreeServe cl req => Sys2Proof.Machine.execRedfreeServe cl req s
  | .remoteWriteData ctx xfer total compl va data => Sys2Proof.Machine.execRemoteWriteData ctx xfer total compl va data s
  | .remoteWriteCompletion xfer => Sys2Proof.Machine.execRemoteWriteCompletion xfer s
  | .trapMessageReoffer at_ => Sys2Proof.Machine.execTrapMessageReoffer at_ s
  | .trapAbort reply => Sys2Proof.Machine.execTrapAbort reply s
  | .trapResume reply => Sys2Proof.Machine.execTrapResume reply s
  | .trapRetry reply => Sys2Proof.Machine.execTrapRetry reply s
  | .trapReplace reply => Sys2Proof.Machine.execTrapReplace reply s
  | .trapwaitExpiry at_ => Sys2Proof.Machine.execTrapwaitExpiry at_ s
  | .tscMissRequest cl => Sys2Proof.Machine.execTscMissRequest cl s
  | .tscWalkDone cl walk => Sys2Proof.Machine.execTscWalkDone cl walk s
  | .faultRetry reply => Sys2Proof.Machine.execFaultRetry reply s
  | .faultDeny reply => Sys2Proof.Machine.execFaultDeny reply s
  | .faultEmulated reply => Sys2Proof.Machine.execFaultEmulated reply s
  | .shootdown req cl => Sys2Proof.Machine.execShootdown req cl s
  | .sliceEnd part => Sys2Proof.Machine.execSliceEnd part s
  | .switchSlice who part => Sys2Proof.Machine.execSwitchSlice who part s
  | .switchSave part => Sys2Proof.Machine.execSwitchSave part s
  | .restore part => Sys2Proof.Machine.execRestore part s
  | .spillRingDrain at_ slot port => Sys2Proof.Machine.execSpillRingDrain at_ slot port s
  | .gangStop part => Sys2Proof.Machine.execGangStop part s
  | .halt who part => Sys2Proof.Machine.execHalt who part s
  | .release who part vfs => Sys2Proof.Machine.execRelease who part vfs s
  | .managementSnapshot who part => Sys2Proof.Machine.execManagementSnapshot who part s
  | .snapshotRead who at_ => Sys2Proof.Machine.execSnapshotRead who at_ s
  | .telemetryFrame frame => Sys2Proof.Machine.execTelemetryFrame frame s
  | .framesStale => Sys2Proof.Machine.execFramesStale s
  | .safeMaskWithdraw => Sys2Proof.Machine.execSafeMaskWithdraw s
  | .shedDeadline rope => Sys2Proof.Machine.execShedDeadline rope s
  | .classRestore cls => Sys2Proof.Machine.execClassRestore cls s
  | .currentWindow loads => Sys2Proof.Machine.execCurrentWindow loads s
  | .meterWindow part energy => Sys2Proof.Machine.execMeterWindow part energy s
  | .idleLowRail cl => Sys2Proof.Machine.execIdleLowRail cl s
  | .railSwitch cl => Sys2Proof.Machine.execRailSwitch cl s
  | .stackSample die celsius => Sys2Proof.Machine.execStackSample die celsius s
  | .ropeRetire rope => Sys2Proof.Machine.execRopeRetire rope s
  | .endCable who vf cable => Sys2Proof.Machine.execEndCable who vf cable s
  | .query who vf cable => Sys2Proof.Machine.execQuery who vf cable s
  | .attest who request => Sys2Proof.Machine.execAttest who request s
  | .packageReset => Sys2Proof.Machine.execPackageReset s
  | .recoveryImageLoad who img => Sys2Proof.Machine.execRecoveryImageLoad who img s
  | .firmwareWrite who img raise => Sys2Proof.Machine.execFirmwareWrite who img raise s
  | .partitionDefine who part base len barctx => Sys2Proof.Machine.execPartitionDefine who part base len barctx s
  | .vfCreate who vf part => Sys2Proof.Machine.execVfCreate who vf part s
  | .meshrateWrite who part rate burst => Sys2Proof.Machine.execMeshrateWrite who part rate burst s
  | .vfctlWrite who vf value => Sys2Proof.Machine.execVfctlWrite who vf value s
  | .endpointTableWrite who vf index entry => Sys2Proof.Machine.execEndpointTableWrite who vf index entry s
  | .shadowRootWrite who vf pa => Sys2Proof.Machine.execShadowRootWrite who vf pa s
  | .droopConfigWrite who index value => Sys2Proof.Machine.execDroopConfigWrite who index value s
  | .voteWrite who part die mv => Sys2Proof.Machine.execVoteWrite who part die mv s
  | .allotWrite who part watts => Sys2Proof.Machine.execAllotWrite who part watts s
  | .dramShareWrite who part die percent => Sys2Proof.Machine.execDramShareWrite who part die percent s
  | .slopeWrite who down up => Sys2Proof.Machine.execSlopeWrite who down up s
  | .packetCounterRead who => Sys2Proof.Machine.execPacketCounterRead who s
  | .appliedAtHome upd => Sys2Proof.Machine.execAppliedAtHome upd s
  | .mdrainWritesApplied at_ => Sys2Proof.Machine.execMdrainWritesApplied at_ s
  | .faultAnswerTimeout cl walk => Sys2Proof.Machine.execFaultAnswerTimeout cl walk s
  | .icacheMissFill at_ => Sys2Proof.Machine.execIcacheMissFill at_ s
  | .deliveryContextAssign who ctx vf entropy => Sys2Proof.Machine.execDeliveryContextAssign who ctx vf entropy s
  | .droppedPacket reason => Sys2Proof.Machine.execDroppedPacket reason s

end Sys2Proof.Machine
end

