-- ==== Sys2Proof/Machine/Step.lean ====
section
/-! DEFINITION. One step of the machine: the head of the agenda, or a turn of the core whose turn it is (log entry 2); and the
placing of one instruction where the next step fetches. -/

namespace Sys2Proof.Machine

/-- One core cycle of a core: a firing that is running and waits for nothing issues the instruction at its program counter. A `delay` that is over ends first (R128). -/
def coreTurn (c : CoreId) (s : State) : Out :=
  if 256 ≤ c.cluster ∨ 8 < c.core then .fault .noSuchCore else
  let s := { s with cur := c }.wakeDelay c
  match s.before c with
  | .inl t => .next t
  | .inr w => afterInstr c s (exec (decodeWord w) s)

/-- Runs one turn of the agenda. -/
def turn (t : Turn) (s : State) : Out :=
  match t with
  | .core c => coreTurn c s
  | .event e => exec e s
  | other => .next (s.outside other)

/-- The step. -/
def step (s : State) : Host.Outcome State Fault Refusal :=
  match s.agenda with
  | t :: r => turn t { s with agenda := r }
  | [] => coreTurn s.cur s

/-- The state with an instruction where the next step fetches it: a loaded text that holds it (R45), a rope of that image, and a firing of its
one actor on core 0 of the cluster at Hilbert index 0, at offset 0 and with its whole budget, whose turn it is (log entry 4). -/
def State.withFetchWord (s : State) (nbits w : Nat) : State :=
  s.withFiring (wordBytes (.ofNat 32 (w % 2 ^ nbits)))

end Sys2Proof.Machine
end

