-- ==== Sys2Proof/Safety.lean ====
section
/-! DEFINITION. The terms that the statements are written in: when an instruction executes normally, how its sources are read, and what a step
leaves as it was. -/

namespace Sys2Proof.Machine

/-! ## When an instruction executes normally -/

/-- What R52, R53, R115, R116, R223, R268 and R342 ask of an instruction at issue: no earlier instruction of the firing has stopped issue, every source
is full and its scale, late value and granule written, no source holds an uncorrectable error, and every destination takes a write. -/
structure State.Issues (s : State) (c : CoreId) (srcs : List Src) (dests : List Reg) : Prop where
  running : (s.core c).wait = .none
  going : (s.core c).stopped = false
  full : ∀ q ∈ srcs, s.availSrc c srcs q = .full
  scaled : ∀ q ∈ srcs, (s.core c).scalePending q.reg = false
  settled : ∀ q ∈ srcs, (s.core c).latePending q.reg = false
  granule : ∀ q ∈ srcs, s.granuleBusy c q.reg = false
  sound : ∀ q ∈ srcs, (s.core c).regs.isBad q.reg = false
  room : ∀ g ∈ dests, s.destTest c g = .go

/-- Reads the x sources of an instruction in the order of its fields (R52, R53): their words, and the state after the reads. -/
def State.takeAll (s : State) (c : CoreId) : List Src → List Word64 × State
  | [] => ([], s)
  | q :: r =>
    match q.reg with
    | .x n => ((s.takeX c n).1 :: ((s.takeX c n).2.takeAll c r).1, ((s.takeX c n).2.takeAll c r).2)
    | _ => s.takeAll c r

/-- The words of the sources. -/
def State.operands (s : State) (c : CoreId) (srcs : List Src) : List Word64 := (s.takeAll c srcs).1

/-- The state in which the sources have been read: bound port registers have given up their words. -/
def State.afterReads (s : State) (c : CoreId) (srcs : List Src) : State := (s.takeAll c srcs).2

/-- The nth word of a list of operands. -/
def nth (ws : List Word64) (n : Nat) : Word64 := ws[n]?.getD 0

/-! ## What stays -/

/-- Everything of the machine but memory, cores and tours stands as it was. -/
structure State.SameOutside (s t : State) : Prop where
  now : t.now = s.now
  clusters : t.clusters = s.clusters
  texts : t.texts = s.texts
  ropes : t.ropes = s.ropes
  cables : t.cables = s.cables
  vfs : t.vfs = s.vfs
  parts : t.parts = s.parts
  flying : t.flying = s.flying
  sequencer : t.sequencer = s.sequencer
  flight : t.flight = s.flight
  answers : t.answers = s.answers
  notices : t.notices = s.notices
  heldTraps : t.heldTraps = s.heldTraps
  sysReqs : t.sysReqs = s.sysReqs
  transfers : t.transfers = s.transfers
  routes : t.routes = s.routes
  power : t.power = s.power
  boot : t.boot = s.boot
  dropped : t.dropped = s.dropped
  contexts : t.contexts = s.contexts
  corrected : t.corrected = s.corrected
  hostOut : t.hostOut = s.hostOut

/-- The registers of a firing, but for one x, f, c or v register at most, its full/empty bit and error mark, the program counter and the bindings. -/
structure Regs.SameBut (r q : Regs) (g : Option Reg) : Prop where
  x : ∀ n, g ≠ some (.x n) → q.readX n = r.readX n
  f : ∀ n, g ≠ some (.f n) → q.readF n = r.readF n
  c : ∀ n, g ≠ some (.c n) → q.readC n = r.readC n
  v : ∀ n, g ≠ some (.v n) → q.readV n = r.readV n
  empty : ∀ h, g ≠ some h → q.isEmpty h = r.isEmpty h
  masks : q.m = r.m
  copyRegs : q.ce = r.ce
  matrixRegs : q.me = r.me
  flags : q.flags = r.flags
  enable : q.enable = r.enable
  rounding : q.rm = r.rm
  saturation : q.sat8 = r.sat8
  lanes : q.lanes = r.lanes
  length : q.vl = r.vl

/-- What an instruction of the core whose turn it is leaves as it was, but for one register: the machine outside the cores, the tours, the registers of the firing
and of every other core, and all of memory but the granule that a `cap` message is received into as a port register is read (R268). -/
structure State.Kept (s t : State) (g : Option Reg) : Prop where
  outside : s.SameOutside t
  tours : t.tours = s.tours
  regs : (s.core s.cur).regs.SameBut (t.core s.cur).regs g
  memory : ∀ a, a < (s.core s.cur).curSlot.granule s.cur ∨ (s.core s.cur).curSlot.granule s.cur + 16 ≤ a → t.mem.byte a = s.mem.byte a
  others : ∀ c, CoreId.key c ≠ CoreId.key s.cur → (t.core c).regs = (s.core c).regs

end Sys2Proof.Machine
end

