-- ==== Sys2Proof/Safety/Scalar.lean ====
section
/-! DEFINITION. What the spec's tables say of the instructions whose whole effect is one register's new value. -/

namespace Sys2Proof.Machine

/-- An instruction whose effect is the new value of one register: its sources in the order of its fields, its destination, and the value, from the
registers of the firing and the words read from the x sources. -/
structure RegForm where
  srcs : List Src
  dest : Reg
  value : Regs → List Word64 → Value

/-- Two x sources under w1 and w2, and an x result (R117, R118). -/
def xForm2 (d a b : BitVec 5) (u v : Bool) (f : Word64 → Word64 → Word64) : RegForm :=
  ⟨[⟨.x a, u⟩, ⟨.x b, v⟩], .x d, fun _ w => .word (f (nth w 0) (nth w 1))⟩

/-- One x source under w1, and an x result. -/
def xForm1 (d a : BitVec 5) (u : Bool) (f : Word64 → Word64) : RegForm := ⟨[⟨.x a, u⟩], .x d, fun _ w => .word (f (nth w 0))⟩

/-- 1 if a relation holds, else 0. -/
def truth (p : Prop) [Decidable p] : Word64 := if p then 1 else 0

/-- The value of bits [5:0] of an operand, a shift's amount (Table 04-6). -/
def amount (y : Word64) : Nat := y.toNat % 64

/-- The bytes of a word, least significant first. -/
def bytesOf (x : Word64) : List Byte :=
  [x.extractLsb' 0 8, x.extractLsb' 8 8, x.extractLsb' 16 8, x.extractLsb' 24 8, x.extractLsb' 32 8, x.extractLsb' 40 8, x.extractLsb' 48 8,
    x.extractLsb' 56 8]

/-- A bit field of `w` bits at a place; bits beyond bit 63 read zero (R120). -/
def fieldAt (x : Word64) (pos w : Nat) : Nat := x.toNat / 2 ^ pos % 2 ^ w

/-- A field as a number in two's complement. -/
def signedField (n w : Nat) : Int := if n < 2 ^ (w - 1) then n else (n : Int) - 2 ^ w

/-- The scalar integer instructions: Tables 04-6 to 04-8 and R118 to R124. -/
def integerForm : Instr → Option RegForm
  | .add d a b u v => some (xForm2 d a b u v fun x y => .ofInt 64 (x.toInt + y.toInt))
  | .sub d a b u v => some (xForm2 d a b u v fun x y => .ofInt 64 (x.toInt - y.toInt))
  | .mul d a b u v => some (xForm2 d a b u v fun x y => .ofInt 64 (x.toInt * y.toInt))
  | .mulh d a b u v => some (xForm2 d a b u v fun x y => .ofInt 64 (x.toInt * y.toInt / 2 ^ 64))
  | .mulhn d a b u v => some (xForm2 d a b u v fun x y => .ofNat 64 (x.toNat * y.toNat / 2 ^ 64))
  | .div d a b u v => some (xForm2 d a b u v fun x y =>
      if y = 0 then BitVec.allOnes 64 else if x.toInt = -2 ^ 63 ∧ y.toInt = -1 then x else .ofInt 64 (x.toInt.tdiv y.toInt))
  | .divn d a b u v => some (xForm2 d a b u v fun x y => if y = 0 then BitVec.allOnes 64 else .ofNat 64 (x.toNat / y.toNat))
  | .rem d a b u v => some (xForm2 d a b u v fun x y =>
      if y = 0 then x else if x.toInt = -2 ^ 63 ∧ y.toInt = -1 then 0 else .ofInt 64 (x.toInt.tmod y.toInt))
  | .remn d a b u v => some (xForm2 d a b u v fun x y => if y = 0 then x else .ofNat 64 (x.toNat % y.toNat))
  | .and d a b u v => some (xForm2 d a b u v fun x y => x &&& y)
  | .or d a b u v => some (xForm2 d a b u v fun x y => x ||| y)
  | .xor d a b u v => some (xForm2 d a b u v fun x y => x ^^^ y)
  | .andn d a b u v => some (xForm2 d a b u v fun x y => x &&& ~~~y)
  | .shl d a b u v => some (xForm2 d a b u v fun x y => .ofNat 64 (x.toNat * 2 ^ amount y))
  | .shr d a b u v => some (xForm2 d a b u v fun x y => .ofNat 64 (x.toNat / 2 ^ amount y))
  | .sra d a b u v => some (xForm2 d a b u v fun x y => .ofInt 64 (x.toInt / 2 ^ amount y))
  | .rot d a b u v => some (xForm2 d a b u v fun x y => x.rotateRight (amount y))
  | .slt d a b u v => some (xForm2 d a b u v fun x y => truth (x.toInt < y.toInt))
  | .sltn d a b u v => some (xForm2 d a b u v fun x y => truth (x.toNat < y.toNat))
  | .min d a b u v => some (xForm2 d a b u v fun x y => if y.toInt ≤ x.toInt then y else x)
  | .max d a b u v => some (xForm2 d a b u v fun x y => if x.toInt ≤ y.toInt then y else x)
  | .minn d a b u v => some (xForm2 d a b u v fun x y => if y.toNat ≤ x.toNat then y else x)
  | .maxn d a b u v => some (xForm2 d a b u v fun x y => if x.toNat ≤ y.toNat then y else x)
  | .clz d a u => some (xForm1 d a u fun x => .ofNat 64 ((List.range 64).takeWhile fun i => !x.getLsbD (63 - i)).length)
  | .ctz d a u => some (xForm1 d a u fun x => .ofNat 64 ((List.range 64).takeWhile fun i => !x.getLsbD i).length)
  | .popc d a u => some (xForm1 d a u fun x => .ofNat 64 ((List.range 64).countP fun i => x.getLsbD i))
  | .bswap d a u => some (xForm1 d a u fun x => .ofNat 64 (leNat (bytesOf x).reverse))
  | .bfx d a b u v => some (xForm2 d a b u v fun x y =>
      let w := fieldAt y 8 6 + 1
      let n := fieldAt x (fieldAt y 0 6) w
      if y.getLsbD 16 then .ofInt 64 (signedField n w) else .ofNat 64 n)
  | .bfi d a b u v => some ⟨[⟨.x a, u⟩, ⟨.x b, v⟩, ⟨.x d, false⟩], .x d, fun _ w => .word (
      let x := nth w 0
      let y := nth w 1
      let pos := fieldAt y 0 6
      let mask : Word64 := .ofNat 64 ((2 ^ (fieldAt y 8 6 + 1) - 1) * 2 ^ pos)
      (nth w 2 &&& ~~~mask) ||| (.ofNat 64 (x.toNat * 2 ^ pos) &&& mask))⟩
  | .addi d a u imm => some (xForm1 d a u fun x => .ofInt 64 (x.toInt + imm.toInt))
  | .andi d a u imm => some (xForm1 d a u fun x => x &&& .ofInt 64 imm.toInt)
  | .ori d a u imm => some (xForm1 d a u fun x => x ||| .ofInt 64 imm.toInt)
  | .xori d a u imm => some (xForm1 d a u fun x => x ^^^ .ofInt 64 imm.toInt)
  | .slti d a u imm => some (xForm1 d a u fun x => truth (x.toInt < imm.toInt))
  | .sltni d a u imm => some (xForm1 d a u fun x => truth (x.toNat < (BitVec.ofInt 64 imm.toInt).toNat))
  | .shli d a u amt => some (xForm1 d a u fun x => .ofNat 64 (x.toNat * 2 ^ amt.toNat))
  | .shri d a u amt => some (xForm1 d a u fun x => .ofNat 64 (x.toNat / 2 ^ amt.toNat))
  | .srai d a u amt => some (xForm1 d a u fun x => .ofInt 64 (x.toInt / 2 ^ amt.toNat))
  | .roti d a u amt => some (xForm1 d a u fun x => x.rotateRight amt.toNat)
  | .lih d imm => some ⟨[], .x d, fun _ _ => .word (.ofInt 64 (imm.toInt * 2 ^ 15))⟩
  | _ => none

/-- The capability instructions that read one, and those that derive one without a check: Table 05-4, R145 and R146. -/
def capabilityForm : Instr → Option RegForm
  | .cbase d c u => some ⟨[⟨.c c, u⟩], .x d, fun r _ => .word (.ofNat 64 (r.readC c).base.toNat)⟩
  | .clen d c u => some ⟨[⟨.c c, u⟩], .x d, fun r _ => .word (.ofNat 64 ((r.readC c).mant.toNat * 2 ^ (r.readC c).exp.toNat))⟩
  | .ccur d c u => some ⟨[⟨.c c, u⟩], .x d, fun r _ => .word (.ofNat 64 (r.readC c).cursor.toNat)⟩
  | .cprm d c u => some ⟨[⟨.c c, u⟩], .x d, fun r _ => .word (.ofNat 64 ((r.readC c).perm.toNat + 16 * (r.readC c).space.toNat))⟩
  | .ctag d c u => some ⟨[⟨.c c, u⟩], .x d, fun r _ => .word (truth ((r.readC c).tag = true))⟩
  | .cmov d c u => some ⟨[⟨.c c, u⟩], .c d, fun r _ => .cap (r.readC c)⟩
  | .cclr d c u => some ⟨[⟨.c c, u⟩], .c d, fun r _ => .cap { r.readC c with tag := false }⟩
  | .cadd d c b u v => some ⟨[⟨.c c, u⟩, ⟨.x b, v⟩], .c d, fun r w =>
      .cap { r.readC c with cursor := .ofInt 52 ((r.readC c).cursor.toNat + (nth w 0).toInt) }⟩
  | .cset d c b u v => some ⟨[⟨.c c, u⟩, ⟨.x b, v⟩], .c d, fun r w =>
      .cap { r.readC c with cursor := .ofNat 52 ((r.readC c).base.toNat + (nth w 0).toNat) }⟩
  | .cperm d c b u v => some ⟨[⟨.c c, u⟩, ⟨.x b, v⟩], .c d, fun r w =>
      .cap { r.readC c with perm := (r.readC c).perm &&& (nth w 0).extractLsb' 0 4 }⟩
  | _ => none

/-- Moves between the register files, and reads of a vector or a mask into an x register (R205, R206, R213, R215). -/
def moveForm : Instr → Option RegForm
  | .fclass d a u t => some ⟨[⟨.f a, u⟩], .x d, fun r _ =>
      .word (.ofNat 64 ((scalarFmt t).classOf ((scalarFmt t).value (r.bitsF (scalarFmt t) a))))⟩
  | .fmvx d a u => some ⟨[⟨.f a, u⟩], .x d, fun r _ => .word (r.readF a)⟩
  | .fmvf d a u => some ⟨[⟨.x a, u⟩], .f d, fun _ w => .word (nth w 0)⟩
  | .vext d a b => some ⟨[⟨.v a, false⟩, ⟨.x b, false⟩], .x d, fun r w =>
      .word (if (nth w 0).toNat < 128 then .ofNat 64 ((r.readV a).toNat / 2 ^ (32 * (nth w 0).toNat) % 2 ^ 32) else 0)⟩
  | .mpopc d a => some ⟨[⟨.m a, false⟩], .x d, fun r _ => .word (.ofNat 64 ((List.range r.vl).countP fun i => (r.readM a).getLsbD i))⟩
  | .mfirst d a => some ⟨[⟨.m a, false⟩], .x d, fun r _ =>
      .word (match (List.range r.vl).find? fun i => (r.readM a).getLsbD i with | some i => .ofNat 64 i | none => BitVec.allOnes 64)⟩
  | _ => none

/-- The instruction of this form completes: its destination gets the value, and the program counter moves on, in one core cycle. -/
def CompletesAs (i : Instr) (f : RegForm) (s : State) : Prop :=
  exec i s = .next (((s.afterReads s.cur f.srcs).putReg s.cur f.dest
    (f.value ((s.afterReads s.cur f.srcs).core s.cur).regs (s.operands s.cur f.srcs))).advance s.cur)

end Sys2Proof.Machine
end

