-- ==== Sys2Proof/Safety/Float.lean ====
section
/-! DEFINITION. What the spec's tables say of the scalar floating-point instructions and the conversions to and from a scalar: the result and the events. -/

namespace Sys2Proof.Machine

/-- An instruction that can raise events: its sources, its destination, and the result with its events (R199, R200). -/
structure FpForm where
  srcs : List Src
  dest : Reg
  result : Regs → List Word64 → FpDefault × Events

/-- Two f sources of a format and an f result, boxed (R176, R202). -/
def fForm2 (d a b : BitVec 5) (u v : Bool) (t : BitVec 2) (op : Fmt → Rnd → FVal → FVal → Exact) : FpForm :=
  ⟨[⟨.f a, u⟩, ⟨.f b, v⟩], .f d, fun r _ =>
    let f := scalarFmt t
    let z := f.round r.rnd (op f r.rnd (f.value (r.bitsF f a)) (f.value (r.bitsF f b)))
    (.f d (f.box z.1), z.2)⟩

/-- The same for an operation on the bits of the operands (R204). -/
def fFormBits (d a b : BitVec 5) (u v : Bool) (t : BitVec 2) (op : Fmt → Nat → Nat → Nat × Events) : FpForm :=
  ⟨[⟨.f a, u⟩, ⟨.f b, v⟩], .f d, fun r _ =>
    let f := scalarFmt t
    let z := op f (r.bitsF f a) (r.bitsF f b)
    (.f d (f.box z.1), z.2)⟩

/-- A comparison: 1 or 0 in an x register (R205). -/
def fFormCompare (d a b : BitVec 5) (u v : Bool) (t : BitVec 2) (op : FVal → FVal → Bool × Events) : FpForm :=
  ⟨[⟨.f a, u⟩, ⟨.f b, v⟩], .x d, fun r _ =>
    let f := scalarFmt t
    let z := op (f.value (r.bitsF f a)) (f.value (r.bitsF f b))
    (.x d (truth (z.1 = true)), z.2)⟩

/-- A fused form: ±(f1 × f2) ± f3, rounded once (R207). -/
def fFormFused (d a b c : BitVec 5) (t : BitVec 2) (negP negC : Bool) : FpForm :=
  ⟨[⟨.f a, false⟩, ⟨.f b, false⟩, ⟨.f c, false⟩], .f d, fun r _ =>
    let f := scalarFmt t
    let z := f.round r.rnd (fmaVal r.rm.toNat negP negC (f.value (r.bitsF f a)) (f.value (r.bitsF f b)) (f.value (r.bitsF f c)))
    (.f d (f.box z.1), z.2)⟩

/-- The sign bit of a format (R175). -/
def signBit (f : Fmt) : Nat := 2 ^ (f.exp + f.man)

/-- The scalar floating-point instructions (R203 to R205, R207) and `cvt` in its scalar form (R219). -/
def floatForm : Instr → Option FpForm
  | .fadd d a b u v t => some (fForm2 d a b u v t fun _ c x y => addVal c.rm x y)
  | .fsub d a b u v t => some (fForm2 d a b u v t fun _ c x y => addVal c.rm x y.flip)
  | .fmul d a b u v t => some (fForm2 d a b u v t fun _ _ x y => mulVal x y)
  | .fdiv d a b u v t => some (fForm2 d a b u v t fun _ _ x y => divVal x y)
  | .fsqrt d a u t => some ⟨[⟨.f a, u⟩], .f d, fun r _ =>
      let f := scalarFmt t
      let z := f.round r.rnd (sqrtVal (f.value (r.bitsF f a)))
      (.f d (f.box z.1), z.2)⟩
  | .fmin d a b u v t => some (fFormBits d a b u v t fun f x y => f.minMax false false x y)
  | .fmax d a b u v t => some (fFormBits d a b u v t fun f x y => f.minMax true false x y)
  | .fminn d a b u v t => some (fFormBits d a b u v t fun f x y => f.minMax false true x y)
  | .fmaxn d a b u v t => some (fFormBits d a b u v t fun f x y => f.minMax true true x y)
  | .fabs d a u t => some ⟨[⟨.f a, u⟩], .f d, fun r _ =>
      let f := scalarFmt t
      (.f d (f.box (r.bitsF f a % signBit f)), 0)⟩
  | .fneg d a u t => some ⟨[⟨.f a, u⟩], .f d, fun r _ =>
      let f := scalarFmt t
      let x := r.bitsF f a
      (.f d (f.box (if x.testBit (f.exp + f.man) then x % signBit f else x % signBit f + signBit f)), 0)⟩
  | .feq d a b u v t => some (fFormCompare d a b u v t cmpEq)
  | .flt d a b u v t => some (fFormCompare d a b u v t cmpLt)
  | .fle d a b u v t => some (fFormCompare d a b u v t cmpLe)
  | .fmadd d a b c t => some (fFormFused d a b c t false false)
  | .fmsub d a b c t => some (fFormFused d a b c t false true)
  | .fnmsub d a b c t => some (fFormFused d a b c t true false)
  | .fnmadd d a b c t => some (fFormFused d a b c t true true)
  | .cvtScalarForm d a b u v p q =>
    let from_ := kindOfCode q
    let dst := kindOfCode p
    some ⟨⟨if from_.isInt then .x a else .f a, u⟩ :: scaleSrc b v, if dst.isInt then .x d else .f d, fun r w =>
      let z := convert r.rnd (from_.value (from_.unbox (if from_.isInt then nth w 0 else r.readF a))) (r.scale b) dst
      (match dst with
        | .int signed n => .x d (if signed then .ofInt 64 (signedField (z.1 % 2 ^ n) n) else .ofNat 64 z.1)
        | k => .f d (boxedTo k.width z.1), z.2)⟩
  | _ => none

/-- The instruction completes: its events are set in FPFLAGS, its result is written, and the program counter moves on. -/
def CompletesFp (i : Instr) (f : FpForm) (s : State) : Prop :=
  let t := s.afterReads s.cur f.srcs
  let z := f.result (t.core s.cur).regs (s.operands s.cur f.srcs)
  exec i s = .next (((t.modRegs s.cur fun r => { r with flags := r.flags ||| z.2 }).writeResult s.cur z.1 true).advance s.cur)

/-- The instruction traps FPX: its events are set in FPFLAGS, no result is written, and the result waits for a RESUME (R200, R201). -/
def TrapsFpx (i : Instr) (f : FpForm) (s : State) : Prop :=
  let t := s.afterReads s.cur f.srcs
  let z := f.result (t.core s.cur).regs (s.operands s.cur f.srcs)
  exec i s = .next ((((t.modRegs s.cur fun r => { r with flags := r.flags ||| z.2 }).modCore s.cur
    fun k => { k with fpDefault := z.1 })).trapHere s.cur .fpx (fpxDetail z.2 z.1 0))

/-- Whether an event that FPENABLE names is raised. -/
def FpForm.raises (f : FpForm) (s : State) : Prop :=
  (f.result ((s.afterReads s.cur f.srcs).core s.cur).regs (s.operands s.cur f.srcs)).2 &&&
    ((s.afterReads s.cur f.srcs).core s.cur).regs.enable ≠ 0

end Sys2Proof.Machine
end

