-- ==== Sys2Proof/Safety/Vector.lean ====
section
/-! DEFINITION. What the spec's tables say of the vector instructions on registers: which elements they write, and what they hold then. -/

namespace Sys2Proof.Machine

/-- An instruction that writes 32-bit elements of a vector register: its sources, its destination, the elements it writes, ascending, and their
values (R196, R197). -/
structure VecForm where
  srcs : List Src
  dest : BitVec 5
  active : Regs → List Word64 → List Nat
  elem : Regs → List Word64 → Nat → Nat

/-- An instruction that writes a mask register (R211, R215). -/
structure MaskForm where
  srcs : List Src
  dest : BitVec 3
  value : Regs → List Word64 → BitVec 128
  /-- Whether it writes all 128 bits. -/
  whole : Regs → Bool

/-- A vector floating-point instruction: the elements that it writes with their values and events, and whether they are 64 bits wide (R209, R210). -/
structure VecFpForm where
  srcs : List Src
  dest : BitVec 5
  wide : Bool
  results : Regs → List Word64 → List (Nat × Nat × Events)

/-- Element i of a vector register, as a 32-bit pattern (R196). -/
def Regs.lane (r : Regs) (a : BitVec 5) (i : Nat) : BitVec 32 := .ofNat 32 ((r.readV a).toNat / 2 ^ (32 * i))

/-- Element i of the second operand: of a vector register, or in the scalar form the low 32 bits of an x register (R208). -/
def Regs.lane2 (r : Regs) (b : BitVec 5) (scalar : Bool) (x : Word64) (i : Nat) : BitVec 32 :=
  if scalar then x.extractLsb' 0 32 else r.lane b i

/-- A vector integer operation (R208). -/
def vForm2 (d a b : BitVec 5) (m : BitVec 3) (scalar : Bool) (f : BitVec 32 → BitVec 32 → BitVec 32) : VecForm :=
  ⟨[⟨.v a, false⟩, vecSecond b scalar] ++ maskSrc m, d, fun r _ => (List.range r.vl).filter (r.isActive m),
    fun r w i => (f (r.lane a i) (r.lane2 b scalar (nth w 0) i)).toNat⟩

/-- A vector integer comparison (R211): the bits of inactive elements stand. -/
def vFormCompare (d : BitVec 3) (a b : BitVec 5) (m : BitVec 3) (scalar : Bool) (f : BitVec 32 → BitVec 32 → Bool) : MaskForm :=
  ⟨[⟨.v a, false⟩, vecSecond b scalar] ++ maskSrc m, d, fun r w =>
    ((List.range r.vl).filter (r.isActive m)).foldl (fun k i => setBit k i (f (r.lane a i) (r.lane2 b scalar (nth w 0) i))) (r.readM d),
    fun r => ((List.range r.vl).filter (r.isActive m)).length == 128⟩

/-- A number held between two bounds. -/
def held (lo hi n : Int) : Int := if n < lo then lo else if hi < n then hi else n

/-- An amount in bits [4:0] (R208). -/
def amount32 (y : BitVec 32) : Nat := y.toNat % 32

/-- The vector integer instructions (R208). -/
def vectorIntegerForm : Instr → Option VecForm
  | .vadd d a b m sz => some (vForm2 d a b m sz fun x y => .ofInt 32 (x.toInt + y.toInt))
  | .vsub d a b m sz => some (vForm2 d a b m sz fun x y => .ofInt 32 (x.toInt - y.toInt))
  | .vmul d a b m sz => some (vForm2 d a b m sz fun x y => .ofInt 32 (x.toInt * y.toInt))
  | .vmulh d a b m sz => some (vForm2 d a b m sz fun x y => .ofInt 32 (x.toInt * y.toInt / 2 ^ 32))
  | .vmulhn d a b m sz => some (vForm2 d a b m sz fun x y => .ofNat 32 (x.toNat * y.toNat / 2 ^ 32))
  | .vand d a b m sz => some (vForm2 d a b m sz fun x y => x &&& y)
  | .vor d a b m sz => some (vForm2 d a b m sz fun x y => x ||| y)
  | .vxor d a b m sz => some (vForm2 d a b m sz fun x y => x ^^^ y)
  | .vandn d a b m sz => some (vForm2 d a b m sz fun x y => x &&& ~~~y)
  | .vshl d a b m sz => some (vForm2 d a b m sz fun x y => .ofNat 32 (x.toNat * 2 ^ amount32 y))
  | .vshr d a b m sz => some (vForm2 d a b m sz fun x y => .ofNat 32 (x.toNat / 2 ^ amount32 y))
  | .vsra d a b m sz => some (vForm2 d a b m sz fun x y => .ofInt 32 (x.toInt / 2 ^ amount32 y))
  | .vmin d a b m sz => some (vForm2 d a b m sz fun x y => if y.toInt ≤ x.toInt then y else x)
  | .vmax d a b m sz => some (vForm2 d a b m sz fun x y => if x.toInt ≤ y.toInt then y else x)
  | .vminn d a b m sz => some (vForm2 d a b m sz fun x y => if y.toNat ≤ x.toNat then y else x)
  | .vmaxn d a b m sz => some (vForm2 d a b m sz fun x y => if x.toNat ≤ y.toNat then y else x)
  | .vadds d a b m sz => some (vForm2 d a b m sz fun x y => .ofInt 32 (held (-2 ^ 31) (2 ^ 31 - 1) (x.toInt + y.toInt)))
  | .vaddsn d a b m sz => some (vForm2 d a b m sz fun x y => .ofInt 32 (held 0 (2 ^ 32 - 1) ((x.toNat : Int) + y.toNat)))
  | .vsubs d a b m sz => some (vForm2 d a b m sz fun x y => .ofInt 32 (held (-2 ^ 31) (2 ^ 31 - 1) (x.toInt - y.toInt)))
  | .vsubsn d a b m sz => some (vForm2 d a b m sz fun x y => .ofInt 32 (held 0 (2 ^ 32 - 1) ((x.toNat : Int) - y.toNat)))
  | _ => none

/-- The mask instructions (R211, R215): comparisons write the bits of the active elements, the mask logic all 128. -/
def maskForm : Instr → Option MaskForm
  | .vseq d a b m sz => some (vFormCompare d a b m sz fun x y => x.toNat == y.toNat)
  | .vslt d a b m sz => some (vFormCompare d a b m sz fun x y => decide (x.toInt < y.toInt))
  | .vsltn d a b m sz => some (vFormCompare d a b m sz fun x y => decide (x.toNat < y.toNat))
  | .mand d a b => some ⟨[⟨.m a, false⟩, ⟨.m b, false⟩], d, fun r _ => r.readM a &&& r.readM b, fun _ => true⟩
  | .mor d a b => some ⟨[⟨.m a, false⟩, ⟨.m b, false⟩], d, fun r _ => r.readM a ||| r.readM b, fun _ => true⟩
  | .mxor d a b => some ⟨[⟨.m a, false⟩, ⟨.m b, false⟩], d, fun r _ => r.readM a ^^^ r.readM b, fun _ => true⟩
  | .mnot d a => some ⟨[⟨.m a, false⟩], d, fun r _ => ~~~r.readM a, fun _ => true⟩
  | _ => none

/-- The active elements below VL (R197). -/
def Regs.on (r : Regs) (m : BitVec 3) : List Nat := (List.range r.vl).filter (r.isActive m)

/-- An integer reduction (R213): element 0 takes it, unless VL is 0. -/
def vFormReduce (d a : BitVec 5) (m : BitVec 3) (start : BitVec 32) (f : BitVec 32 → BitVec 32 → BitVec 32) : VecForm :=
  ⟨⟨.v a, false⟩ :: maskSrc m, d, fun r _ => if r.vl = 0 then [] else [0], fun r _ _ => (((r.on m).map (r.lane a)).foldl f start).toNat⟩

/-- The moves, permutes and integer reductions (R213, R214). -/
def permuteForm : Instr → Option VecForm
  | .vmv d a m => some ⟨⟨.v a, false⟩ :: maskSrc m, d, fun r _ => r.on m, fun r _ i => (r.lane a i).toNat⟩
  | .vbcast d a m => some ⟨⟨.x a, false⟩ :: maskSrc m, d, fun r _ => r.on m, fun _ w _ => (nth w 0).toNat % 2 ^ 32⟩
  | .vbcastf d a m => some ⟨⟨.f a, false⟩ :: maskSrc m, d, fun r _ => r.on m, fun r _ _ => (r.readF a).toNat % 2 ^ 32⟩
  | .vslideup d a b m => some ⟨[⟨.v a, false⟩, ⟨.x b, false⟩] ++ maskSrc m, d, fun r w => (r.on m).filter fun i => decide ((nth w 0).toNat ≤ i),
      fun r w i => (r.lane a (i - (nth w 0).toNat)).toNat⟩
  | .vslidedn d a b m => some ⟨[⟨.v a, false⟩, ⟨.x b, false⟩] ++ maskSrc m, d, fun r _ => r.on m,
      fun r w i => if i + (nth w 0).toNat < r.vl then (r.lane a (i + (nth w 0).toNat)).toNat else 0⟩
  | .vgather d a b m => some ⟨[⟨.v a, false⟩, ⟨.v b, false⟩] ++ maskSrc m, d, fun r _ => r.on m,
      fun r _ i => if (r.lane b i).toNat < r.vl then (r.lane a (r.lane b i).toNat).toNat else 0⟩
  | .vcompress d a m => some ⟨⟨.v a, false⟩ :: maskSrc m, d, fun r _ => List.range r.vl,
      fun r _ i => match (r.on m)[i]? with | some j => (r.lane a j).toNat | none => 0⟩
  | .vexpand d a m => some ⟨⟨.v a, false⟩ :: maskSrc m, d, fun r _ => r.on m, fun r _ i => (r.lane a ((r.on m).countP fun j => decide (j < i))).toNat⟩
  | .vins d a b => some ⟨[⟨.x a, false⟩, ⟨.x b, false⟩, ⟨.v d, false⟩], d,
      fun _ w => if (nth w 1).toNat < 128 then [(nth w 1).toNat] else [], fun _ w _ => (nth w 0).toNat % 2 ^ 32⟩
  | .vredadd d a m => some (vFormReduce d a m 0 fun x y => .ofNat 32 (x.toNat + y.toNat))
  | .vredmin d a m => some (vFormReduce d a m 0x7FFFFFFF fun x y => if y.toInt ≤ x.toInt then y else x)
  | .vredmax d a m => some (vFormReduce d a m 0x80000000 fun x y => if x.toInt ≤ y.toInt then y else x)
  | .vredminn d a m => some (vFormReduce d a m 0xFFFFFFFF fun x y => if y.toNat ≤ x.toNat then y else x)
  | .vredmaxn d a m => some (vFormReduce d a m 0 fun x y => if x.toNat ≤ y.toNat then y else x)
  | _ => none

/-- The active elements of a format that is 64 bits wide or not (R196, R197). -/
def Regs.onWide (r : Regs) (m : BitVec 3) (t : BitVec 2) : List Nat :=
  (List.range (if t = 1 then r.vl / 2 else r.vl)).filter (r.isActive m)

/-- Element i of a vector register in a format (R196). -/
def Regs.flane (r : Regs) (a : BitVec 5) (t : BitVec 2) (i : Nat) : Nat :=
  (r.readV a).toNat / 2 ^ ((if t = 1 then 64 else 32) * i) % 2 ^ (vectorFmt t).width

/-- Element i of the second operand, or in the scalar form the f register in the format (R209). -/
def Regs.flane2 (r : Regs) (b : BitVec 5) (scalar : Bool) (t : BitVec 2) (i : Nat) : Nat :=
  if scalar then (vectorFmt t).unbox (r.readF b) else r.flane b t i

/-- An operation on two elements (R209). -/
def vfForm2 (d a b : BitVec 5) (m : BitVec 3) (scalar : Bool) (t : BitVec 2) (op : Fmt → Rnd → Nat → Nat → Nat × Events) : VecFpForm :=
  ⟨[⟨.v a, false⟩, vecSecondF b scalar] ++ maskSrc m, d, t == 1, fun r _ =>
    (r.onWide m t).map fun i => (i, op (vectorFmt t) r.rnd (r.flane a t i) (r.flane2 b scalar t i))⟩

/-- An operation on one element (R209, R210). -/
def vfForm1 (d a : BitVec 5) (m : BitVec 3) (t : BitVec 2) (op : Fmt → Rnd → Nat → Nat × Events) : VecFpForm :=
  ⟨⟨.v a, false⟩ :: maskSrc m, d, t == 1, fun r _ => (r.onWide m t).map fun i => (i, op (vectorFmt t) r.rnd (r.flane a t i))⟩

/-- The vector floating-point instructions (R209, R210), and `cvt` in its vector form (R219). -/
def vectorFloatForm : Instr → Option VecFpForm
  | .vfadd d a b m sz t => some (vfForm2 d a b m sz t fun f c x y => f.round c (addVal c.rm (f.value x) (f.value y)))
  | .vfsub d a b m sz t => some (vfForm2 d a b m sz t fun f c x y => f.round c (addVal c.rm (f.value x) (f.value y).flip))
  | .vfmul d a b m sz t => some (vfForm2 d a b m sz t fun f c x y => f.round c (mulVal (f.value x) (f.value y)))
  | .vfdiv d a b m sz t => some (vfForm2 d a b m sz t fun f c x y => f.round c (divVal (f.value x) (f.value y)))
  | .vfmin d a b m sz t => some (vfForm2 d a b m sz t fun f _ x y => f.minMax false false x y)
  | .vfmax d a b m sz t => some (vfForm2 d a b m sz t fun f _ x y => f.minMax true false x y)
  | .vfminn d a b m sz t => some (vfForm2 d a b m sz t fun f _ x y => f.minMax false true x y)
  | .vfmaxn d a b m sz t => some (vfForm2 d a b m sz t fun f _ x y => f.minMax true true x y)
  | .vfsqrt d a m t => some (vfForm1 d a m t fun f c x => f.round c (sqrtVal (f.value x)))
  | .vfrec d a m t => some (vfForm1 d a m t fun f c x => f.round c (divVal oneVal (f.value x)))
  | .vfrsq d a m t => some (vfForm1 d a m t fun f c x => f.round c (rsqVal (f.value x)))
  | .vfexp2 d a m t => some (vfForm1 d a m t fun f c x => f.round c (exp2Val (f.value x)))
  | .vflog2 d a m t => some (vfForm1 d a m t fun f c x => f.round c (log2Val (f.value x)))
  | .vfabs d a m t => some (vfForm1 d a m t fun f _ x => (x % signBit f, 0))
  | .vfneg d a m t => some (vfForm1 d a m t fun f _ x =>
      (if x.testBit (f.exp + f.man) then x % signBit f else x % signBit f + signBit f, 0))
  | .vfma d a b m sz t => some ⟨[⟨.v a, false⟩, vecSecondF b sz, ⟨.v d, false⟩] ++ maskSrc m, d, t == 1, fun r _ =>
      (r.onWide m t).map fun i =>
        (i, let f := vectorFmt t; f.round r.rnd (fmaVal r.rnd.rm false false (f.value (r.flane a t i)) (f.value (r.flane2 b sz t i)) (f.value (r.flane d t i))))⟩
  | .vfms d a b m sz t => some ⟨[⟨.v a, false⟩, vecSecondF b sz, ⟨.v d, false⟩] ++ maskSrc m, d, t == 1, fun r _ =>
      (r.onWide m t).map fun i =>
        (i, let f := vectorFmt t; f.round r.rnd (fmaVal r.rnd.rm false true (f.value (r.flane a t i)) (f.value (r.flane2 b sz t i)) (f.value (r.flane d t i))))⟩
  | .cvtVectorForm d a b v p q =>
      let from_ := kindOfCode q
      let dst := kindOfCode p
      let wide := dst.width == 64 || from_.width == 64
      some ⟨⟨.v a, false⟩ :: scaleSrc b v, d, dst.width == 64, fun r _ =>
        (List.range (if wide then r.vl / 2 else r.vl)).map fun i =>
          (i, convert r.rnd (from_.value (element (r.readV a) (from_.width == 64) i % 2 ^ from_.width)) (r.scale b) dst)⟩
  | _ => none

/-- A vector floating-point comparison (R211): the bits of the active elements, with the events. -/
structure FpMaskForm where
  srcs : List Src
  dest : BitVec 3
  results : Regs → List (Nat × Bool × Events)

/-- Compares the active elements. -/
def vfFormCompare (d : BitVec 3) (a b : BitVec 5) (m : BitVec 3) (scalar : Bool) (t : BitVec 2) (op : FVal → FVal → Bool × Events) : FpMaskForm :=
  ⟨[⟨.v a, false⟩, vecSecondF b scalar] ++ maskSrc m, d, fun r =>
    (r.onWide m t).map fun i => (i, op ((vectorFmt t).value (r.flane a t i)) ((vectorFmt t).value (r.flane2 b scalar t i)))⟩

/-- The vector floating-point comparisons. -/
def vectorCompareForm : Instr → Option FpMaskForm
  | .vfeq d a b m sz t => some (vfFormCompare d a b m sz t cmpEq)
  | .vflt d a b m sz t => some (vfFormCompare d a b m sz t cmpLt)
  | .vfle d a b m sz t => some (vfFormCompare d a b m sz t cmpLe)
  | _ => none

/-- A floating-point reduction (R189, R212), on the active elements with their places. -/
structure FpReduceForm where
  src : BitVec 5
  dest : BitVec 5
  fmt : BitVec 2
  mask : BitVec 3
  value : Fmt → Rnd → List (Nat × Nat) → Nat × Events

/-- The floating-point reductions. -/
def reduceForm : Instr → Option FpReduceForm
  | .vfredsum d a m t => some ⟨a, d, t, m, redSum⟩
  | .vfredmin d a m t => some ⟨a, d, t, m, fun f _ xs =>
      xs.foldl (fun acc e => ((f.minMax false false acc.1 e.2).1, acc.2 ||| (f.minMax false false acc.1 e.2).2)) (f.infBits false, 0)⟩
  | .vfredmax d a m t => some ⟨a, d, t, m, fun f _ xs =>
      xs.foldl (fun acc e => ((f.minMax true false acc.1 e.2).1, acc.2 ||| (f.minMax true false acc.1 e.2).2)) (f.infBits true, 0)⟩
  | _ => none

/-- The value and the events of a reduction on the registers of a firing. -/
def FpReduceForm.result (f : FpReduceForm) (r : Regs) : Nat × Events :=
  f.value (vectorFmt f.fmt) r.rnd ((r.onWide f.mask f.fmt).map fun i => (i, r.flane f.src f.fmt i))

/-- A vector register after some of its elements took new values, in order. -/
def withElements (old : BitVec 4096) (wide : Bool) (xs : List (Nat × Nat)) : BitVec 4096 := xs.foldl (fun b x => putElement b wide x.1 x.2) old

/-- A mask register after some of its bits took new values, in order. -/
def withBits (old : BitVec 128) (xs : List (Nat × Bool)) : BitVec 128 := xs.foldl (fun k x => setBit k x.1 x.2) old

/-- All the events of a list of results. -/
def eventsOf {α : Type} (xs : List (Nat × α × Events)) : Events := xs.foldl (fun e x => e ||| x.2.2) 0

/-- The instruction completes: the elements it writes take their values, the others stand, and the program counter moves on. -/
def CompletesVec (i : Instr) (f : VecForm) (s : State) : Prop :=
  let t := s.afterReads s.cur f.srcs
  let r := (t.core s.cur).regs
  let w := s.operands s.cur f.srcs
  exec i s = .next ((t.modRegs s.cur fun q =>
    q.putV f.dest (withElements (r.readV f.dest) false ((f.active r w).map fun i => (i, f.elem r w i))) (covers128 false (f.active r w))).advance s.cur)

/-- The instruction completes: its mask register takes the value. -/
def CompletesMask (i : Instr) (f : MaskForm) (s : State) : Prop :=
  let t := s.afterReads s.cur f.srcs
  exec i s = .next ((t.modRegs s.cur fun q => q.putM f.dest (f.value (t.core s.cur).regs (s.operands s.cur f.srcs)) (f.whole (t.core s.cur).regs)).advance s.cur)

/-- The vector floating-point instruction completes: its events are set in FPFLAGS, its elements take their values, the others stand. -/
def CompletesVecFp (i : Instr) (f : VecFpForm) (s : State) : Prop :=
  let r := (s.core s.cur).regs
  let res := f.results r []
  exec i s = .next (((s.modRegs s.cur fun q => { q with flags := q.flags ||| eventsOf res }).modRegs s.cur fun q =>
    q.putV f.dest (withElements (r.readV f.dest) f.wide (res.map fun x => (x.1, x.2.1))) (covers128 f.wide (res.map Prod.fst))).advance s.cur)

end Sys2Proof.Machine
end

