-- ==== Sys2Proof/Safety/Memory.lean ====
section
/-! DEFINITION. What the spec's tables say of the instructions that reach memory: what they access, and what an access leaves. -/

namespace Sys2Proof.Machine

/-! ## Loads -/

/-- A load: capability register and wait bit, destination, bytes, how they fill it, and the offset from the cursor (R140, R142). -/
structure LoadForm where
  base : BitVec 5
  wait : Bool
  dest : Reg
  bytes : Nat
  fill : Fill
  offset : Int

/-- `ld` by its size (Table 02-5), `fld`, and `ldc`, which keeps the tag only under PERM.CAP (R142). -/
def loadInstr (r : Regs) : Instr → Option LoadForm
  | .ld d c w sz imm =>
    match sz.toNat with
    | 0 => some ⟨c, w, .x d, 1, .signed 1, imm.toInt⟩
    | 1 => some ⟨c, w, .x d, 2, .signed 2, 2 * imm.toInt⟩
    | 2 => some ⟨c, w, .x d, 4, .signed 4, 4 * imm.toInt⟩
    | 3 => some ⟨c, w, .x d, 8, .zeroed 8, 8 * imm.toInt⟩
    | 4 => some ⟨c, w, .x d, 1, .zeroed 1, imm.toInt⟩
    | 5 => some ⟨c, w, .x d, 2, .zeroed 2, 2 * imm.toInt⟩
    | 6 => some ⟨c, w, .x d, 4, .zeroed 4, 4 * imm.toInt⟩
    | _ => none
  | .fld d c w sz imm =>
    match sz.toNat with
    | 0 => none
    | 1 => some ⟨c, w, .f d, 2, .boxed 2, 2 * imm.toInt⟩
    | 2 => some ⟨c, w, .f d, 4, .boxed 4, 4 * imm.toInt⟩
    | _ => some ⟨c, w, .f d, 8, .boxed 8, 8 * imm.toInt⟩
  | .ldc d c w imm => some ⟨c, w, .c d, 16, .cap ((r.readC c).perm.getLsbD 3), 16 * imm.toInt⟩
  | _ => none

/-- The address of a load. -/
def LoadForm.addr (f : LoadForm) (r : Regs) : Int := (r.readC f.base).cursor.toNat + f.offset

/-- The load executes normally, and its access passes its checks at a location (R52, R133). -/
structure LoadForm.Passes (f : LoadForm) (s : State) (loc : Nat) (repl : Bool) : Prop where
  issues : s.Issues s.cur [⟨.c f.base, f.wait⟩] (s.loadDest s.cur ((s.core s.cur).regs.readC f.base).space f.dest)
  access : s.accessCheck s.cur ((s.core s.cur).regs.readC f.base) (f.addr (s.core s.cur).regs) f.bytes .load = .ok loc repl

/-- The access of a load at a location is the next that the core makes. -/
def State.nextLoad (s : State) (loc n : Nat) (repl : Bool) : MemOp := loadOp (s.core s.cur).opNo loc n repl

/-- No earlier access of the core that R244 puts first is outstanding. -/
def State.LoadsNow (s : State) (loc n : Nat) (repl : Bool) : Prop := s.mayPerform s.cur (s.nextLoad loc n repl) = true

/-- The value of a load: the bytes of memory under what the core's store buffer holds of them, extended or boxed as the load says (R136, R140). -/
def LoadForm.loaded (f : LoadForm) (s : State) (loc : Nat) : Value :=
  let fwd := (s.core s.cur).forward loc f.bytes
  fillValue s.cur loc (((s.core s.cur).forwardTag loc).getD (s.mem.tag loc)) (merged s.mem loc fwd) f.fill

/-- No word that the load takes from memory holds an uncorrectable error (R342). -/
def LoadForm.Sound (f : LoadForm) (s : State) (loc : Nat) : Prop := s.mem.loadBad loc ((s.core s.cur).forward loc f.bytes) = false

/-! ## Stores -/

/-- A store: capability register, data register, wait bit, the bytes it writes, the offset, the kind of its access, and what it does to the
full/empty bit of its word (R140, R143). -/
structure StoreForm where
  base : BitVec 5
  data : Reg
  wait : Bool
  bytes : Regs → List Word64 → List Byte
  offset : Int
  kind : AccKind
  full : Option Bool

/-- The low bytes of a value. -/
def lowBytes (n : Nat) (v : Word64) : List Byte := (bytesOf v).take n

/-- `st`, `fst` and `stf`. -/
def storeInstr : Instr → Option StoreForm
  | .st d c w sz imm =>
    match sz.toNat with
    | 0 => some ⟨c, .x d, w, fun _ v => lowBytes 1 (nth v 0), imm.toInt, .store, none⟩
    | 1 => some ⟨c, .x d, w, fun _ v => lowBytes 2 (nth v 0), 2 * imm.toInt, .store, none⟩
    | 2 => some ⟨c, .x d, w, fun _ v => lowBytes 4 (nth v 0), 4 * imm.toInt, .store, none⟩
    | _ => some ⟨c, .x d, w, fun _ v => lowBytes 8 (nth v 0), 8 * imm.toInt, .store, none⟩
  | .fst d c w sz imm =>
    match sz.toNat with
    | 0 => none
    | 1 => some ⟨c, .f d, w, fun r _ => lowBytes 2 (r.readF d), 2 * imm.toInt, .store, none⟩
    | 2 => some ⟨c, .f d, w, fun r _ => lowBytes 4 (r.readF d), 4 * imm.toInt, .store, none⟩
    | _ => some ⟨c, .f d, w, fun r _ => lowBytes 8 (r.readF d), 8 * imm.toInt, .store, none⟩
  | .stf d c w imm => some ⟨c, .x d, w, fun _ v => lowBytes 8 (nth v 0), 8 * imm.toInt, .storeFull, some true⟩
  | _ => none

/-- The sources of a store. -/
def StoreForm.srcs (f : StoreForm) : List Src := [⟨.c f.base, f.wait⟩, ⟨f.data, f.wait⟩]

/-- The address of a store. -/
def StoreForm.addr (f : StoreForm) (r : Regs) : Int := (r.readC f.base).cursor.toNat + f.offset

/-- The bytes that a store writes, as it executes in a state. -/
def StoreForm.written (f : StoreForm) (s : State) : List Byte :=
  f.bytes ((s.afterReads s.cur f.srcs).core s.cur).regs (s.operands s.cur f.srcs)

/-- The store executes normally, its access passes its checks at a location, and the store buffer has room (R52, R133, R136). -/
structure StoreForm.Passes (f : StoreForm) (s : State) (loc : Nat) (repl : Bool) : Prop where
  issues : s.Issues s.cur f.srcs []
  access : (s.afterReads s.cur f.srcs).accessCheck s.cur ((s.core s.cur).regs.readC f.base) (f.addr (s.core s.cur).regs) (f.written s).length
    f.kind = .ok loc repl
  room : ((s.afterReads s.cur f.srcs).core s.cur).entries < 16

/-- Bytes at successive locations. -/
def placed (loc : Nat) (bs : List Byte) : List (Nat × Byte × Byte) := bs.zipIdx.map fun e => (loc + e.2, e.1, 0xFF)

/-- One entry joins the store buffer, and the instruction completes. -/
def State.buffered (s : State) (bytes : List (Nat × Byte × Byte)) (full : Option (Nat × Bool)) (tags : List (Nat × Bool)) (repl : Bool) : State :=
  (s.modCore s.cur fun k =>
    { k with stores := k.stores ++ [⟨k.opNo, bytes, full, tags, repl, false, k.opNo⟩], opNo := k.opNo + 1 }).advance s.cur

/-! ## Bit fields (R144) -/

/-- The field that `ldb`, `ldbx` and `stb` name: its first bit, counted from bit 0 of byte 0 of the space, and its width. -/
structure FieldForm where
  dest : BitVec 5
  base : BitVec 5
  wait : Bool
  offset : BitVec 5
  width : Nat
  signed : Bool

/-- The loads of a bit field. -/
def fieldLoad : Instr → Option FieldForm
  | .ldb d c w b l => some ⟨d, c, w, b, l.toNat + 1, false⟩
  | .ldbx d c w b l => some ⟨d, c, w, b, l.toNat + 1, true⟩
  | _ => none

/-- The first bit of a field, for a capability and an offset in bits. -/
def firstBit (cap : Cap) (off : Word64) : Nat := 8 * cap.cursor.toNat + off.toNat

/-- The first byte of a field, and how many bytes it touches. -/
def fieldBytes (bit width : Nat) : Nat × Nat := (bit / 8, (bit + width - 1) / 8 - bit / 8 + 1)

/-- The bytes that a store of a field writes, with the bits that it writes of each. -/
def fieldWrites (loc bit width : Nat) (v : Word64) (n : Nat) : List (Nat × Byte × Byte) :=
  (List.range n).map fun i =>
    (loc + i, .ofNat 8 (v.toNat % 2 ^ width * 2 ^ (bit % 8) / 256 ^ i), .ofNat 8 ((2 ^ width - 1) * 2 ^ (bit % 8) / 256 ^ i))

/-! ## Vector loads and stores (R216 to R218) -/

/-- A vector access: capability and element width fields, sources, mask, and the address of an element. -/
structure VecMemForm where
  srcs : List Src
  base : BitVec 5
  reg : BitVec 5
  mask : BitVec 3
  bytes : Nat
  addr : Regs → List Word64 → Nat → Int

/-- The bytes of a width field (R70). -/
def widthBytes (w : BitVec 2) : Option Nat := if w = 0 then some 4 else if w = 1 then some 2 else if w = 2 then some 1 else none

/-- Unit-stride, strided and indexed loads. -/
def vecLoadForm : Instr → Option VecMemForm
  | .vld d c m w => (widthBytes w).map fun n => ⟨[⟨.c c, false⟩] ++ maskSrc m, c, d, m, n, fun r _ i => (r.readC c).cursor.toNat + n * i⟩
  | .vlds d c b m w => (widthBytes w).map fun n =>
      ⟨[⟨.c c, false⟩, ⟨.x b, false⟩] ++ maskSrc m, c, d, m, n, fun r x i => (r.readC c).cursor.toNat + (nth x 0).toInt * i⟩
  | .vldx d c b m w => (widthBytes w).map fun n =>
      ⟨[⟨.c c, false⟩, ⟨.v b, false⟩] ++ maskSrc m, c, d, m, n, fun r _ i => (r.readC c).cursor.toNat + (r.lane b i).toNat⟩
  | _ => none

/-- Unit-stride, strided and indexed stores. -/
def vecStoreForm : Instr → Option VecMemForm
  | .vst d c m w => (widthBytes w).map fun n =>
      ⟨[⟨.c c, false⟩, ⟨.v d, false⟩] ++ maskSrc m, c, d, m, n, fun r _ i => (r.readC c).cursor.toNat + n * i⟩
  | .vsts d c b m w => (widthBytes w).map fun n =>
      ⟨[⟨.c c, false⟩, ⟨.x b, false⟩, ⟨.v d, false⟩] ++ maskSrc m, c, d, m, n, fun r x i => (r.readC c).cursor.toNat + (nth x 0).toInt * i⟩
  | .vstx d c b m w => (widthBytes w).map fun n =>
      ⟨[⟨.c c, false⟩, ⟨.v b, false⟩, ⟨.v d, false⟩] ++ maskSrc m, c, d, m, n, fun r _ i => (r.readC c).cursor.toNat + (r.lane b i).toNat⟩
  | _ => none

/-- Every active element's access passes its checks, at a location of its own (R133, R216). -/
def VecMemForm.PassesAt (f : VecMemForm) (s : State) (kind : AccKind) (loc : Nat → Nat) (repl : Nat → Bool) : Prop :=
  let t := s.afterReads s.cur f.srcs
  ∀ i ∈ (t.core s.cur).regs.on f.mask,
    t.accessCheck s.cur ((t.core s.cur).regs.readC f.base) (f.addr (t.core s.cur).regs (s.operands s.cur f.srcs) i) f.bytes kind = .ok (loc i) (repl i)

/-! ## Atomics (R271 to R275) -/

/-- An atomic: capability register, sources, destination, the bytes that its check covers and that it reads, its operation and operand,
and how the old value fills the destination. -/
structure AtomicForm where
  base : BitVec 5
  srcs : List Src
  dest : Reg
  check : Nat
  bytes : Nat
  op : List Word64 → AtomicOp
  operand : Regs → List Word64 → Word64
  order : BitVec 2
  scope : BitVec 3
  fill : Fill

/-- The integer atomics have 8 bytes, a word operand and an x destination (R272); `aaddz` covers its notify word too (R275). -/
def aForm (d c b : BitVec 5) (u v : Bool) (o : BitVec 2) (sz : BitVec 3) (op : AtomicOp) (check : Nat) : AtomicForm :=
  ⟨c, [⟨.c c, u⟩, ⟨.x b, v⟩], .x d, check, 8, fun _ => op, fun _ w => nth w 0, o, sz, .zeroed 8⟩

/-- The floating-point atomics have 4 bytes for f32 and 8 for f64 (R273). -/
def afForm (d c b : BitVec 5) (u v t : Bool) (o : BitVec 2) (sz : BitVec 3) (op : AtomicOp) : AtomicForm :=
  let n := if t then 4 else 8
  ⟨c, [⟨.c c, u⟩, ⟨.f b, v⟩], .f d, n, n, fun _ => op, fun r _ => .ofNat 64 (r.bitsF (if t then fmtF32 else fmtF64) b), o, sz, .boxed n⟩

/-- The atomic instructions. -/
def atomicForm : Instr → Option AtomicForm
  | .aadd d c b u v o sz => some (aForm d c b u v o sz .add 8)
  | .aand d c b u v o sz => some (aForm d c b u v o sz .and 8)
  | .aor d c b u v o sz => some (aForm d c b u v o sz .or 8)
  | .axor d c b u v o sz => some (aForm d c b u v o sz .xor 8)
  | .amin d c b u v o sz => some (aForm d c b u v o sz .min 8)
  | .amax d c b u v o sz => some (aForm d c b u v o sz .max 8)
  | .aminn d c b u v o sz => some (aForm d c b u v o sz .minn 8)
  | .amaxn d c b u v o sz => some (aForm d c b u v o sz .maxn 8)
  | .aswap d c b u v o sz => some (aForm d c b u v o sz .swap 8)
  | .aaddz d c b u v o sz => some (aForm d c b u v o sz .addz 16)
  | .afadd d c b u v t o sz => some (afForm d c b u v t o sz .fadd)
  | .afmin d c b u v t o sz => some (afForm d c b u v t o sz .fmin)
  | .afmax d c b u v t o sz => some (afForm d c b u v t o sz .fmax)
  | .afminn d c b u v t o sz => some (afForm d c b u v t o sz .fminn)
  | .afmaxn d c b u v t o sz => some (afForm d c b u v t o sz .fmaxn)
  | .cas d c b u v o sz => some ⟨c, [⟨.c c, u⟩, ⟨.x b, v⟩, ⟨.x d, false⟩], .x d, 8, 8, fun w => .cas (nth w 1), fun _ w => nth w 0, o, sz, .zeroed 8⟩
  | _ => none

/-- The atomic as it is performed at a location. -/
def AtomicForm.at_ (f : AtomicForm) (s : State) (loc : Nat) : AtomicAt :=
  let t := s.afterReads s.cur f.srcs
  let w := s.operands s.cur f.srcs
  ⟨(t.core s.cur).opNo, loc, f.bytes, f.op w, f.operand (t.core s.cur).regs w, ((t.core s.cur).regs.readC f.base).cursor, (t.core s.cur).curSlot.rope⟩

/-- The atomic as an access of its core (R241). -/
def AtomicForm.access (f : AtomicForm) (s : State) (loc : Nat) (repl : Bool) : MemOp :=
  ⟨((s.afterReads s.cur f.srcs).core s.cur).opNo, loc, f.bytes, true, true, true, f.order.getLsbD 0, f.order.getLsbD 1, f.scope, repl⟩

/-- The atomic executes normally and its access passes its checks at a location. -/
structure AtomicForm.Passes (f : AtomicForm) (s : State) (loc : Nat) (repl : Bool) : Prop where
  issues : s.Issues s.cur f.srcs (s.loadDest s.cur ((s.core s.cur).regs.readC f.base).space f.dest)
  access : (s.afterReads s.cur f.srcs).accessCheck s.cur (((s.afterReads s.cur f.srcs).core s.cur).regs.readC f.base)
    (((s.afterReads s.cur f.srcs).core s.cur).regs.readC f.base).cursor.toNat f.check .atomic = .ok loc repl

/-- What an atomic leaves in its word, from the old value and the operand (R272 to R274); `fadd` and the like work in the format of their bytes,
rounded to nearest and without events (R190). -/
def atomicResult (bytes : Nat) (old v : Word64) : AtomicOp → Word64
  | .add => .ofNat 64 (old.toNat + v.toNat)
  | .addz => .ofNat 64 (old.toNat + v.toNat)
  | .and => old &&& v
  | .or => old ||| v
  | .xor => old ^^^ v
  | .min => if v.toInt ≤ old.toInt then v else old
  | .max => if old.toInt ≤ v.toInt then v else old
  | .minn => if v.toNat ≤ old.toNat then v else old
  | .maxn => if old.toNat ≤ v.toNat then v else old
  | .swap => v
  | .cas e => if old = e then v else old
  | .fadd =>
    let f := if bytes = 4 then fmtF32 else fmtF64
    .ofNat 64 (f.round .nearest (addVal 0 (f.value old.toNat) (f.value v.toNat))).1
  | .fmin => .ofNat 64 ((if bytes = 4 then fmtF32 else fmtF64).minMax false false old.toNat v.toNat).1
  | .fmax => .ofNat 64 ((if bytes = 4 then fmtF32 else fmtF64).minMax true false old.toNat v.toNat).1
  | .fminn => .ofNat 64 ((if bytes = 4 then fmtF32 else fmtF64).minMax false true old.toNat v.toNat).1
  | .fmaxn => .ofNat 64 ((if bytes = 4 then fmtF32 else fmtF64).minMax true true old.toNat v.toNat).1

end Sys2Proof.Machine
end

