-- ==== Sys2Proof/Safety/Events.lean ====
section
/-! DEFINITION. More terms that the statements are written in: words written out from the encoding tables, the fetch, branches, gang forms, and what the
events of the machine do. -/

namespace Sys2Proof.Machine

/-! ## Words of the spec -/

/-- The major opcodes that Table 02-3 assigns. -/
def assignedOpcodes : List Nat :=
  (List.range 64).filter fun op => decide (1 ≤ op ∧ op ≤ 0x08 ∨ 0x10 ≤ op ∧ op ≤ 0x18 ∨ 0x1C ≤ op ∧ op ≤ 0x1E ∨ 0x20 ≤ op ∧ op ≤ 0x28
    ∨ op = 0x30 ∨ op = 0x31 ∨ 0x34 ≤ op ∧ op ≤ 0x38 ∨ 0x3C ≤ op ∧ op ≤ 0x3E)

/-- Words put together field by field from Tables 02-1 to 02-14, with the instructions that they stand for. -/
def specWords : List (InstrWord × Instr) :=
  -- formats A and I: op, rd, rs1, rs2, w1, w2, fn; op, rd, rs1, w1, imm15
  [ (0x01#6 ++ 5#5 ++ 24#5 ++ 7#5 ++ 1#1 ++ 0#1 ++ 0x001#9, .sub 5 24 7 true false),
    (0x02#6 ++ 4#5 ++ 9#5 ++ 0#1 ++ 0x7FFF#15, .addi 4 9 false 0x7FFF),
    (0x06#6 ++ 4#5 ++ 9#5 ++ 1#1 ++ 1#1 ++ 5#14, .sltni 4 9 true 5),
    (0x07#6 ++ 4#5 ++ 9#5 ++ 0#1 ++ 0#7 ++ 2#2 ++ 63#6, .srai 4 9 false 63),
    (0x08#6 ++ 31#5 ++ 0x12345#21, .lih 31 0x12345),
    -- format M: op, rd, capability base, w, sz, imm12
    (0x10#6 ++ 5#5 ++ 1#5 ++ 1#1 ++ 6#3 ++ 0xFFF#12, .ld 5 1 true 6 0xFFF),
    (0x15#6 ++ 0#5 ++ 3#5 ++ 0#1 ++ 7#3 ++ 2#12, .clrf 3 false 2),
    (0x16#6 ++ 5#5 ++ 3#5 ++ 0#1 ++ 0#3 ++ 7#5 ++ 11#5 ++ 0#2, .ldb 5 3 false 7 11),
    -- atomics: fn is op4, order, scope
    (0x1C#6 ++ 5#5 ++ 6#5 ++ 7#5 ++ 0#1 ++ 0#1 ++ 9#4 ++ 2#2 ++ 1#3, .aaddz 5 6 7 false false 2 1),
    (0x1E#6 ++ 5#5 ++ 6#5 ++ 7#5 ++ 0#1 ++ 1#1 ++ 0#4 ++ 3#2 ++ 4#3, .cas 5 6 7 false true 3 4),
    -- formats B and J, and the flow group
    (0x20#6 ++ 7#5 ++ 8#5 ++ 0#1 ++ 0#1 ++ 5#3 ++ 0x7FB#11, .bgen 7 8 false false 0x7FB),
    (0x21#6 ++ 1#5 ++ 3#21, .jal 1 3),
    (0x23#6 ++ 0#5 ++ 0#5 ++ 0#5 ++ 0#1 ++ 0#1 ++ 1#9, .endFiring),
    (0x24#6 ++ 0#5 ++ 0#5 ++ 0#5 ++ 0#1 ++ 0#1 ++ 0#4 ++ 2#2 ++ 3#3, .fence 2 3),
    (0x25#6 ++ 24#5 ++ 0#5 ++ 0#5 ++ 0#1 ++ 0#1 ++ 0#4 ++ 2#2 ++ 6#3, .pbindSend 24 6),
    (0x26#6 ++ 9#5 ++ 8#5 ++ 0#5 ++ 1#1 ++ 0#1 ++ 3#9, .tslot 9 8 true),
    (0x27#6 ++ 9#5 ++ 8#5 ++ 7#5 ++ 0#1 ++ 0#1 ++ 1#9, .cbnd 9 8 7 false false),
    (0x28#6 ++ 5#5 ++ 0#5 ++ 0#1 ++ 0#3 ++ 0x020#12, .rds 5 0x020),
    -- floating point: fn is the operation and the format; format F4; conversions
    (0x30#6 ++ 1#5 ++ 2#5 ++ 3#5 ++ 0#1 ++ 0#1 ++ 0#7 ++ 1#2, .fadd 1 2 3 false false 1),
    (0x31#6 ++ 1#5 ++ 2#5 ++ 3#5 ++ 4#5 ++ 3#2 ++ 2#2 ++ 0#2, .fnmsub 1 2 3 4 3),
    (0x38#6 ++ 3#5 ++ 4#5 ++ 5#5 ++ 0#1 ++ 0#1 ++ 4#4 ++ 1#4 ++ 1#1, .cvtVectorForm 3 4 5 false 4 1),
    -- format V: op, vd, vs1, vs2, mask, fn
    (0x34#6 ++ 1#5 ++ 2#5 ++ 3#5 ++ 4#3 ++ 1#1 ++ 16#7, .vadds 1 2 3 4 true),
    (0x35#6 ++ 1#5 ++ 2#5 ++ 3#5 ++ 0#3 ++ 0#1 ++ 2#2 ++ 9#5, .vfma 1 2 3 0 false 2),
    (0x36#6 ++ 1#5 ++ 2#5 ++ 3#5 ++ 7#3 ++ 5#8, .vgather 1 2 3 7),
    (0x37#6 ++ 4#5 ++ 5#5 ++ 6#5 ++ 1#3 ++ 2#3 ++ 1#2 ++ 0#3, .vlds 4 5 6 1 1),
    -- format C: op, sub, rd or fs, rs1, rs2, ext
    (0x3C#6 ++ 1#6 ++ 13#5 ++ 8#5 ++ 0#5 ++ 0#1 ++ 0#1 ++ 1#3, .cpq 13 8 0 false false 1),
    (0x3D#6 ++ 16#6 ++ 9#5 ++ 8#5 ++ 7#5 ++ 1#1 ++ 0#1 ++ 5#3, .mmbE2e2 9 8 7 true false true false true),
    (0x3E#6 ++ 2#6 ++ 9#5 ++ 5#5 ++ 0#5 ++ 1#1 ++ 0#1 ++ 0#3, .redget 9 5 true) ]

/-! ## The fetch -/

/-- A core fetches and decodes the word at its program counter in this cycle: its firing runs, is not parked and waits for nothing, its partition is not
stopped, its budget is not used up (R105), no producer reports a trap (R311), and the word is sound (R342). -/
structure State.Fetches (s : State) (c : CoreId) : Prop where
  running : (s.core c).running.isSome = true
  unparked : (s.core c).park = none
  going : s.coreHalted c = false
  awake : (s.core c).wait = .none
  budget : (s.core c).left ≠ 0
  quiet : (s.core c).failed = none
  sound : s.fetchBad c = false

/-! ## Branches, sources and gang forms -/

/-- A branch (R125): its sources, its offset in words, and the relation under which it is taken. -/
structure BranchForm where
  srcs : List Src
  offset : BitVec 11
  taken : Word64 → Word64 → Prop

/-- The branches of R125. -/
def branchForm : Instr → Option BranchForm
  | .beq a b u v o => some ⟨[⟨.x a, u⟩, ⟨.x b, v⟩], o, fun x y => x = y⟩
  | .bne a b u v o => some ⟨[⟨.x a, u⟩, ⟨.x b, v⟩], o, fun x y => x ≠ y⟩
  | .blt a b u v o => some ⟨[⟨.x a, u⟩, ⟨.x b, v⟩], o, fun x y => x.toInt < y.toInt⟩
  | .bge a b u v o => some ⟨[⟨.x a, u⟩, ⟨.x b, v⟩], o, fun x y => y.toInt ≤ x.toInt⟩
  | .bltn a b u v o => some ⟨[⟨.x a, u⟩, ⟨.x b, v⟩], o, fun x y => x.toNat < y.toNat⟩
  | .bgen a b u v o => some ⟨[⟨.x a, u⟩, ⟨.x b, v⟩], o, fun x y => y.toNat ≤ x.toNat⟩
  | _ => none

/-- The sources of an instruction of the families that have a table, in the order of its fields: the registers that it reads, with their wait bits (R51). -/
def sourcesOf (r : Regs) (i : Instr) : Option (List Src) :=
  [(integerForm i).map RegForm.srcs, (capabilityForm i).map RegForm.srcs, (moveForm i).map RegForm.srcs, (branchForm i).map BranchForm.srcs,
    (loadInstr r i).map fun f => [⟨.c f.base, f.wait⟩], (storeInstr i).map StoreForm.srcs, (fieldLoad i).map fun f => [⟨.c f.base, f.wait⟩, ⟨.x f.offset, f.wait⟩],
    (floatForm i).map FpForm.srcs, (atomicForm i).map AtomicForm.srcs, (vectorIntegerForm i).map VecForm.srcs, (permuteForm i).map VecForm.srcs,
    (maskForm i).map MaskForm.srcs, (vectorFloatForm i).map VecFpForm.srcs, (vectorCompareForm i).map FpMaskForm.srcs,
    (vecLoadForm i).map VecMemForm.srcs, (vecStoreForm i).map VecMemForm.srcs].findSome? id

/-- The number of a register in the DETAIL of EMPTY: x registers from 0, f registers from 32, c registers from 64 (Table 16-3). -/
def emptyNumber : Reg → Option Nat
  | .x n => some n.toNat
  | .f n => some (32 + n.toNat)
  | .c n => some (64 + n.toNat)
  | _ => none

/-- A gang form (R231): its format pair (Table 02-14), the scale register of a block-exponent pair, and its operands. -/
structure GangInstr where
  pair : Nat
  scale : Option (BitVec 5)
  a : BitVec 5
  b : BitVec 5
  u : Bool
  v : Bool
  zero : Bool
  tile : Bool
  bank : Bool

/-- The 17 gang forms. -/
def gangInstr : Instr → Option GangInstr
  | .mmaE4e4 a b u v z t k => some ⟨0, none, a, b, u, v, z, t, k⟩
  | .mmaE4e5 a b u v z t k => some ⟨1, none, a, b, u, v, z, t, k⟩
  | .mmaE5e4 a b u v z t k => some ⟨2, none, a, b, u, v, z, t, k⟩
  | .mmaE5e5 a b u v z t k => some ⟨3, none, a, b, u, v, z, t, k⟩
  | .mmaE3e3 a b u v z t k => some ⟨4, none, a, b, u, v, z, t, k⟩
  | .mmaE2e2 a b u v z t k => some ⟨5, none, a, b, u, v, z, t, k⟩
  | .mmaI8i8 a b u v z t k => some ⟨6, none, a, b, u, v, z, t, k⟩
  | .mmaI4i4 a b u v z t k => some ⟨7, none, a, b, u, v, z, t, k⟩
  | .mmaI8q8 a b u v z t k => some ⟨8, none, a, b, u, v, z, t, k⟩
  | .mmaI8q4 a b u v z t k => some ⟨9, none, a, b, u, v, z, t, k⟩
  | .mmaI4q4 a b u v z t k => some ⟨10, none, a, b, u, v, z, t, k⟩
  | .mmaBf16 a b u v z t k => some ⟨11, none, a, b, u, v, z, t, k⟩
  | .mmaF16 a b u v z t k => some ⟨12, none, a, b, u, v, z, t, k⟩
  | .mmbE4e4 f a b u v z t k => some ⟨13, some f, a, b, u, v, z, t, k⟩
  | .mmbE5e5 f a b u v z t k => some ⟨14, some f, a, b, u, v, z, t, k⟩
  | .mmbE3e3 f a b u v z t k => some ⟨15, some f, a, b, u, v, z, t, k⟩
  | .mmbE2e2 f a b u v z t k => some ⟨16, some f, a, b, u, v, z, t, k⟩
  | _ => none

/-- Its sources: the two operands, the capability of A, the geometry registers, and, at the lead core of a step that takes B from the scratchpad, the
capability of B. -/
def GangInstr.srcs (f : GangInstr) (s : State) : List Src :=
  [⟨.x f.a, f.u⟩, ⟨.x f.b, f.v⟩, ⟨.c (s.core s.cur).regs.aCap, false⟩, ⟨.me 0, false⟩, ⟨.me 1, false⟩, ⟨.me 2, false⟩]
    ++ (if s.cur.core = 0 ∧ f.tile = false then [⟨.c (s.core s.cur).regs.bCap, false⟩] else [])

/-- Its destination: the scale register. -/
def GangInstr.dests (f : GangInstr) : List Reg := match f.scale with | some n => [.f n] | none => []

/-! ## Management commands -/

/-- The commands that only the privileged management endpoint may send (R374), with their sender. -/
def commandSender : Instr → Option MgmtSender
  | .routeSwap w _ _ => some w
  | .switchSlice w _ => some w
  | .halt w _ => some w
  | .release w _ _ => some w
  | .managementSnapshot w _ => some w
  | .snapshotRead w _ => some w
  | .firmwareWrite w _ _ => some w
  | .partitionDefine w _ _ _ _ => some w
  | .vfCreate w _ _ => some w
  | .meshrateWrite w _ _ _ => some w
  | .vfctlWrite w _ _ => some w
  | .endpointTableWrite w _ _ _ => some w
  | .shadowRootWrite w _ _ => some w
  | .droopConfigWrite w _ _ => some w
  | .voteWrite w _ _ _ => some w
  | .allotWrite w _ _ => some w
  | .dramShareWrite w _ _ _ => some w
  | .slopeWrite w _ _ => some w
  | .packetCounterRead w => some w
  | .deliveryContextAssign w _ _ _ => some w
  | _ => none

end Sys2Proof.Machine
end

