-- ==== Sys2Proof/Certificates/Slice0/Obligations.lean ====
section
/-! DEFINITION. The statements about the model, for the provers. -/

open Sys2Proof Sys2Proof.Machine

/-! ## Encoding, the step, and branches -/

/-- A few words written out from Tables 02-1 to 02-13 decode to the instructions they stand for (R47, R56 to R73). A word of zeros, and a word whose major opcode is not
assigned, is no instruction: it traps ILLEGAL, with itself as DETAIL (R54). -/
def Obligations.DecodeWords : Prop :=
  (∀ e ∈ specWords, decodeWord e.1 = e.2)
  ∧ ∀ (w : InstrWord) (s : State), w = 0 ∨ w.toNat / 2 ^ 26 ∉ assignedOpcodes →
    decodeWord w = .illegalWord w ∧ exec (decodeWord w) s = .next (s.trapHere s.cur .illegal (w.setWidth 64))

/-- Decoding the word of a well-formed instruction gives the instruction back, with every operand (R47, R56 to R73).
A word that decodes to an instruction is that instruction's own word: no two words mean one instruction, and no bit is ignored (R54). -/
def Obligations.DecodeEncode : Prop :=
  (∀ (i : Instr) (w : InstrWord), i.wf = true → encode i = some w → decodeWord w = i)
  ∧ (∀ w : InstrWord, (∀ v, decodeWord w ≠ .illegalWord v) → encode (decodeWord w) = some w ∧ (decodeWord w).wf = true)

/-- The branches (R125): the program counter goes by the offset, in words from the branch itself, where the relation holds, and to the next word where
it does not; nothing else changes but what the reads took. `jal` (R126): the link is the address after the instruction, and the program counter goes by the offset, in words. -/
def Obligations.Branches : Prop :=
  (∀ (i : Instr) (f : BranchForm) (s : State), branchForm i = some f → s.Issues s.cur f.srcs [] →
      let w := s.operands s.cur f.srcs
      let pc := (s.core s.cur).regs.pc
      (f.taken (nth w 0) (nth w 1) → exec i s = .next ((s.afterReads s.cur f.srcs).jump s.cur (.ofInt 64 (pc.toInt + 4 * f.offset.toInt))))
      ∧ (¬ f.taken (nth w 0) (nth w 1) → exec i s = .next ((s.afterReads s.cur f.srcs).jump s.cur (pc + 4))))
  ∧ (∀ (s : State) (d : BitVec 5) (imm : BitVec 21), s.Issues s.cur [] [.x d] →
      exec (.jal d imm) s = .next ((s.putX s.cur d ((s.core s.cur).regs.pc + 4)).jump s.cur (.ofInt 64 ((s.core s.cur).regs.pc.toInt + 4 * imm.toInt))))

/-- A step of a core runs the instruction that its word decodes to: where the core's firing runs and waits for nothing, its watchdog and its
producers report nothing, and the word at its program counter is sound, the step is `exec` of the decoded word, with `afterInstr`
for an instruction that a RETRY issued again. -/
def Obligations.StepRunsDecoded : Prop :=
  ∀ (s : State), s.agenda = [] → s.cur.cluster < 256 → s.cur.core ≤ 8 → s.Fetches s.cur →
    step s = afterInstr s.cur s (exec (decodeWord (s.fetch s.cur)) s)
    ∧ ∀ t, s.textAt s.cur = some t → (s.core s.cur).regs.pc.toNat + 4 ≤ t.bytes.length →
        s.fetch s.cur = .ofNat 32 (leNat ((t.bytes.drop (s.core s.cur).regs.pc.toNat).take 4))

/-- A fetch outside the text traps ILLEGAL at that offset, as if the word were zero (R113).
The watchdog (R105): a firing whose cycles are used up traps BUDGET with the LIMIT it started with, which is the model's choice where it has written another (log entry 105), whatever
it waits for, unless an
instruction that has issued and writes is under way, or an `end` or `retire` has completed its wait (R111): then every producer of the firing has its answer. A `delay` whose count has
passed is over at the next boundary of a core cycle (R128): the step is that of a core that has gone past it. -/
def Obligations.StepTraps : Prop :=
  (∀ (s : State) (t : Text), s.agenda = [] → s.cur.cluster < 256 → s.cur.core ≤ 8 → s.Fetches s.cur → (s.core s.cur).after = [] →
      s.textAt s.cur = some t → t.bytes.length < (s.core s.cur).regs.pc.toNat + 4 → step s = .next (s.trapHere s.cur .illegal 0))
  ∧ (∀ (s : State), s.agenda = [] → s.cur.cluster < 256 → s.cur.core ≤ 8 → (s.core s.cur).running.isSome = true →
      (s.core s.cur).park = none → s.coreHalted s.cur = false → (s.core s.cur).left = 0 → (s.core s.cur).budget ≠ 0 →
      (s.core s.cur).wait.issued = false →
      ((s.core s.cur).wait = .finishing → (∃ p ∈ (s.core s.cur).prods, p.firing = (s.core s.cur).firingNo ∧ p.failure = none)
        ∨ ∃ e ∈ (s.core s.cur).scales, e.2.2.1 = (s.core s.cur).firingNo) →
      (∀ till, (s.core s.cur).wait = .delay till → s.now.toNat < till) →
      step s = .next (s.takeTrap s.cur .budget (.ofNat 64 (s.core s.cur).budget.toNat) (s.core s.cur).regs.pc (some (s.core s.cur).regs.pc)))
  ∧ (∀ (s : State) (till : Nat), s.agenda = [] → (s.core s.cur).wait = .delay till → till ≤ s.now.toNat →
      step s = step (s.endWait s.cur))

/-- Every instruction and every event answers a next state, whatever the state: the machine has no stuck instruction; what is not legal traps (R54, R310). -/
def Obligations.ExecAnswers : Prop :=
 ∀ (i : Instr) (s : State), ∃ t, exec i s = .next t

/-! ## Issue, the fixed registers and the port registers -/

/-- An instruction with an empty source under a set wait bit traps EMPTY with the register as DETAIL, and reads nothing; an instruction whose
sources are not all full stalls: it changes nothing but the cycle counts (R51, R52). The first two clauses say so of the integer family; the third and the
fourth of every source, x, f or c, of the integer, capability, move, branch, load, store, bit-field, floating-point, atomic and vector families. Where several
sources are empty under set wait bits, the first in the order of the fields is reported: the model's choice (log entry 65). -/
def Obligations.EmptySources : Prop :=
  (∀ (i : Instr) (f : RegForm) (s : State) (n : BitVec 5), integerForm i = some f → (s.core s.cur).wait = .none → (s.core s.cur).stopped = false →
    f.srcs.head? = some ⟨.x n, true⟩ → n ≠ 0 → (s.core s.cur).regs.binding n = .unbound → (s.core s.cur).regs.xEmpty.getLsbD n.toNat = true →
    exec i s = .next (s.trapHere s.cur .empty (.ofNat 64 n.toNat)))
  ∧ (∀ (i : Instr) (f : RegForm) (s : State), integerForm i = some f → (s.core s.cur).wait = .none →
    (∀ q ∈ f.srcs, (s.availSrc s.cur f.srcs q = .full ∨ (s.availSrc s.cur f.srcs q = .empty ∧ q.wait = false))) →
    (∃ q ∈ f.srcs, s.availSrc s.cur f.srcs q = .empty) → (∀ q ∈ f.srcs, (s.core s.cur).scalePending q.reg = false) →
    exec i s = .next (s.modCore s.cur Core.tick))
  ∧ (∀ (i : Instr) (s : State) (before after : List Src) (q : Src) (n : Nat), sourcesOf (s.core s.cur).regs i = some (before ++ q :: after) →
    (s.core s.cur).wait = .none → (s.core s.cur).stopped = false → q.wait = true → s.availSrc s.cur (before ++ q :: after) q = .empty → emptyNumber q.reg = some n →
    (∀ p ∈ before, ¬ (p.wait = true ∧ s.availSrc s.cur (before ++ q :: after) p = .empty)) →
    exec i s = .next (s.trapHere s.cur .empty (.ofNat 64 n)))
  ∧ (∀ (i : Instr) (s : State) (srcs : List Src), sourcesOf (s.core s.cur).regs i = some srcs → (s.core s.cur).wait = .none →
    (∀ q ∈ srcs, (s.availSrc s.cur srcs q = .full ∨ (s.availSrc s.cur srcs q = .empty ∧ q.wait = false))) →
    (∃ q ∈ srcs, s.availSrc s.cur srcs q = .empty) →
    exec i s = .next (s.modCore s.cur Core.tick))

/-- A read of x0 yields zero and a read of c0 the null capability, and both are always full, whatever is outstanding; a write to x0 or c0 is discarded; a write to a
register bound to a receive port or a stream is discarded too, and the binding stands (R49). -/
def Obligations.FixedRegisters : Prop :=
  (∀ (r : Regs), r.readX 0 = 0 ∧ r.readC 0 = ⟨0, 0, 0, 0, 0, 0, false⟩ ∧ r.isEmpty (.x 0) = false ∧ r.isEmpty (.c 0) = false)
  ∧ (∀ (s : State) (c : CoreId) (srcs : List Src) (w : Bool), s.fullTest c srcs ⟨.x 0, w⟩ = .go ∧ s.fullTest c srcs ⟨.c 0, w⟩ = .go
    ∧ s.destTest c (.x 0) = .go ∧ s.destTest c (.c 0) = .go)
  ∧ (∀ (s : State) (c : CoreId) (v : Word64), ((s.putX c 0 v).core c).regs = (s.core c).regs)
  ∧ (∀ (s : State) (c : CoreId) (k : Cap), ((s.putReg c (.c 0) (.cap k)).core c).regs = (s.core c).regs)
  ∧ (∀ (s : State) (c : CoreId) (n : BitVec 5) (v : Word64),
      ((∃ p, (s.core c).regs.binding n = .recv p) ∨ (∃ j g ws l, (s.core c).regs.binding n = .stream j g ws l)) → s.putX c n v = s)
  ∧ (∀ (r : Regs) (n : BitVec 5) (v : Word64), n ≠ 0 → (r.putX n v).readX n = v ∧ (r.putX n v).isEmpty (.x n) = false
      ∧ ∀ m, m ≠ n → (r.putX n v).readX m = r.readX m)

/-- A port register bound to a receive port gives up the words of its messages in order: the next word of the first message, which is popped with
its last word (R25, R53). One that is not bound gives its value, and nothing changes.
A write to a register bound to a send port appends one word to its message; the write that makes the message whole puts it into the send queue with
the port's destination and SEQ, and the port's counts move on (R258 to R260). That the queue has room for it is tested before the write, at the issue of the
instruction or, for a value that arrives late, at its arrival (log entry 59): the clause holds of the write itself, full queue or not.
The first word of a `cap` message: the capability goes into the reader's granule, with its tag, and in space 1 where it names the reader's own scratchpad; an error that the granule held is
gone with the write (R268, R342). -/
def Obligations.PortRegisters : Prop :=
  ((∀ (s : State) (c : CoreId) (n : BitVec 5), (s.core c).regs.binding n = .unbound → s.takeX c n = ((s.core c).regs.readX n, s))
    ∧ (∀ (s : State) (c : CoreId) (n : BitVec 5) (p : Nat) (q : InPort) (m : Msg) (ms : List Msg),
        (s.core c).running.isSome = true → (s.core c).regs.binding n = .recv p → (s.core c).curSlot.ins[p]? = some q → q.msgs = m :: ms → kindOf q.typ ≠ 2 →
        (s.takeX c n).1 = (m.words[q.readWords]?).getD 0
        ∧ (((s.takeX c n).2.core c).curSlot.ins[p]?) = some (if q.readWords + 1 < m.words.length then { q with readWords := q.readWords + 1 }
            else { q with msgs := ms, claimed := q.claimed - 1, readWords := 0 })
        ∧ ((s.takeX c n).2.core c).regs = (s.core c).regs ∧ (s.takeX c n).2.mem = s.mem)
    ∧ (∀ (s : State) (c : CoreId) (n : BitVec 5) (p : Nat) (q : InPort) (m : Msg) (ms : List Msg), c.core < 16 →
        (s.core c).running.isSome = true → (s.core c).regs.binding n = .recv p → (s.core c).curSlot.ins[p]? = some q → q.msgs = m :: ms → kindOf q.typ = 2 →
        q.readWords = 0 →
        let at_ := locScratch c.cluster c.core ((s.core c).curSlot.stateBase + (s.core c).curSlot.stateBytes - 16)
        let cap := (Cap.ofNat ((m.words[0]?.getD 0).toNat + 2 ^ 64 * (m.words[1]?.getD 0).toNat) m.tag).toOwn c.core
        (s.takeX c n).1 = (m.words[0]?).getD 0
        ∧ (s.takeX c n).2.mem = (((s.mem.write at_ (leBytes 16 cap.toNat)).setTag at_ cap.tag).clearBad at_).clearBad (at_ + 8)
        ∧ (((s.takeX c n).2.core c).curSlot.ins[p]?) = some (if 1 < m.words.length then { q with readWords := 1 }
            else { q with msgs := ms, claimed := q.claimed - 1, readWords := 0 })
        ∧ ((s.takeX c n).2.core c).regs = (s.core c).regs)
    ∧ (∀ (s : State) (c : CoreId) (n : BitVec 5) (j : Nat) (g : BitVec 8) (w : Word64) (ws : List Word64) (l : Nat),
        (s.core c).regs.binding n = .stream j g (w :: ws) l →
        (s.takeX c n).1 = w ∧ ((s.takeX c n).2.core c).regs.binding n = .stream j g ws l))
  ∧ (∀ (s : State) (c : CoreId) (n : BitVec 5) (p : Nat) (ws : List Word64) (q : OutPort) (v : Word64),
      (s.core c).running.isSome = true → (s.core c).regs.binding n = .send p ws → (s.core c).curSlot.outs[p]? = some q →
      (ws.length + 1 < wordsOf q.typ → ((s.putX c n v).core c).regs.binding n = .send p (ws ++ [v]) ∧ ((s.putX c n v).core c).sendQ = (s.core c).sendQ)
      ∧ (wordsOf q.typ ≤ ws.length + 1 →
          ((s.putX c n v).core c).regs.binding n = .send p []
          ∧ (∃ e, ((s.putX c n v).core c).sendQ = (s.core c).sendQ ++ [e] ∧ e.dest = q.dest ∧ e.seq = q.seq ∧ e.port = some p
              ∧ e.msg.typ = q.typ ∧ e.msg.words = ws ++ [v])
          ∧ (∃ q', ((s.putX c n v).core c).curSlot.outs[p]? = some q' ∧ q'.sent = q.sent + 1 ∧ q'.seq = q.seq + 1)))

/-! ## Taking a trap, and returning from one -/

/-- Taking a trap (R312): PARKSEQ rises, the slot becomes PARKED with the address and the detail kept, and the registers stand as they were; the trap
message of Table 16-2 goes to the `sys:4` port of the rope's supervisor: at once where everything that the core issued before is performed and no message of its
is held already, and else it is held until then (R245, R312): that it waits for loads too, an `ldw` whose word is not full among them, is the model's choice (log entry 9). This
is for a rope with a supervisor other than the trapping actor.
A trap of the supervisor itself, and, by the model's choice (log entry 62), of a rope without a supervisor: the firing is aborted at once, and the message goes to the REPLY
address of the cable (R314, R317).
An abort (R317): the slot is free to fire again, the port registers are unbound, the lanes are returned, and no other core's registers change. -/
def Obligations.TrapEntry : Prop :=
  (∀ (s : State) (c : CoreId) (code : TrapCode) (detail pc : Word64) (next : Option Word64) (i : Fin 16) (r : Rope) (sup : Nat) (a : ActorDecl) (k : Nat),
      code ≠ .budget → (s.core c).running = some i → s.ropes.get (s.core c).curSlot.rope = some r → r.decl.supervisor = some sup →
      sup ≠ (s.core c).curSlot.logical → r.decl.actor sup = some a → firstPortOfKind a.ins 3 = some k →
      ((s.takeTrap c code detail pc next).core c).parkseq = (s.core c).parkseq + 1
      ∧ ((s.takeTrap c code detail pc next).core c).park = some (.trap code detail pc s.now.toNat next)
      ∧ ((s.takeTrap c code detail pc next).core c).curSlot.phase = .parked
      ∧ ((s.takeTrap c code detail pc next).core c).regs = (s.core c).regs
      ∧ (s.takeTrap c code detail pc next).mem = s.mem
      ∧ ∃ p : Packet, (if s.allPerformed c (s.core c).opNo = true ∧ (∀ h ∈ s.heldTraps, h.at_ ≠ c)
            then (s.takeTrap c code detail pc next).flight = s.flight ++ [p] ∧ (s.takeTrap c code detail pc next).heldTraps = s.heldTraps
            else (s.takeTrap c code detail pc next).flight = s.flight
              ∧ (s.takeTrap c code detail pc next).heldTraps = s.heldTraps ++ [⟨c, (s.core c).curSlot.rope, (s.core c).opNo, p⟩])
          ∧ p.dest = mailboxAddress r.vf r.context sup k ∧ p.msg.typ = 0x1B
          ∧ p.msg.words = [.ofNat 64 (code.num + 2 ^ 8 * c.cluster + 2 ^ 16 * c.core + 2 ^ 19 * i.val + 2 ^ 32 * ((s.core c).parkseq + 1).toNat),
              s.firingId c, .ofNat 64 (pc.toNat % 2 ^ 22), detail])
  ∧ (∀ (s : State) (c : CoreId) (code : TrapCode) (detail pc : Word64) (next : Option Word64) (i : Fin 16) (r : Rope) (x : Cable),
      code ≠ .budget → (s.core c).running = some i → s.ropes.get (s.core c).curSlot.rope = some r → s.cables.get r.cable = some x →
      (r.decl.supervisor = none ∨ r.decl.supervisor = some (s.core c).curSlot.logical) →
      s.allPerformed c (s.core c).opNo = true → (∀ h ∈ s.heldTraps, h.at_ ≠ c) →
      ((s.takeTrap c code detail pc next).core c).running = none
      ∧ ((s.takeTrap c code detail pc next).core c).park = none
      ∧ ((s.takeTrap c code detail pc next).core c).slot i.val = { ((s.takeTrap c code detail pc next).core c).slot i.val with phase := .waiting }
      ∧ ∃ p, (s.takeTrap c code detail pc next).flight = s.flight ++ [p] ∧ p.dest = x.reply ∧ p.msg.typ = 0x1B)
  ∧ (∀ (s : State) (c : CoreId) (i : Fin 16), (s.core c).running = some i →
      ((s.abort c).core c).running = none ∧ ((s.abort c).core c).park = none ∧ ((s.abort c).core c).wait = .none
      ∧ ((s.abort c).core c).regs = { (s.core c).regs with bind := Vector.replicate 4 .unbound, lanes := 0, vl := 0 }
      ∧ ((s.abort c).core c).slots[i].phase = .waiting
      ∧ ((s.abort c).core c).slots[i].ins = (s.core c).slots[i].ins.map InPort.discard
      ∧ (s.abort c).mem = s.mem ∧ ∀ e, CoreId.key e ≠ CoreId.key c → (s.abort c).core e = s.core e)

/-- The replies to a trap (R315): ABORT ends the firing, RESUME goes on after the instruction, RETRY issues it again, REPLACE goes on with VALUE as an
FPX trap's result; a verb that the code does not allow acts as ABORT. A RESUME or a REPLACE whose result completes a message waits while the send queue of the
core is full (R260): the model's reading (log entry 59). A reply counts for the trap that it names where it was accepted within TRAPWAIT of the park (R316); that set bits
which Table 16-4 makes zero are not looked at is the model's choice (log entry 94), and so is it that its address may name another VF than the sender's (log entry 104).
What RESUME and RETRY leave (R315): the firing runs again, at the instruction after the trapping one, or at the trapping one. -/
def Obligations.TrapReplies : Prop :=
  (∀ (s : State) (no : Nat) (q : SysReq) (c : CoreId) (code : TrapCode),
      s.sysReqs.find? (fun x => x.no == no) = some q → q.service = 1 → s.parkedBy q = some (c, code) →
      let verb := q.word0.toNat / 2 ^ 32 % 8
      let full := s.arrivalTest c (s.core c).fpDefault.dest = .stall
      ((verb = 0 ∨ 4 ≤ verb) → exec (.trapAbort no) s = .next ((s.takeReq no).abort c))
      ∧ (verb = 1 → full → exec (.trapResume no) s = .next s)
      ∧ (verb = 1 → ¬ full →
        exec (.trapResume no) s = .next (if code = .budget ∨ code = .ecc then (s.takeReq no).abort c else (s.takeReq no).resume c none))
      ∧ (verb = 2 → exec (.trapRetry no) s = .next (if code = .illegal ∨ code = .budget ∨ code = .ecc ∨ code = .soft then (s.takeReq no).abort c
          else (s.takeReq no).retry c))
      ∧ (verb = 3 → full → exec (.trapReplace no) s = .next s)
      ∧ (verb = 3 → ¬ full → exec (.trapReplace no) s = .next (if code = .fpx then (s.takeReq no).resume c (some q.word1) else (s.takeReq no).abort c)))
  ∧ (∀ (s : State) (q : SysReq) (c : CoreId) (code : TrapCode), s.parkedBy q = some (c, code) →
      c = ⟨q.word0.toNat % 2 ^ 8, q.word0.toNat / 2 ^ 8 % 2 ^ 3⟩ ∧ (s.core c).parkseq.toNat = q.word0.toNat / 2 ^ 16 % 2 ^ 16 ∧ s.vfAt c = q.reply.vf
      ∧ ∃ d pc since n, (s.core c).park = some (.trap code d pc since n)
        ∧ ∀ v, s.vfs.get (s.vfAt c) = some v → q.at_ < since + v.trapWait.toNat * 10 ^ 6)
  ∧ (∀ (s : State) (c : CoreId) (i : Fin 16) (code : TrapCode) (d pc : Word64) (since : Nat) (n : Word64),
      (s.core c).running = some i → (s.core c).park = some (.trap code d pc since (some n)) → n ≠ (s.core c).regs.pc → (s.core c).after = [] →
      ((s.retry c).core c).park = none ∧ ((s.retry c).core c).curSlot.phase = .firing ∧ ((s.retry c).core c).regs = (s.core c).regs
      ∧ ((s.core c).fpDefault = .none → ((s.resume c none).core c).park = none ∧ ((s.resume c none).core c).curSlot.phase = .firing
          ∧ ((s.resume c none).core c).regs = { (s.core c).regs with pc := n }))

/-! ## Register instructions -/

/-- The results of the scalar integer instructions (R117 to R124): for every operand, the destination gets what Tables 04-6 to 04-8 state.
The moves between register files, and the reads of a vector or a mask into an x register (R205, R206, R213, R215).
The instructions that read a capability's field, and those that derive a capability without a check (R145, R146).
`cbnd` (R146): the region of the rounded length begins at the cursor; it must lie within a tagged parent, or CAPBOUNDS is raised, with a DETAIL that is the model's choice (log
entry 23). The order in which `bfi` takes its operands from one bound register is the model's choice (log entry 66). -/
def Obligations.RegisterResults : Prop :=
  (∀ (i : Instr) (f : RegForm) (s : State), integerForm i = some f → s.Issues s.cur f.srcs [f.dest] → CompletesAs i f s)
  ∧ (∀ (i : Instr) (f : RegForm) (s : State), moveForm i = some f → s.Issues s.cur f.srcs [f.dest] → CompletesAs i f s)
  ∧ (∀ (i : Instr) (f : RegForm) (s : State), capabilityForm i = some f → s.Issues s.cur f.srcs [f.dest] → CompletesAs i f s)
  ∧ (∀ (d c b : BitVec 5) (u v : Bool) (s : State), s.Issues s.cur [⟨.c c, u⟩, ⟨.x b, v⟩] [.c d] →
      let n := nth (s.operands s.cur [⟨.c c, u⟩, ⟨.x b, v⟩]) 0
      let t := s.afterReads s.cur [⟨.c c, u⟩, ⟨.x b, v⟩]
      let k := (t.core s.cur).regs.readC c
      (n.toNat ≤ 4095 * 2 ^ 31 →
        (k.tag = true → k.base.toNat ≤ k.cursor.toNat ∧ k.cursor.toNat + roundLen n.toNat ≤ k.base.toNat + k.len) →
        ∃ k' : Cap, exec (.cbnd d c b u v) s = .next ((t.modRegs s.cur fun r => r.putC d k').advance s.cur)
          ∧ k'.base = k.cursor ∧ k'.cursor = k.cursor ∧ k'.len = roundLen n.toNat ∧ k'.perm = k.perm ∧ k'.space = k.space ∧ k'.tag = k.tag)
      ∧ ((4095 * 2 ^ 31 < n.toNat ∨ (k.tag = true ∧ (k.cursor.toNat < k.base.toNat ∨ k.base.toNat + k.len < k.cursor.toNat + roundLen n.toNat))) →
        exec (.cbnd d c b u v) s = .next (s.trapHere s.cur .capbounds (accessDetail k.cursor.toNat k.space false))))

/-- RoundLen (R131): the length that `cbnd` takes is the smallest representable one that is not below the request; it is encoded with the smallest EXP
that works, with MANT the request divided by 2^EXP and rounded up; above 4,095 × 2^31 no length is representable. RoundLen(4,096) is MANT 2,048 with EXP 1, and
RoundLen(4,097) MANT 2,049 with EXP 1, which is 4,098. -/
def Obligations.RoundedLengths : Prop :=
  (∀ (n : Nat) (c : Cap), n ≤ 4095 * 2 ^ 31 →
    n ≤ roundLen n ∧ (∃ m e : Nat, m ≤ 4095 ∧ e ≤ 31 ∧ roundLen n = m * 2 ^ e) ∧ (∀ m e : Nat, m ≤ 4095 → e ≤ 31 → n ≤ m * 2 ^ e → roundLen n ≤ m * 2 ^ e)
    ∧ (c.withLen n).len = roundLen n ∧ (c.withLen n).mant.toNat = (n + 2 ^ (c.withLen n).exp.toNat - 1) / 2 ^ (c.withLen n).exp.toNat
    ∧ ∀ e : Nat, e < (c.withLen n).exp.toNat → ∀ m : Nat, m ≤ 4095 → m * 2 ^ e < n)
  ∧ (∀ n m e : Nat, 4095 * 2 ^ 31 < n → m ≤ 4095 → e ≤ 31 → m * 2 ^ e < n)
  ∧ (∀ c : Cap, (c.withLen 4096).mant = 2048 ∧ (c.withLen 4096).exp = 1 ∧ (c.withLen 4097).mant = 2049 ∧ (c.withLen 4097).exp = 1 ∧ roundLen 4097 = 4098)

/-- `jalr`, `nop` and `delay` (R127, R128): the link is the address after the instruction, and the target is read before it is written; a target that is not a multiple of 4
traps ALIGN with the target, and no space, as DETAIL, which is the model's choice (log entry 23); a delay of 0 is a `nop`, and one of n waits until the timebase has advanced by
n. -/
def Obligations.ControlTransfer : Prop :=
  ∀ s : State,
    (∀ (d a : BitVec 5) (u : Bool) (imm : BitVec 15), s.Issues s.cur [⟨.x a, u⟩] [.x d] →
      let target : Word64 := .ofInt 64 ((s.takeX s.cur a).1.toInt + 4 * imm.toInt)
      (target.toNat % 4 = 0 →
        exec (.jalr d a u imm) s = .next (((s.takeX s.cur a).2.putX s.cur d ((s.core s.cur).regs.pc + 4)).jump s.cur target))
      ∧ (target.toNat % 4 ≠ 0 → exec (.jalr d a u imm) s = .next (s.trapHere s.cur .align (.ofNat 64 (target.toNat % 2 ^ 52)))))
    ∧ (s.Issues s.cur [] [] → exec .nop s = .next (s.advance s.cur))
    ∧ (∀ (a : BitVec 5) (u : Bool), s.Issues s.cur [⟨.x a, u⟩] [] →
      ((s.takeX s.cur a).1 = 0 → exec (.delay a u) s = .next ((s.takeX s.cur a).2.advance s.cur))
      ∧ ((s.takeX s.cur a).1 ≠ 0 →
        exec (.delay a u) s = .next ((s.takeX s.cur a).2.waitFor s.cur (.delay (s.now.toNat + (s.takeX s.cur a).1.toNat)))))

/-! ## Floating point -/

/-- The results of the scalar floating-point instructions and of `cvt` in its scalar form (R199, R202 to R207, R219), where no event that FPENABLE
names is raised: the result is written, boxed, and the events are set in FPFLAGS; that the integer 0 converts as +0, whose sign a negative scale turns, is the model's
choice (log entry 91).
An event that FPENABLE names (R200, R201): the instruction sets its flags and traps FPX without writing its result. -/
def Obligations.FloatResults : Prop :=
  (∀ (i : Instr) (f : FpForm) (s : State), floatForm i = some f → s.Issues s.cur f.srcs [f.dest] → ¬ f.raises s → CompletesFp i f s)
  ∧ (∀ (i : Instr) (f : FpForm) (s : State), floatForm i = some f → s.Issues s.cur f.srcs [f.dest] → f.raises s → TrapsFpx i f s)

/-- Rounding (R182): a value that a format holds is not changed by rounding to it and raises no event, in every mode: the value of the bits of a
finite number, in every format, rounds back to those bits. The first clause is for the exponents below the top one of six formats, the second for every finite
value of the 8-bit, 6-bit and 4-bit formats e4m3, e3m2 and e2m1, whose top exponent is finite but for the NaN of e4m3. -/
def Obligations.RoundingExact : Prop :=
  (∀ (f : Fmt) (r : Rnd) (n : Nat), f ∈ [fmtF64, fmtF32, fmtBf16, fmtF16, fmtE5m2, fmtE4m3] → n < 2 ^ f.width →
    n / 2 ^ f.man % 2 ^ f.exp ≠ 2 ^ f.exp - 1 → f.round r ⟨f.value n, false, 0⟩ = (n, 0))
  ∧ (∀ (f : Fmt) (r : Rnd) (n : Nat), f ∈ [fmtE4m3, fmtE3m2, fmtE2m1] → n < 2 ^ f.width → (f = fmtE4m3 → n % 128 ≠ 127) →
    f.round r ⟨f.value n, false, 0⟩ = (n, 0))

/-! ## Vectors -/

/-- The vector integer instructions (R208, R209): each active element gets the result of its own operands, the others stand.
The comparisons into a mask, and the logic of masks (R209, R215).
The moves, slides, gathers, compressions, insertions and integer reductions (R212, R213). -/
def Obligations.VectorResults : Prop :=
  (∀ (i : Instr) (f : VecForm) (s : State), vectorIntegerForm i = some f → s.Issues s.cur f.srcs [.v f.dest] → CompletesVec i f s)
  ∧ (∀ (i : Instr) (f : MaskForm) (s : State), maskForm i = some f → s.Issues s.cur f.srcs [] → CompletesMask i f s)
  ∧ (∀ (i : Instr) (f : VecForm) (s : State), permuteForm i = some f → s.Issues s.cur f.srcs [.v f.dest] → CompletesVec i f s)

/-- The vector floating-point instructions, and `cvt` in its vector form (R209, R210, R219): where no event that FPENABLE names is raised, the
elements take their results and the events are set in FPFLAGS; else the instruction traps FPX with all of them set and no element written, and FIRST
is the lowest element that raised one (R200, R201). An integer 0 that `cvt` converts counts as +0, which is the model's choice (log entry 91).
The vector floating-point comparisons (R211), and the reductions (R212): where no event that FPENABLE names is raised, the mask or element 0 is written; else the
instruction traps FPX with nothing written. FIRST is 0 for a reduction, which is the model's reading (log entry 13). A reduction with VL 0 writes nothing. The
values of `vfexp2` and `vflog2` are those of log entry 14: the model's reading of R210. -/
def Obligations.VectorFloatResults : Prop :=
  (∀ (i : Instr) (f : VecFpForm) (s : State), vectorFloatForm i = some f → s.Issues s.cur f.srcs [.v f.dest] →
      let r := (s.core s.cur).regs
      let res := f.results r []
      (eventsOf res &&& r.enable = 0 → CompletesVecFp i f s)
      ∧ ∀ x, res.find? (fun x => x.2.2 &&& r.enable != 0) = some x →
        let late : FpDefault := .v f.dest (withElements (r.readV f.dest) f.wide (res.map fun x => (x.1, x.2.1)))
        exec i s = .next (((s.modRegs s.cur fun q => { q with flags := q.flags ||| eventsOf res }).modCore s.cur
          fun k => { k with fpDefault := late }).trapHere s.cur .fpx (fpxDetail (eventsOf res) late x.1)))
  ∧ ((∀ (i : Instr) (f : FpMaskForm) (s : State), vectorCompareForm i = some f → s.Issues s.cur f.srcs [] →
      let r := (s.core s.cur).regs
      let res := f.results r
      let out := withBits (r.readM f.dest) (res.map fun x => (x.1, x.2.1))
      let t := s.modRegs s.cur fun q => { q with flags := q.flags ||| eventsOf res }
      (eventsOf res &&& r.enable = 0 → exec i s = .next ((t.modRegs s.cur fun q => q.putM f.dest out (res.length == 128)).advance s.cur))
      ∧ ∀ x, res.find? (fun x => x.2.2 &&& r.enable != 0) = some x →
        exec i s = .next ((t.modCore s.cur fun k => { k with fpDefault := .m f.dest out }).trapHere s.cur .fpx
          (fpxDetail (eventsOf res) (.m f.dest out) x.1)))
    ∧ (∀ (i : Instr) (f : FpReduceForm) (s : State), reduceForm i = some f → s.Issues s.cur (⟨.v f.src, false⟩ :: maskSrc f.mask) [.v f.dest] →
      let r := (s.core s.cur).regs
      let z := f.result r
      let out := putElement (r.readV f.dest) (isWide f.fmt) 0 z.1
      let t := s.modRegs s.cur fun q => { q with flags := q.flags ||| z.2 }
      (r.vl = 0 → exec i s = .next (s.advance s.cur))
      ∧ (r.vl ≠ 0 → z.2 &&& r.enable = 0 →
        exec i s = .next ((t.modRegs s.cur fun q => q.putV f.dest out (covers128 (isWide f.fmt) [0])).advance s.cur))
      ∧ (r.vl ≠ 0 → z.2 &&& r.enable ≠ 0 →
        exec i s = .next ((t.modCore s.cur fun k => { k with fpDefault := .v f.dest out }).trapHere s.cur .fpx (fpxDetail z.2 (.v f.dest out) 0)))))

/-- Elements that an instruction does not write stand (R197): after values were put at some places, every other element reads as before, and a place
that was written last with a value reads that value.
`vclaim`, `vsetvl` and `vrelease` (R192, R194 to R196) complete, `vclaim` and `vrelease` once their turn among the cluster's cores has come (R195). The grant of a
`vclaim` of n lanes is the least of 128, n rounded up to a multiple of 16, and the 16 reserved lanes with the shared ones that are held or free; it is 0 for n = 0. VL
is the lesser of the request and the grant. The lanes that `end` and `retire` return are free from the next core cycle on (R195). Those that an abort returns are free at once, but for
the takes of a core cycle in which a take has come already: all returns of a cycle come before its takes (R195); that the lanes are then free from the next cycle on is the model's
reading (log entry 16). -/
def Obligations.VectorState : Prop :=
  (∀ (old : BitVec 4096) (wide : Bool) (xs : List (Nat × Nat)) (j : Nat),
      (∀ x ∈ xs, x.1 < if wide then 64 else 128) → j < (if wide then 64 else 128) →
      (j ∉ xs.map Prod.fst → element (withElements old wide xs) wide j = element old wide j)
      ∧ ∀ (v : Nat), v < 2 ^ (if wide then 64 else 32) → element (withElements old wide (xs ++ [(j, v)])) wide j = v)
  ∧ ((∀ (d a : BitVec 5) (s : State), s.Issues s.cur [⟨.x a, false⟩] [.x d] →
      let n := (s.takeX s.cur a).1.toNat
      let t := (s.takeX s.cur a).2
      let r := (t.core s.cur).regs
      let g := laneGrant n r.lanes (t.lanesFree s.cur)
      let u := if laneUse n r.lanes = .takes then t.noteTake s.cur else t
      (s.laneTurn s.cur (laneUse n (s.core s.cur).regs.lanes) = true →
        exec (.vclaim d a) s = .next (((u.modRegs s.cur fun r => { r with lanes := g, vl := min r.vl g }).putX s.cur d (.ofNat 64 g)).advance s.cur))
      ∧ (s.laneTurn s.cur (laneUse n (s.core s.cur).regs.lanes) = false → exec (.vclaim d a) s = .next s)
      ∧ exec (.vsetvl d a) s = .next (((t.modRegs s.cur fun r => { r with vl := min n r.lanes }).putX s.cur d (.ofNat 64 (min n r.lanes))).advance s.cur))
    ∧ (∀ s : State, s.Issues s.cur [] [] → s.laneTurn s.cur (laneUse 0 (s.core s.cur).regs.lanes) = true →
      exec .vrelease s = .next ((s.modRegs s.cur fun r => { r with lanes := 0, vl := 0 }).advance s.cur))
    ∧ (∀ (s : State) (c : CoreId), s.lanesFree c = 128 - ((List.range 8).map fun k => (s.core ⟨c.cluster, k⟩).regs.lanes - 16).sum
      - (((s.cluster c.cluster).lanesOwed.filter fun e => decide ((s.core c).cycles.toNat < e.1)).map Prod.snd).sum)
    ∧ (∀ (s : State) (c : CoreId),
      (s.noteTake c).cluster c.cluster = { s.cluster c.cluster with lanesNext := max (s.cluster c.cluster).lanesNext ((s.core c).cycles.toNat + 1) })
    ∧ (∀ (s : State) (cl k n : Nat), k < 8 → n < 8 → k ≠ n →
      let mine := (s.core ⟨cl, k⟩).regs.lanes - 16
      let now := (s.core ⟨cl, n⟩).cycles.toNat
      (now < (s.cluster cl).lanesNext → (s.abort ⟨cl, k⟩).lanesFree ⟨cl, n⟩ = s.lanesFree ⟨cl, n⟩)
      ∧ ((s.cluster cl).lanesNext ≤ now → (s.abort ⟨cl, k⟩).lanesFree ⟨cl, n⟩ = 128 - (s.lanesTaken cl - mine) - s.lanesLate ⟨cl, n⟩)
      ∧ (now < (s.core ⟨cl, k⟩).cycles.toNat → (s.finish ⟨cl, k⟩).lanesFree ⟨cl, n⟩ = s.lanesFree ⟨cl, n⟩)
      ∧ ((s.core ⟨cl, k⟩).cycles.toNat ≤ now → (s.finish ⟨cl, k⟩).lanesFree ⟨cl, n⟩ = 128 - (s.lanesTaken cl - mine) - s.lanesLate ⟨cl, n⟩))
    ∧ (∀ n g free : Nat, laneGrant n g free = if n = 0 then 0 else min 128 (min ((n + 15) / 16 * 16) (16 + (g - 16) + free)))
    ∧ (∀ n g free : Nat, g ≤ 128 → g % 16 = 0 → free % 16 = 0 →
      laneGrant n g free % 16 = 0 ∧ laneGrant n g free ≤ 128 ∧ laneGrant n g free ≤ (n + 15) / 16 * 16 ∧ laneGrant n g free - 16 ≤ (g - 16) + free
      ∧ (0 < n → 16 ≤ laneGrant n g free) ∧ laneGrant 0 g free = 0))

/-! ## Memory -/

/-- The access check (R133): an access that passes is within the region of a tagged capability that grants it, aligned where it has to be, in a space
that its kind allows and within the extent of that space; a tour slot is held; and a place in spaces 1 to 3 lies in the core's own cluster. In space 4 an entry of the core's TLB maps
the address, from which no later entry has taken it (R250; log entry 69).
The order of the checks (R133): a failure that the list of R133 names earlier is reported before a later one.
An access that fails its check (R133) traps with the first failure, and the DETAIL names the address formed, the space and the direction; nothing is
read or written. Loads and stores. -/
def Obligations.AccessChecks : Prop :=
  (∀ (s : State) (c : CoreId) (cap : Cap) (a : Int) (n : Nat) (kind : AccKind) (loc : Nat) (repl : Bool),
      0 < n → s.accessCheck c cap a n kind = .ok loc repl →
      cap.tag = true ∧ cap.space.toNat ∈ kind.spaces
      ∧ (kind.r = true → cap.perm.getLsbD 0 = true) ∧ (kind.w = true → cap.perm.getLsbD 1 = true ∧ cap.space ≠ 3)
      ∧ (kind.align = true → a % n = 0) ∧ (cap.base.toNat : Int) ≤ a ∧ a + n ≤ cap.base.toNat + cap.len ∧ a + n ≤ extentEnd cap.space.toNat
      ∧ (cap.space = 1 → loc = locScratch c.cluster c.core a.toNat)
      ∧ (cap.space = 2 → loc = locScratch c.cluster (a.toNat / 2 ^ 19) a.toNat
          ∧ ∃ r, s.ropeAt c = some r ∧ a.toNat / 2 ^ 19 ∈ r.gang (s.core c).curSlot.strand)
      ∧ (cap.space = 3 → loc = locTile c.cluster (a.toNat / 2 ^ 16) a.toNat ∧ s.holdsTile c (a.toNat / 2 ^ 16) = true)
      ∧ (cap.space = 4 → ∃ (i : Nat) (e : TlbEntry), (s.core c).tlb[i]? = some (some e) ∧ e.maps (s.vfAt c) a.toNat = true
          ∧ (∀ o ∈ (s.core c).tlbOld, o.1 = i → o.2.maps (s.vfAt c) a.toNat = false) ∧ loc = e.physical a.toNat ∧ (if kind.w then e.w else e.r) = true))
  ∧ (∀ (s : State) (c : CoreId) (cap : Cap) (a : Int) (n : Nat) (kind : AccKind),
      (s.accessFails c cap a n kind = some .captag ↔ cap.tag = false)
      ∧ (cap.tag = true → cap.space.toNat ∉ kind.spaces → s.accessFails c cap a n kind = some .capspace)
      ∧ (cap.tag = true → cap.space.toNat ∈ kind.spaces →
          ((kind.r = true ∧ cap.perm.getLsbD 0 = false) ∨ (kind.w = true ∧ (cap.perm.getLsbD 1 = false ∨ cap.space = 3)) ↔
            s.accessFails c cap a n kind = some .capperm))
      ∧ (s.accessFails c cap a n kind = some .align → kind.align = true ∧ a % n ≠ 0)
      ∧ (s.accessFails c cap a n kind = some .capbounds → (kind.align = true → a % n = 0) ∧
          (a < cap.base.toNat ∨ (cap.base.toNat : Int) + cap.len < a + n ∨ (extentEnd cap.space.toNat : Int) < a + n))
      ∧ (s.accessFails c cap a n kind = some .tourRevoked → cap.space = 3 ∧ s.holdsTile c (a.toNat / 2 ^ 16 % 32) = false))
  ∧ ((∀ (i : Instr) (f : LoadForm) (s : State) (code : TrapCode), loadInstr (s.core s.cur).regs i = some f →
      s.Issues s.cur [⟨.c f.base, f.wait⟩] (s.loadDest s.cur ((s.core s.cur).regs.readC f.base).space f.dest) →
      s.accessFails s.cur ((s.core s.cur).regs.readC f.base) (f.addr (s.core s.cur).regs) f.bytes .load = some code →
      exec i s = .next (s.trapHere s.cur code (accessDetail (f.addr (s.core s.cur).regs) ((s.core s.cur).regs.readC f.base).space false)))
    ∧ (∀ (i : Instr) (f : StoreForm) (s : State) (code : TrapCode), storeInstr i = some f → s.Issues s.cur f.srcs [] →
      (s.afterReads s.cur f.srcs).accessFails s.cur ((s.core s.cur).regs.readC f.base) (f.addr (s.core s.cur).regs) (f.written s).length f.kind = some code →
      exec i s = .next (s.trapHere s.cur code (accessDetail (f.addr (s.core s.cur).regs) ((s.core s.cur).regs.readC f.base).space true))))

/-- The loads (R140, R142, R136): in spaces 1 and 3 the register has the value at once, or the load stalls behind an access that has to come first; in spaces 2 and
4 the load is a long-latency producer, which leaves its register empty (R114), and stalls where 32 are outstanding; what counts among the 32 is the model's reading (log
entries 58 and 96). One in spaces 1 and 3 that the agenda puts off (R247; log entry 89) stays pending, as those in 2 and 4 do.
A pending load is performed when nothing that R244 puts before it is outstanding (R136, R247): then it takes its value, or its ECC trap, and not before. What and
when its packets are charged (R294) is the model's choice (log entry 7).
What a loaded value is (R136, R140, R144): each byte is the memory's under the bits that the core's earlier stores wrote; a signed load extends the sign,
an unsigned one zeros, a narrow `fld` lies under ones, and a field of bits is taken out of its bytes.
Forwarding (R136): a load of a byte that its core has stored, and that no outstanding atomic of the core comes after, has what the youngest store
put there, before memory has it. -/
def Obligations.LoadResults : Prop :=
  (∀ (i : Instr) (f : LoadForm) (s : State) (loc : Nat) (repl : Bool), loadInstr (s.core s.cur).regs i = some f → f.Passes s loc repl →
      let k := s.core s.cur
      let space := (k.regs.readC f.base).space
      let detail := accessDetail (f.addr k.regs) space false
      let near := (space = 1 ∨ space = 3) ∧ k.late = false
      (near → s.LoadsNow loc f.bytes repl → f.Sound s loc → exec i s = .next ((s.putReg s.cur f.dest (f.loaded s loc)).advance s.cur))
      ∧ (near → s.LoadsNow loc f.bytes repl → ¬ f.Sound s loc → exec i s = .next (s.trapHere s.cur .ecc detail))
      ∧ (near → ¬ s.LoadsNow loc f.bytes repl → exec i s = .next (s.stall s.cur))
      ∧ ((space = 1 ∨ space = 3) → k.late = true → exec i s = .next (s.defer s.cur f.dest detail (.load loc f.bytes repl f.fill)))
      ∧ ((space = 2 ∨ space = 4) → k.loadsOut < 32 → exec i s = .next (s.produce s.cur (some f.dest) detail (.load loc f.bytes repl f.fill)))
      ∧ ((space = 2 ∨ space = 4) → 32 ≤ k.loadsOut → exec i s = .next (s.stall s.cur)))
  ∧ (∀ (i : Instr) (f : LoadForm) (s : State) (v : Word64), loadInstr (s.core s.cur).regs i = some f →
      let r := (s.core s.cur).regs
      s.Issues s.cur [⟨.c f.base, f.wait⟩] (s.loadDest s.cur (r.readC f.base).space f.dest) →
      s.accessCheck s.cur (r.readC f.base) (f.addr r) f.bytes .load = .emulated v →
      ((s.core s.cur).loadsOut < 32 →
        exec i s = .next (s.produce s.cur (some f.dest) 0 (.ready (fillValue s.cur 0 false (leBytes f.bytes v.toNat) f.fill))))
      ∧ (32 ≤ (s.core s.cur).loadsOut → exec i s = .next (s.stall s.cur)))
  ∧ (∀ (s : State) (c : CoreId) (no loc n : Nat) (p : Producer) (repl : Bool) (fill : Fill), (s.core c).producer no = some p →
      p.pending = .load loc n repl fill →
      let fwd := ((s.core c).older p.no).forward loc n
      let tag := (((s.core c).older p.no).forwardTag loc).getD (s.mem.tag loc)
      (s.mayRead c (loadOp p.no loc n repl) = false → exec (.valueArrival c no) s = .next s)
      ∧ (s.mayRead c (loadOp p.no loc n repl) = true →
        exec (.valueArrival c no) s = .next ((s.chargeAccess c.cluster loc 0 n).modCore c fun k => k.setPending p.no
          (if s.mem.badIn loc n = true ∧ (∃ b ∈ fwd, b.2 ≠ 0xFF) then .fail .ecc p.detail else .ready (fillValue c loc tag (merged s.mem loc fwd) fill)))))
  ∧ (∀ (c : CoreId) (loc lo w : Nat) (tag : Bool) (bs : List Byte), 1 ≤ w → w ≤ 64 →
      fillValue c loc tag bs (.bits lo w false) = .word (.ofNat 64 (leNat bs / 2 ^ lo % 2 ^ w))
      ∧ fillValue c loc tag bs (.bits lo w true) = .word (.ofInt 64 (signedField (leNat bs / 2 ^ lo % 2 ^ w) w)))
  ∧ (∀ (c : CoreId) (loc : Nat) (tag : Bool) (bs : List Byte) (n : Nat), bs.length = n → n ∈ [1, 2, 4, 8] →
      fillValue c loc tag bs (.signed n) = .word (.ofInt 64 (signedField (leNat bs) (8 * n)))
      ∧ fillValue c loc tag bs (.zeroed n) = .word (.ofNat 64 (leNat bs))
      ∧ (∃ w : Word64, fillValue c loc tag bs (.boxed n) = .word w ∧ w.toNat % 2 ^ (8 * n) = leNat bs ∧ ∀ j, 8 * n ≤ j → j < 64 → w.getLsbD j = true))
  ∧ (∀ (k : Core) (m : Memory) (loc : Nat) (e : StoreEntry) (v : Byte), k.prods = [] →
      (loc, v, 0xFF) ∈ e.bytes → (e.bytes.map Prod.fst).Nodup → (k.stores = k.stores.dropLast ++ [e]) →
      merged m loc (k.forward loc 1) = [v])

/-- The stores (R140, R143, R136): the bytes go into the store buffer as one entry, with the full bit for `stf`; memory is as it was.
`stc` (R142, R138): the capability's 16 bytes and its tag; a tagged one needs PERM.CAP, whether or not its page translates (R311); a space-1 capability becomes its space-2 form unless it goes to
the core's own scratchpad; memory outside the scratchpads takes no tag.
A capability that is stored and loaded again is the same (R129, R142): its 128 bits hold every field. -/
def Obligations.StoreResults : Prop :=
  (∀ (i : Instr) (f : StoreForm) (s : State) (loc : Nat) (repl : Bool), storeInstr i = some f → f.Passes s loc repl →
      exec i s = .next ((s.afterReads s.cur f.srcs).buffered (placed loc (f.written s)) (f.full.map fun b => (loc, b)) [(loc, false)] repl))
  ∧ (∀ (d c : BitVec 5) (w : Bool) (imm : BitVec 12) (s : State) (loc : Nat) (repl : Bool),
      s.Issues s.cur [⟨.c c, w⟩, ⟨.c d, w⟩] [] →
      let r := (s.core s.cur).regs
      let cap := r.readC c
      let a : Int := cap.cursor.toNat + 16 * imm.toInt
      let v := if cap.space = 1 ∨ (cap.space = 2 ∧ a.toNat / 2 ^ 19 % 8 = s.cur.core) then r.readC d else (r.readC d).toPeer s.cur.core
      (s.accessFails s.cur cap a 16 .store = none → (r.readC d).tag = true → cap.perm.getLsbD 3 = false →
        exec (.stc d c w imm) s = .next (s.trapHere s.cur .capperm (accessDetail a cap.space true)))
      ∧ (s.accessCheck s.cur cap a 16 .store = .ok loc repl → ((r.readC d).tag = true → cap.perm.getLsbD 3 = true) → (s.core s.cur).entries < 16 →
        exec (.stc d c w imm) s = .next (s.buffered (placed loc (leBytes 16 v.toNat)) none [(loc, v.tag && decide (2 ^ 39 ≤ loc))] repl)))
  ∧ (∀ c : Cap, Cap.ofNat c.toNat c.tag = c ∧ leNat (leBytes 16 c.toNat) = c.toNat)

/-- `clrf`, `ldw` and the bit fields (R143, R144). `clrf` empties a word through the store buffer; `ldw` leaves its register empty until the word is full, and takes
the value at once where the word is full and nothing comes first; `ldb` and `ldbx` take a field of bits out of the bytes, and `stb` writes the bits of a field, as one
entry for each word that it touches. A load of a field in space 1 that the agenda puts off stays pending (R247; log entry 89). The order in which `stb` takes its address
and its data from one bound register is log entry 66. -/
def Obligations.WordAndFieldAccesses : Prop :=
  ∀ (s : State) (c : BitVec 5) (w : Bool),
    let cap := (s.core s.cur).regs.readC c
    (∀ (imm : BitVec 12) (loc : Nat) (repl : Bool), s.Issues s.cur [⟨.c c, w⟩] [] →
      s.accessCheck s.cur cap (cap.cursor.toNat + 8 * imm.toInt) 8 .storeFull = .ok loc repl → (s.core s.cur).entries < 16 →
      exec (.clrf c w imm) s = .next (s.buffered [] (some (loc, false)) [] false))
    ∧ (∀ (d : BitVec 5) (sz : BitVec 3) (imm : BitVec 12) (f : LoadForm) (loc : Nat) (repl : Bool),
      loadInstr (s.core s.cur).regs (.ld d c w sz imm) = some f → s.Issues s.cur [⟨.c c, w⟩] (s.lateDest s.cur (.x d)) →
      s.accessCheck s.cur cap (f.addr (s.core s.cur).regs) f.bytes .loadFull = .ok loc repl → (s.core s.cur).loadsOut < 32 →
      let k := s.core s.cur
      exec (.ldw d c w sz imm) s = .next (s.produce s.cur (some (.x d)) (accessDetail (f.addr k.regs) cap.space false) (.loadFull loc f.fill
        (if k.fullAt s.mem loc = true ∧ s.mayPerform s.cur (loadOp k.opNo (loc / 8 * 8) 8 false) = true
          then some (f.loaded s loc, !s.mem.loadBad loc (k.forward loc f.bytes)) else none))))
    ∧ (∀ (i : Instr) (f : FieldForm) (loc : Nat) (repl : Bool), fieldLoad i = some f → f.base = c → f.wait = w →
      s.Issues s.cur [⟨.c c, w⟩, ⟨.x f.offset, w⟩] (s.loadDest s.cur cap.space (.x f.dest)) →
      let t := (s.takeX s.cur f.offset).2
      let bit := firstBit cap (s.takeX s.cur f.offset).1
      let run := fieldBytes bit f.width
      t.accessCheck s.cur cap run.1 run.2 .loadBits = .ok loc repl →
      let field := leNat (merged t.mem loc ((t.core s.cur).forward loc run.2)) / 2 ^ (bit % 8) % 2 ^ f.width
      let value : Word64 := if f.signed then .ofInt 64 (signedField field f.width) else .ofNat 64 field
      let late := (t.core s.cur).late
      (cap.space = 1 → late = false → t.mayPerform s.cur (loadOp (t.core s.cur).opNo loc run.2 repl) = true →
        t.mem.loadBad loc ((t.core s.cur).forward loc run.2) = false → exec i s = .next ((t.putX s.cur f.dest value).advance s.cur))
      ∧ (cap.space = 1 → late = true → exec i s = .next (t.defer s.cur (.x f.dest) (accessDetail run.1 cap.space false)
          (.load loc run.2 repl (.bits (bit % 8) f.width f.signed))))
      ∧ (cap.space = 2 → (t.core s.cur).loadsOut < 32 → exec i s = .next (t.produce s.cur (some (.x f.dest)) (accessDetail run.1 cap.space false)
          (.load loc run.2 repl (.bits (bit % 8) f.width f.signed)))))
    ∧ (∀ (d b l : BitVec 5) (loc : Nat) (repl : Bool), s.Issues s.cur [⟨.c c, w⟩, ⟨.x b, w⟩, ⟨.x d, w⟩] [] →
      let v := ((s.takeX s.cur b).2.takeX s.cur d).1
      let t := ((s.takeX s.cur b).2.takeX s.cur d).2
      let bit := firstBit cap (s.takeX s.cur b).1
      let run := fieldBytes bit (l.toNat + 1)
      t.accessCheck s.cur cap run.1 run.2 .storeBits = .ok loc repl → (t.core s.cur).entries ≤ 14 →
      ∃ es : List StoreEntry,
        exec (.stb d c w b l) s = .next ((t.modCore s.cur fun k => { k with stores := k.stores ++ es, opNo := k.opNo + 2 }).advance s.cur)
        ∧ (es.map fun e => e.bytes).flatten = fieldWrites loc bit (l.toNat + 1) v run.2
        ∧ (∀ e ∈ es, e.fullBit = none ∧ e.unit = e.no ∧ e.replicated = false ∧ (∀ x ∈ e.bytes, ∀ y ∈ e.bytes, x.1 / 8 = y.1 / 8) ∧ ∀ x ∈ e.bytes, (x.1 / 8 * 8, false) ∈ e.tags.map fun g => (g.1 / 8 * 8, g.2))
        ∧ (es.map fun e => e.no) = (List.range es.length).map fun j => (t.core s.cur).opNo + j)

/-- The vector loads (R216, R217): each active element of the register takes the bytes at its own address, zero-extended; the others stand. Where the space
is long-latency, the register is pending until the last of them arrived; so it is in spaces 1 and 3 where the agenda puts the load off (R247; log entry 89).
The vector stores (R216 to R218): the active elements enter the store buffer together, where the 64-byte blocks that they touch are at most 16 and there is room for
as many entries; those of more than 16 blocks wait for an empty buffer and enter as it drains, each block with one entry (log entry 15).
The elements of a vector store (R217, R218, R240): each is an event of its own, with its own bytes, in ascending order; two share an entry of the buffer exactly
where they are of one 64-byte block; a load of the core finds, for every byte, what the last element in ascending order writes there. As the elements of a large store
enter, the buffer never holds more than 16 entries, and the elements keep their order and their bytes. -/
def Obligations.VectorMemory : Prop :=
  (∀ (i : Instr) (f : VecMemForm) (s : State) (loc : Nat → Nat) (repl : Nat → Bool), vecLoadForm i = some f →
      s.Issues s.cur f.srcs [.v f.reg] → f.PassesAt s .load loc repl →
      let t := s.afterReads s.cur f.srcs
      let k := t.core s.cur
      let r := k.regs
      let cap := r.readC f.base
      let act := r.on f.mask
      (act = [] → exec i s = .next (t.advance s.cur))
      ∧ (act ≠ [] → (cap.space = 1 ∨ cap.space = 3) → k.late = false →
        (∀ j ∈ act, t.mayPerform s.cur (loadOp k.opNo (loc j) f.bytes false) = true) →
        (∀ j ∈ act, t.mem.loadBad (loc j) (k.forward (loc j) f.bytes) = false) →
        exec i s = .next ((t.modRegs s.cur fun q => q.putV f.reg (withElements (r.readV f.reg) false
          (act.map fun j => (j, leNat (merged t.mem (loc j) (k.forward (loc j) f.bytes))))) (covers128 false act)).advance s.cur))
      ∧ (act ≠ [] →
        let detail := accessDetail (f.addr r (s.operands s.cur f.srcs) (act.headD 0)) cap.space false
        let p : Pending := .vload (act.map fun j =>
          ⟨32 * j, loc j, f.bytes, repl j, accessDetail (f.addr r (s.operands s.cur f.srcs) j) cap.space false⟩) 32 (r.readV f.reg)
        ((cap.space = 1 ∨ cap.space = 3) → k.late = true → exec i s = .next (t.defer s.cur (.v f.reg) detail p))
        ∧ ((cap.space = 2 ∨ cap.space = 4) → k.loadsOut < 32 → exec i s = .next (t.produce s.cur (some (.v f.reg)) detail p))))
  ∧ (∀ (i : Instr) (f : VecMemForm) (s : State) (loc : Nat → Nat) (repl : Nat → Bool), vecStoreForm i = some f →
      s.Issues s.cur f.srcs [] → f.PassesAt s .store loc repl →
      let t := s.afterReads s.cur f.srcs
      let k := t.core s.cur
      let elems := vecElems k.opNo ((k.regs.on f.mask).map fun j => (j, loc j, repl j)) f.bytes fun j => (k.regs.lane f.reg j).toNat
      (vecBlocks elems ≤ 16 → k.entries + vecBlocks elems ≤ 16 →
        exec i s = .next ((t.modCore s.cur fun k => { k with stores := k.stores ++ elems, opNo := k.opNo + elems.length }).advance s.cur))
      ∧ (vecBlocks elems ≤ 16 → 16 < k.entries + vecBlocks elems → exec i s = .next (s.stall s.cur))
      ∧ (16 < vecBlocks elems → k.stores = [] →
        exec i s = .next ((t.modCore s.cur fun k => { k with opNo := k.opNo + elems.length }).waitFor s.cur (.vstore elems)))
      ∧ (16 < vecBlocks elems → k.stores ≠ [] → exec i s = .next (s.stall s.cur)))
  ∧ (∀ (no : Nat) (es : List (Nat × Nat × Bool)) (n : Nat) (value : Nat → Nat), n ∈ [1, 2, 4] → (∀ e ∈ es, e.2.1 % n = 0) →
      let elems := vecElems no es n value
      (elems.map fun e => e.bytes) = es.map (fun e => placed e.2.1 (leBytes n (value e.1)))
      ∧ (elems.map fun e => e.no) = (List.range es.length).map (fun i => no + i)
      ∧ (∀ e ∈ elems, ∀ g ∈ elems, (e.unit = g.unit ↔ ∀ x ∈ e.bytes, ∀ y ∈ g.bytes, x.1 / 64 = y.1 / 64))
      ∧ vecBlocks elems = (es.map fun e => e.2.1 / 64).eraseDups.length
      ∧ ∀ a, forwardByte elems a =
          forwardByte [⟨no, (es.map fun e => placed e.2.1 (leBytes n (value e.1))).flatten, none, [], false, false, no⟩] a)
  ∧ (∀ (k : Core) (elems : List StoreEntry), k.entries ≤ 16 →
    (k.takeIn elems).1.entries ≤ 16
    ∧ ∃ n, (k.takeIn elems).2 = elems.drop n
      ∧ (k.takeIn elems).1.stores.map (fun e => (e.no, e.bytes)) = (k.stores ++ elems.take n).map fun e => (e.no, e.bytes))

/-- The atomics (R271 to R275): one in the core's own scratchpad is performed as it issues, once its core's stores have drained, or stays pending where the agenda puts
it off (R247; log entry 89); one elsewhere is a long-latency producer, that goes on its way where the home is another die. The order in which `cas` takes its operands
from one bound register is log entry 66.
What an atomic does at its home (R271 to R274, R137): its word has the new value, its granule is untagged, every other byte of memory and every register
stands; an `aaddz` whose new value is zero sends its notification (R275). An error in the notify word counts only where the new value is zero, for which alone it is read (R275).
The notification of a counter (R275): where an `aaddz` leaves zero and the word after the counter names a mailbox, a message goes to that mailbox,
with the counter's cursor; a malformed word loses it. It goes out once every access that its core issued before the `aaddz` is performed (R245); that it waits in the notify queue until
then is the model's choice (log entries 92 and 109). -/
def Obligations.Atomics : Prop :=
  (∀ (i : Instr) (f : AtomicForm) (s : State) (loc : Nat) (repl : Bool), atomicForm i = some f → f.Passes s loc repl →
      let t := s.afterReads s.cur f.srcs
      let k := t.core s.cur
      let cap := k.regs.readC f.base
      let x := f.at_ s loc
      let p : Pending := .atomic loc f.bytes (f.op (s.operands s.cur f.srcs)) (f.operand k.regs (s.operands s.cur f.srcs)) f.order f.scope cap.cursor k.curSlot.rope repl f.fill
      let detail := accessDetail cap.cursor.toNat cap.space true
      (cap.space = 1 → k.late = true → exec i s = .next (t.defer s.cur f.dest detail p))
      ∧ (t.atomicBad x = (t.mem.badIn loc f.bytes || (f.op (s.operands s.cur f.srcs) == .addz && t.atomicOld x + x.operand == 0 && t.mem.badIn (loc + 8) 8)))
      ∧ (cap.space = 1 → k.late = false → k.stores = [] → t.mayPerform s.cur (f.access s loc repl) = true → t.atomicWaits x = false → t.atomicBad x = false →
        exec i s = .next (((t.performAtomic s.cur x).putReg s.cur f.dest (fillValue s.cur loc false (leBytes f.bytes (t.atomicOld x).toNat) f.fill)).advance s.cur))
      ∧ (cap.space ≠ 1 → k.loadsOut < 32 → (repl = true ∨ homeDie loc = dieOf s.cur.cluster) →
        exec i s = .next (t.produce s.cur (some f.dest) detail p))
      ∧ (cap.space ≠ 1 → k.loadsOut < 32 → repl = false → homeDie loc ≠ dieOf s.cur.cluster →
        ∃ u, exec i s = .next u ∧ (∃ no, u.flying = (t.produce s.cur (some f.dest) detail p).flying ++ [⟨no, s.cur, .inr k.opNo, []⟩])
          ∧ u.cores = (t.produce s.cur (some f.dest) detail p).cores ∧ u.mem = t.mem))
  ∧ (∀ (s : State) (c : CoreId) (x : AtomicAt), s.mem.wf = true → (x.bytes = 4 ∨ x.bytes = 8) →
      let new := atomicResult x.bytes (s.atomicOld x) x.operand x.op
      let t := s.performAtomic c x
      leNat (t.mem.read x.loc x.bytes) = new.toNat % 2 ^ (8 * x.bytes)
      ∧ t.mem.tag x.loc = false
      ∧ (∀ a, (a < x.loc ∨ x.loc + x.bytes ≤ a) → t.mem.byte a = s.mem.byte a)
      ∧ (∀ d, (t.core d).regs = (s.core d).regs)
      ∧ ((x.op ≠ .addz ∨ new ≠ 0) → t.flight = s.flight))
  ∧ (∀ (s : State) (c : CoreId) (x : AtomicAt), s.mem.wf = true → x.op = .addz → x.bytes = 8 → s.atomicOld x + x.operand = 0 →
      let w := leNat (s.mem.read (x.loc + 8) 8)
      let t := s.performAtomic c x
      (w / 2 ^ 36 % 2 ^ 12 = 0 → w / 2 ^ 33 % 8 = 0 →
        ∃ p : Packet, p.dest = .ofNat 64 (w % 2 ^ 36) ∧ p.msg.typ = 0x01 ∧ p.msg.words = [.ofNat 64 (w / 2 ^ 48 % 2 ^ 16), .ofNat 64 x.cursor.toNat]
          ∧ (s.allPerformed c x.no = true → t.flight = s.flight ++ [p] ∧ t.notices = s.notices)
          ∧ (s.allPerformed c x.no = false → t.flight = s.flight ∧ ∃ no, t.notices = s.notices ++ [⟨no, p, some (c, x.no)⟩]))
      ∧ ((w / 2 ^ 36 % 2 ^ 12 ≠ 0 ∨ w / 2 ^ 33 % 8 ≠ 0) → t.flight = s.flight ∧ t.notices = s.notices
        ∧ ∀ r, s.ropes.get x.rope = some r → r.notifyLost ≠ 0xFFFFFFFF → t.ropes.get x.rope = some { r with notifyLost := r.notifyLost + 1 }))

/-! ## Ordering, waiting, barriers and system instructions -/

/-- `fence` (R277): an acquire waits for the outstanding loads, a release for the stores, which have to be applied at their homes for a scope above the
die; a release with a load outstanding is kept, for what comes after it.
`waita` and what ends it (R114, R278, R279): its register is empty until the value arrives; a word that differs from the operand is on its way at once; else the core
waits, until a write to the word's block by another party, or for 2^20 ticks; then the word as it is goes off to the register, or its ECC trap (R342); while
the stack of the word is in self-refresh, or the word is pending in its die's replica, it is not read again (R248, R361; log entry 56). The first read may also come after the issue, as
R247 lets a load's; issue then stops from that read on. The model's choices: what the reads are charged (R294; log entry 7), and that issue does not stop before a late read, and that
a core has one monitor, for which a second `waita` stalls (log entry 98). That a `waita` is not among the 32 loads of R136 is the model's reading (log entry 96). -/
def Obligations.FencesAndWaits : Prop :=
  (∀ (o : BitVec 2) (sz : BitVec 3) (s : State), s.Issues s.cur [] [] →
      let k := s.core s.cur
      let stores := k.stores ≠ [] ∨ (3 ≤ sz.toNat ∧ s.flyingOf s.cur ≠ [])
      (((o.getLsbD 0 = true ∧ k.loadsLeft ≠ 0) ∨ (o.getLsbD 1 = true ∧ stores)) → exec (.fence o sz) s = .next (s.stall s.cur))
      ∧ ((o.getLsbD 0 = true → k.loadsLeft = 0) → (o.getLsbD 1 = true → ¬ stores ∧ k.loadsLeft = 0) → exec (.fence o sz) s = .next (s.advance s.cur))
      ∧ (o.getLsbD 0 = false → o.getLsbD 1 = true → ¬ stores → k.loadsLeft ≠ 0 →
        exec (.fence o sz) s = .next ((s.modCore s.cur fun k => { k with fences := k.fences ++ [(k.opNo, sz)] }).advance s.cur)))
  ∧ ((∀ (d c b : BitVec 5) (u v : Bool) (s : State) (loc : Nat) (repl : Bool), s.Issues s.cur [⟨.c c, u⟩, ⟨.x b, v⟩] (s.lateDest s.cur (.x d)) →
      let w := (s.takeX s.cur b).1
      let t := (s.takeX s.cur b).2
      let cap := (t.core s.cur).regs.readC c
      let x : Word64 := .ofNat 64 (leNat (t.mem.read loc 8))
      t.accessCheck s.cur cap cap.cursor.toNat 8 .waita = .ok loc repl →
      t.mayLoad s.cur (loadOp (t.core s.cur).opNo loc 8 repl) = true → t.replicaPending s.cur (loadOp (t.core s.cur).opNo loc 8 repl) = false →
      (∀ e ∈ (t.core s.cur).stores, e.op.overlaps (loadOp (t.core s.cur).opNo loc 8 repl) = false) → t.mem.badIn loc 8 = false →
      (∀ p ∈ (t.core s.cur).prods, p.waiting = false) → (t.core s.cur).late = false →
      let q := t.chargeAccess s.cur.cluster loc 0 8
      let detail := accessDetail cap.cursor.toNat cap.space false
      (x ≠ w → exec (.waita d c b u v) s = .next (q.produce s.cur (some (.x d)) detail (.waited (.word x))))
      ∧ (x = w → exec (.waita d c b u v) s =
          .next ((q.addProducer s.cur (some (.x d)) detail .monitor).waitFor s.cur (.waita (t.core s.cur).opNo loc repl s.now.toNat false))))
    ∧ (∀ (d c b : BitVec 5) (u v : Bool) (s : State) (loc : Nat) (repl : Bool), s.Issues s.cur [⟨.c c, u⟩, ⟨.x b, v⟩] (s.lateDest s.cur (.x d)) →
      let t := (s.takeX s.cur b).2
      let cap := (t.core s.cur).regs.readC c
      t.accessCheck s.cur cap cap.cursor.toNat 8 .waita = .ok loc repl →
      ((∀ p ∈ (t.core s.cur).prods, p.waiting = false) → (t.core s.cur).late = true → exec (.waita d c b u v) s =
        .next ((t.produce s.cur (some (.x d)) (accessDetail cap.cursor.toNat cap.space false) (.arm (s.takeX s.cur b).1 loc repl)).modCore s.cur
          fun k => { k with late := false }))
      ∧ ((∃ p ∈ (t.core s.cur).prods, p.waiting = true) → exec (.waita d c b u v) s = .next (s.stall s.cur)))
    ∧ (∀ (c : CoreId) (s : State) (p : Producer) (no loc : Nat) (w : Word64) (repl : Bool), (s.core c).producer no = some p → p.pending = .arm w loc repl →
      let armed : Pending := if s.mem.badIn loc 8 then .fail .ecc p.detail
        else if .ofNat 64 (leNat (s.mem.read loc 8)) = w then .armed loc repl s.now.toNat false else .waited (.word (.ofNat 64 (leNat (s.mem.read loc 8))))
      (s.mayArm c (loadOp no loc 8 repl) = false → exec (.valueArrival c no) s = .next s)
      ∧ (s.mayArm c (loadOp no loc 8 repl) = true →
        exec (.valueArrival c no) s = .next ((s.chargeAccess c.cluster loc 0 8).modCore c fun k => k.setPending no armed)))
    ∧ (∀ (c : CoreId) (s : State) (p : Producer) (no loc since : Nat) (repl woken : Bool), (∀ n l r t w, (s.core c).wait ≠ .waita n l r t w) →
      p ∈ (s.core c).prods → (∀ q ∈ (s.core c).prods, q.waiting = true → q = p) → (s.core c).producer no = some p → p.pending = .armed loc repl since woken →
      let sleeps := s.copyAsleep c.cluster loc repl || s.replicaPending c (loadOp no loc 8 repl)
      let ended := s.modCore c fun k => k.setPending no (if s.mem.badIn loc 8 then .fail .ecc p.detail else .waited (.word (.ofNat 64 (leNat (s.mem.read loc 8)))))
      (p.firing = (s.core c).firingNo → ∀ (srcs : List Src) (dests : List Reg), s.issueTest c srcs dests = .stall)
      ∧ (woken = true → sleeps = false → exec (.waitaWake c) s = .next ended)
      ∧ (woken = false ∨ sleeps = true → exec (.waitaWake c) s = .next s)
      ∧ (since + 2 ^ 20 ≤ s.now.toNat → sleeps = false → exec (.waitaTimeout c) s = .next ended)
      ∧ (s.now.toNat < since + 2 ^ 20 ∨ sleeps = true → exec (.waitaTimeout c) s = .next s))
    ∧ (∀ (c : CoreId) (s : State) (p : Producer) (no loc since : Nat) (repl woken : Bool), (s.core c).wait = .waita no loc repl since woken →
      (s.core c).producer no = some p →
      let sleeps := s.copyAsleep c.cluster loc repl || s.replicaPending c (loadOp no loc 8 repl)
      let ended := (s.modCore c fun k => k.setPending no (if s.mem.badIn loc 8 then .fail .ecc p.detail
        else .waited (.word (.ofNat 64 (leNat (s.mem.read loc 8)))))).endWait c
      (woken = true → sleeps = false → exec (.waitaWake c) s = .next ended)
      ∧ (woken = false ∨ sleeps = true → exec (.waitaWake c) s = .next s)
      ∧ (since + 2 ^ 20 ≤ s.now.toNat → sleeps = false → exec (.waitaTimeout c) s = .next ended)
      ∧ (s.now.toNat < since + 2 ^ 20 ∨ sleeps = true → exec (.waitaTimeout c) s = .next s))
    ∧ (∀ (c d : CoreId) (s : State) (no loc since at_ n : Nat) (repl : Bool) (f : Memory → Memory), c.core < 16 → d.core < 16 → c ≠ d →
      (s.core c).wait = .waita no loc repl since false → 0 < n → at_ / 64 ≤ loc / 64 → loc / 64 ≤ (at_ + n - 1) / 64 →
      ((s.modMem (some d) at_ n f).core c).wait = .waita no loc repl since true)
    ∧ (∀ (c d : CoreId) (s : State) (p : Producer) (loc since at_ n : Nat) (repl woken : Bool) (f : Memory → Memory), c.core < 16 → d.core < 16 → c ≠ d →
      p ∈ (s.core c).prods → p.pending = .armed loc repl since woken → 0 < n → at_ / 64 ≤ loc / 64 → loc / 64 ≤ (at_ + n - 1) / 64 →
      { p with pending := .armed loc repl since true } ∈ ((s.modMem (some d) at_ n f).core c).prods))

/-- `cbar`, `gbar` and `bmin` (R280 to R282): an arrival is a release: it waits for the core's stores and for everything issued before, loads too (that it waits for
loads is the model's reading, log entry 9); then the core waits at the barrier.
The completion of a cluster barrier (R280): once every gang core of the strand has arrived, each of them goes on, their actors may retire, and the barrier is
empty again; before that nothing happens.
The completion of a barrier tree (R281, R282): once every gang core of every strand has arrived, a `bmin` gives its register the least value that was
carried, and the cores go on. Here for a tree in which every core is named once. -/
def Obligations.Barriers : Prop :=
  (∀ s : State, s.Issues s.cur [] [] →
      let slot := (s.core s.cur).curSlot
      (s.mayArrive s.cur = false → exec .cbar s = .next (s.stall s.cur) ∧ exec .gbar s = .next (s.stall s.cur))
      ∧ (s.mayArrive s.cur = true →
        exec .cbar s = .next ((s.modRope slot.rope fun r =>
          { r with strands := modAt r.strands slot.strand fun st => { st with arrived := st.arrived ++ [s.cur.core] } }).waitFor s.cur .cbar)
        ∧ exec .gbar s = .next ((s.modRope slot.rope fun r => { r with tree := r.tree ++ [(s.cur.cluster, s.cur.core, none)] }).waitFor s.cur (.tree none)))
      ∧ (∀ (d a : BitVec 5) (u : Bool), s.Issues s.cur [⟨.x a, u⟩] (s.lateDest s.cur (.x d)) → s.mayArrive s.cur = true → (s.core s.cur).regs.binding a = .unbound →
        exec (.bmin d a u) s = .next ((s.modRope slot.rope fun r =>
          { r with tree := r.tree ++ [(s.cur.cluster, s.cur.core, some ((s.core s.cur).regs.readX a))] }).waitFor s.cur (.tree (some d)))))
  ∧ (∀ (rope strand : Nat) (s : State) (r : Rope) (st : Strand), s.ropes.get rope = some r → r.strands[strand]? = some st →
      (st.arrived = [] ∨ (∃ k ∈ r.gang strand, k ∉ st.arrived) → exec (.clusterBarrierComplete rope strand) s = .next s)
      ∧ (st.arrived ≠ [] → (∀ k ∈ r.gang strand, k ∈ st.arrived) → st.arrived.Nodup → (∀ k ∈ st.arrived, k < 8) →
        ∃ t, exec (.clusterBarrierComplete rope strand) s = .next t
          ∧ (∀ k ∈ st.arrived, (t.core ⟨st.cluster, k⟩).wait = .none
              ∧ (t.core ⟨st.cluster, k⟩).regs.pc = (s.core ⟨st.cluster, k⟩).pastWait.regs.pc
              ∧ ((s.core ⟨st.cluster, k⟩).running.isSome = true → (t.core ⟨st.cluster, k⟩).curSlot.barred = true))
          ∧ (∃ r', t.ropes.get rope = some r' ∧ (∃ st', r'.strands[strand]? = some st' ∧ st'.arrived = []))
          ∧ t.mem = s.mem))
  ∧ (∀ (rope : Nat) (s : State) (r : Rope), s.ropes.get rope = some r →
      (r.tree = [] ∨ (∃ g ∈ r.gangCores, ∀ a ∈ r.tree, (a.1, a.2.1) ≠ g) → exec (.barrierTreeComplete rope) s = .next s)
      ∧ (r.tree ≠ [] → (∀ g ∈ r.gangCores, ∃ a ∈ r.tree, (a.1, a.2.1) = g) → (r.tree.map fun a => (a.1, a.2.1)).Nodup → (∀ a ∈ r.tree, a.2.1 < 16) →
        (∀ a ∈ r.tree, (s.core ⟨a.1, a.2.1⟩).wait = .tree none ∨ ∃ d, (s.core ⟨a.1, a.2.1⟩).wait = .tree (some d)
          ∧ (s.core ⟨a.1, a.2.1⟩).regs.binding d = .unbound) →
        ∃ t, exec (.barrierTreeComplete rope) s = .next t
          ∧ (∀ a ∈ r.tree, (t.core ⟨a.1, a.2.1⟩).wait = .none ∧ (t.core ⟨a.1, a.2.1⟩).regs.pc = (s.core ⟨a.1, a.2.1⟩).pastWait.regs.pc
            ∧ ∀ d, (s.core ⟨a.1, a.2.1⟩).wait = .tree (some d) → d ≠ 0 →
                (t.core ⟨a.1, a.2.1⟩).regs.readX d = leastOf (r.tree.filterMap fun a => a.2.2))
          ∧ t.mem = s.mem)
      ∧ (∀ vs : List Word64, ∀ v ∈ vs, (leastOf vs).toNat ≤ v.toNat ∧ leastOf vs ∈ vs))

/-- `rds`, `wrs`, `time`, `trap` and `snap` (R318, R320, R340). A snapshot trigger that comes while an earlier one of the partition still spreads merges into it, and
latches nothing; how long one spreads is free (log entry 24), and that all cores latch at once is the model's choice (log entry 55).
What a write to a system register leaves (R8, R181, R199, R200, R318): a read gives the written fields back; a reserved rounding mode leaves RM; a LIMIT
out of its range leaves LIMIT; the read-only registers do not change. A write to HBIND is kept for the boundary, or rejected whole (R269, R270).
What the system registers read as (Table 16-6, Table 04-2, Table 04-3, Table 09-4, Table 16-12, Table 18-6, R320). The model's readings: SHEDMASK.WAIT stays set past the end of
a class's hold-off, until it is restored (log entry 46); VLGRANT.SHFREE is the count of Table 08-1's Meaning at every read (log entry 80). -/
def Obligations.SystemInstructions : Prop :=
  (∀ s : State,
      (∀ (d : BitVec 5) (n : BitVec 12), s.Issues s.cur [] [.x d] →
        exec (.rds d n) s = .next ((s.putX s.cur d (s.readSys s.cur n)).advance s.cur))
      ∧ (∀ (a : BitVec 5) (u : Bool) (n : BitVec 12), s.Issues s.cur [⟨.x a, u⟩] [] →
        exec (.wrs a u n) s = .next (((s.takeX s.cur a).2.writeSys s.cur n (s.takeX s.cur a).1).advance s.cur))
      ∧ (∀ d : BitVec 5, s.Issues s.cur [] [.x d] → (s.core s.cur).own = [] → (s.core s.cur).scales = [] →
        exec (.time d) s = .next ((s.putX s.cur d s.now).advance s.cur))
      ∧ (∀ d : BitVec 5, s.Issues s.cur [] [.x d] → (s.core s.cur).own ≠ [] → exec (.time d) s = .next (s.stall s.cur))
      ∧ (∀ c : BitVec 12, s.Issues s.cur [] [] → exec (.trap c) s = .next (s.trapHere s.cur .soft (c.setWidth 64)))
      ∧ (s.Issues s.cur [] [] → s.spreading (s.partAt s.cur) = false → ∃ t, exec .snap s = .next t ∧ t.mem = s.mem ∧ t.now = s.now
        ∧ (t.core s.cur).regs = { (s.core s.cur).regs with pc := (s.core s.cur).regs.pc + 4 }
        ∧ (s.cur.core < 8 → (s.part (s.partAt s.cur)).base ≤ s.cur.cluster → s.cur.cluster < (s.part (s.partAt s.cur)).base + (s.part (s.partAt s.cur)).len →
            (t.core s.cur).snap.cause = 0 ∧ (t.core s.cur).snap.seq = (s.core s.cur).snap.seq + 1))
      ∧ (s.Issues s.cur [] [] → s.spreading (s.partAt s.cur) = true → exec .snap s = .next (s.advance s.cur)))
  ∧ (∀ (s : State) (c : CoreId) (w : Word64),
      (s.writeSys c 0x000 w).readSys c 0x000 = w &&& 0x1F
      ∧ (s.writeSys c 0x001 w).readSys c 0x001 = w &&& 0x1F
      ∧ ((w.toNat % 8 ≤ 4 → (s.writeSys c 0x002 w).readSys c 0x002 = w &&& 0xF)
        ∧ (5 ≤ w.toNat % 8 → ((s.writeSys c 0x002 w).core c).regs.rm = (s.core c).regs.rm ∧ ((s.writeSys c 0x002 w).core c).regs.sat8 = w.getLsbD 3))
      ∧ ((s.core c).running.isSome = true → 1 ≤ w.toNat % 2 ^ 21 → w.toNat % 2 ^ 21 ≤ 0x100000 →
          ((s.writeSys c 0x010 w).core c).curSlot.limit.toNat = w.toNat % 2 ^ 21 ∧ ((s.writeSys c 0x010 w).core c).left = (s.core c).left)
      ∧ ((w.toNat % 2 ^ 21 = 0 ∨ 0x100000 < w.toNat % 2 ^ 21) → s.writeSys c 0x010 w = s)
      ∧ (∀ n : BitVec 12, n ∉ [0x000, 0x001, 0x002, 0x010, 0x014] → s.writeSys c n w = s))
  ∧ (∀ (s : State) (c : CoreId) (w : Word64) (t : Text), s.textAt c = some t →
      let rejected := w.getLsbD 16 = true ∧ (fieldAt w 8 8 = 0 ∨ fieldAt w 32 22 % 4 ≠ 0 ∨ t.bytes.length ≤ fieldAt w 32 22
        ∨ ∃ k < 8, w.getLsbD (8 + k) = true ∧ ∀ p, (s.core c).curSlot.ins[k]? = some p → p.rate = 0)
      (rejected → ((s.writeSys c 0x014 w).core c).hbad = true ∧ ((s.writeSys c 0x014 w).core c).hbind = (s.core c).hbind)
      ∧ (¬ rejected → ((s.writeSys c 0x014 w).core c).hbad = false ∧ ((s.writeSys c 0x014 w).core c).hbind = (s.core c).hbind ++ [w]))
  ∧ (∀ (s : State) (c : CoreId), let k := s.core c
      (s.readSys c 0x000).toNat = k.regs.flags.toNat ∧ (s.readSys c 0x001).toNat = k.regs.enable.toNat
      ∧ (s.readSys c 0x002).toNat = k.regs.rm.toNat + 8 * (if k.regs.sat8 then 1 else 0)
      ∧ (s.readSys c 0x010).toNat % 2 ^ 32 = k.curSlot.limit.toNat ∧ (s.readSys c 0x010).toNat / 2 ^ 32 = k.left.toNat
      ∧ s.readSys c 0x011 = s.firingId c
      ∧ s.readSys c 0x012 = .ofNat 64 (k.regs.lanes + 2 ^ 8 * k.regs.vl + 2 ^ 16 * s.lanesFree c)
      ∧ (∀ r, s.ropeAt c = some r → s.readSys c 0x013 = .ofNat 64 (k.curSlot.logical + 2 ^ 18 * r.context + 2 ^ 24 * r.vf))
      ∧ (fieldAt (s.readSys c 0x014) 0 62 = 0 ∧ (s.readSys c 0x014).getLsbD 62 = !k.hbind.isEmpty ∧ (s.readSys c 0x014).getLsbD 63 = k.hbad)
      ∧ s.readSys c 0x020 = s.now ∧ s.readSys c 0x029 = k.cycles
      ∧ s.readSys c 0x022 = .ofNat 64 (s.vfAt c) ∧ s.readSys c 0x021 = .ofNat 64 (s.partOfVf (s.vfAt c))
      ∧ (s.readSys c 0x040).toNat = k.snap.seq.toNat + 2 ^ 16 * k.snap.cause.toNat
      ∧ s.readSys c 0x041 = k.snap.cyc ∧ s.readSys c 0x042 = k.snap.sent ∧ s.readSys c 0x043 = k.snap.recv
      ∧ (fieldAt (s.readSys c 0x044) 0 22 = k.snap.pc.toNat ∧ (s.readSys c 0x044).getLsbD 22 = k.snap.valid))
  ∧ (∀ (s : State) (c : CoreId) (r : Rope), s.ropeAt c = some r → let m := s.readSys c 0x015
      let bank := (s.cluster c.cluster).bank c.core
      let own := fun b : Bool => (bank b).owner = some ((s.core c).curSlot.rope, (s.core c).curSlot.strand)
      (m.getLsbD 0 = true ↔ own false) ∧ (m.getLsbD 1 = true ↔ own true) ∧ m.getLsbD 2 = (bank false).poison ∧ m.getLsbD 3 = (bank true).poison
      ∧ fieldAt m 4 2 = ((s.cluster c.cluster).steps.filter fun st : MatStep => st.parts.any fun p => p.core == c.core).length % 4
      ∧ (∀ j < 8, (m.getLsbD (8 + j) = true ↔ j ∈ r.gang (s.core c).curSlot.strand)))
  ∧ (∀ (s : State) (c : CoreId), let part := s.part (s.partOfVf (s.vfAt c))
      s.readSys c 0x023 = .ofNat 64 part.base ∧ s.readSys c 0x024 = .ofNat 64 (part.len + 2 ^ 16 * part.barctx)
      ∧ (s.readSys c 0x026).toNat = part.rate.toNat + 2 ^ 32 * part.burst.toNat
      ∧ (s.readSys c 0x105).toNat = part.allot.toNat + 2 ^ 16 * part.lastWin.toNat + 2 ^ 32 * part.throttle.toNat
      ∧ s.readSys c 0x106 = part.fillAcc
      ∧ (∀ v, s.vfs.get (s.vfAt c) = some v → s.readSys c 0x027 = v.throttleAcc ∧ (s.readSys c 0x028).toNat = v.overrun.toNat + 2 ^ 32 * v.gap.toNat
        ∧ (s.readSys c 0x025).toNat = v.slice.toNat + 2 ^ 32 * (if v.classB then 1 else 0) + 2 ^ 33 * v.floor.toNat + 2 ^ 36 * v.trapWait.toNat
          + 2 ^ 44 * v.faultEp.toNat + 2 ^ 56 * v.seqDie.toNat)
      ∧ (∀ r, s.ropeAt c = some r → (s.readSys c 0x030).toNat = r.reread.toNat ∧ (s.readSys c 0x031).toNat = r.notifyLost.toNat))
  ∧ (∀ (s : State) (c : CoreId), let p := s.power
      (∀ (i st : Nat), p.thermal.toList[i]? = some st → (∀ t ∈ p.thermal.toList, t ≤ 3) →
        fieldAt (s.readSys c 0x100) (8 * i) 8 = (if st = 0 then 128 else if st = 1 then 96 else if st = 2 then 64 else 0)
        ∧ fieldAt (s.readSys c 0x100) (32 + 2 * i) 2 = st)
      ∧ (∀ h, h ∈ p.temp.toList → (∀ t ∈ p.temp.toList, t ≤ h) → h < 256 → (∀ t ∈ p.thermal.toList, t ≤ 3) → fieldAt (s.readSys c 0x100) 40 8 = h)
      ∧ (s.readSys c 0x101).toNat = p.seq.toNat + 2 ^ 16 * p.freq.toNat + 2 ^ 48 * (if p.stale then 1 else 0)
      ∧ (s.readSys c 0x102).toNat = p.vbus.toNat + 2 ^ 32 * p.bad.toNat + 2 ^ 48 * p.gaps.toNat
      ∧ fieldAt (s.readSys c 0x103) 0 8 = p.curve.toNat ∧ fieldAt (s.readSys c 0x103) 8 8 = p.safe.toNat ∧ fieldAt (s.readSys c 0x103) 16 8 = p.shed.toNat
      ∧ (∀ cls < 8, ((s.readSys c 0x103).getLsbD (24 + cls) = true ↔ p.shed.getLsbD cls = true ∧ ∃ t, (cls, t) ∈ p.unnamedSince))
      ∧ (s.readSys c 0x104).toNat = p.lastShed.toNat + 2 ^ 32 * p.lastRest.toNat
      ∧ (∀ (target now : Nat) (vote : BitVec 16), p.target.toList[dieOf c.cluster]? = some target → p.nowMv.toList[dieOf c.cluster]? = some now →
        (s.part (s.partOfVf (s.vfAt c))).votes.toList[dieOf c.cluster]? = some vote →
        s.readSys c 0x107 = .ofNat 64 (target + 2 ^ 16 * now + 2 ^ 32 * vote.toNat + 2 ^ 48 * (if (s.cluster c.cluster).high then 1 else 0)))
      ∧ (s.readSys c 0x108).toNat = p.down.toNat + 2 ^ 16 * p.up.toNat + 2 ^ 32 * p.missed.toNat)

/-- A firing ends (R111): with nothing of it outstanding, `end` frees its slot; with a producer outstanding it waits, and then reports, at its own address, the trap
of one that failed (the first in order of issue, log entry 68). `retire` (R112) is the same for an actor that has been through a `cbar`, leaves the slot RETIRED,
with no message at its ports, or, where its strand retires with it, VACANT, and traps RETIRE for an actor that has not. Its lanes are free from the next core cycle on (R195): how the
model sees the cycles of the cluster's cores is its reading (log entry 16).
What the end of a firing leaves (R111, R108, R270): the claims are discarded, the port registers unbound, the lanes returned, and the other registers as they
are; the writes to HBIND take effect, each on the handler that it names; the slot is free. -/
def Obligations.FiringEnds : Prop :=
  (∀ (s : State) (i : Fin 16), (s.core s.cur).running = some i → (s.core s.cur).wait.mayFinish = true →
      let done := (s.core s.cur).own = [] ∧ (s.core s.cur).scales = []
      (done → exec .endFiring s = .next (((s.stall s.cur).finish s.cur).release s.cur))
      ∧ ((∃ p ∈ (s.core s.cur).own, p.failure = none) →
        exec .endFiring s = .next (s.awaitProducers s.cur) ∧ ((s.core s.cur).slots[i].barred = true → exec .retire s = .next (s.awaitProducers s.cur)))
      ∧ (∀ no code d pc, (∀ p ∈ (s.core s.cur).own, p.failure.isSome = true) → (s.core s.cur).scales = [] →
        (s.core s.cur).failed = some (no, code, d, pc) →
        let t := ((s.stall s.cur).modCore s.cur fun k => k.dropProducer no).takeTrap s.cur code d (s.core s.cur).regs.pc none
        exec .endFiring s = .next t ∧ ((s.core s.cur).slots[i].barred = true → exec .retire s = .next t))
      ∧ (done → (s.core s.cur).slots[i].barred = true →
        ∃ t, exec .retire s = .next t ∧ (t.core s.cur).running = none ∧ ((t.core s.cur).slots[i].phase = .retired ∨ (t.core s.cur).slots[i] = Slot.vacant)
          ∧ t.mem = s.mem)
      ∧ ((s.core s.cur).slots[i].barred = false → exec .retire s = .next (s.trapHere s.cur .retire 0)))
  ∧ (∀ (s : State) (c : CoreId) (i : Fin 16), (s.core c).running = some i →
      let t := (s.finish c).release c
      (t.cluster c.cluster).lanesOwed = ((s.cluster c.cluster).lanesOwed.filter fun e => (List.range 8).any fun n => decide ((s.core ⟨c.cluster, n⟩).cycles.toNat < e.1))
        ++ [((s.core c).cycles.toNat, (s.core c).regs.lanes - 16)]
      ∧ (t.core c).running = none ∧ (t.core c).slots[i].phase = .waiting
      ∧ (t.core c).slots[i].ins = (s.core c).slots[i].ins.map InPort.discard
      ∧ (t.core c).slots[i].handlers = (s.core c).hbind.foldl applyHbind (s.core c).slots[i].handlers ∧ (t.core c).hbind = []
      ∧ (t.core c).regs = { (s.core c).regs with bind := Vector.replicate 4 .unbound, lanes := 0, vl := 0 }
      ∧ (∀ p ∈ (t.core c).prods, p ∈ (s.core c).prods) ∧ (t.core c).stores = (s.core c).stores ∧ (t.core c).sendQ = (s.core c).sendQ
      ∧ t.mem = s.mem
      ∧ ((s.retireSlot c).core c).slots[i].phase = .retired
      ∧ (∀ p ∈ ((s.retireSlot c).core c).slots[i].ins, p.msgs = [] ∧ p.claimed = 0 ∧ p.ring = []))
  ∧ (∀ (hs : List Handler) (w : Word64) (n : Nat) (h : Handler), hs[n]? = some h →
      (applyHbind hs w)[n]? = some (if n = fieldAt w 0 3 then ⟨.ofNat 8 (fieldAt w 8 8), fieldAt w 32 22, w.getLsbD 16⟩ else h))

/-! ## Port, copy and tour instructions -/

/-- `pbind` and `punbind` of ports (R265, R266): a register bound to a port that the actor has; a port that it does not have traps PORT. `punbind` leaves its register
unbound, holding zero, bound before or not.
`pbind` of a stream (R155): the register is bound to the firing's own stream job, with the words that its unit holds for it; a job value that names
none traps ENGINE with the instruction word.
`msend`, `mcount`, `mstat` and `mbind` (R257, R258, R261, R267). `mstat` answers the port's counts as they stand at its issue: the model's choice (log entry 10).
A destination word that asks for refusal replies names an input port of type `sys:2` (0x19), or traps PORT; that DETAIL names the send port then is the model's choice (log entry 107).
While a load that is performed late is still to write a register that is bound to a send port, what comes after it through the send ports stalls (R247; log entry 89). -/
def Obligations.PortInstructions : Prop :=
  (∀ (d : BitVec 5) (k : BitVec 3) (s : State), s.Issues s.cur [] [] → 24 ≤ d.toNat → d.toNat < 28 → (s.core s.cur).awaits d = false →
      (s.core s.cur).sendLate = false →
      ((s.core s.cur).curSlot.ins[k.toNat]?.isSome = true →
        ∃ t, exec (.pbindRecv d k) s = .next t ∧ (t.core s.cur).regs.binding d = .recv k.toNat
          ∧ (∀ n, n ≠ d → (t.core s.cur).regs.binding n ≠ .recv k.toNat) ∧ (t.core s.cur).regs.pc = (s.core s.cur).regs.pc + 4 ∧ t.mem = s.mem)
      ∧ ((s.core s.cur).curSlot.ins[k.toNat]? = none → exec (.pbindRecv d k) s = .next (s.trapHere s.cur .port (portDetail k.toNat false)))
      ∧ ((s.core s.cur).curSlot.outs[k.toNat]?.isSome = true →
        ∃ t, exec (.pbindSend d k) s = .next t ∧ (t.core s.cur).regs.binding d = .send k.toNat []
          ∧ (∀ n ws, n ≠ d → (t.core s.cur).regs.binding n ≠ .send k.toNat ws) ∧ (t.core s.cur).regs.pc = (s.core s.cur).regs.pc + 4 ∧ t.mem = s.mem)
      ∧ ((s.core s.cur).curSlot.outs[k.toNat]? = none → exec (.pbindSend d k) s = .next (s.trapHere s.cur .port (portDetail k.toNat true)))
      ∧ (∃ t, exec (.punbind d) s = .next t ∧ (t.core s.cur).regs.binding d = .unbound ∧ (t.core s.cur).regs.pc = (s.core s.cur).regs.pc + 4
          ∧ (t.core s.cur).regs.readX d = 0 ∧ t.mem = s.mem))
  ∧ (∀ (d a : BitVec 5) (u : Bool) (s : State), s.Issues s.cur [⟨.x a, u⟩] [] → 24 ≤ d.toNat → d.toNat < 28 → (s.core s.cur).awaits d = false →
      (s.core s.cur).regs.binding a = .unbound →
      let v := (s.core s.cur).regs.readX a
      (∀ id j src, s.jobNamed s.cur v = some (id, j) → j.work = .stream src → j.core = s.cur.core → j.firing = (s.core s.cur).firingNo → j.bound = false →
        id < 64 ∧ ∃ t, exec (.pbindStream d a u) s = .next t ∧ (t.core s.cur).regs.binding d = .stream id j.gen j.buf j.undelivered
          ∧ ((t.cluster s.cur.cluster).job id).bound = true ∧ (t.core s.cur).regs.pc = (s.core s.cur).regs.pc + 4 ∧ t.mem = s.mem)
      ∧ (∀ w, s.jobNamed s.cur v = none → encode (.pbindStream d a u) = some w →
        exec (.pbindStream d a u) s = .next (s.trapHere s.cur .engine (.ofNat 64 w.toNat))))
  ∧ (∀ (s : State) (k : BitVec 3), (s.core s.cur).sendLate = true →
      (∀ (a b : BitVec 5) (u v : Bool), s.Issues s.cur [⟨.x a, u⟩, ⟨.x b, v⟩] [] → exec (.msend a b u v k) s = .next (s.stall s.cur))
      ∧ (∀ d : BitVec 5, s.Issues s.cur [] [] → exec (.pbindSend d k) s = .next (s.stall s.cur)))
  ∧ (∀ (s : State) (k : BitVec 3), (s.core s.cur).sendLate = false →
      (∀ (a b : BitVec 5) (u v : Bool) (p : OutPort), s.Issues s.cur [⟨.x a, u⟩, ⟨.x b, v⟩] [] → (s.core s.cur).curSlot.outs[k.toNat]? = some p →
        p.dest.toNat % 2 ^ 36 ≠ 0 → wordsOf p.typ ≤ 2 → (s.core s.cur).regs.sendPartial k.toNat = false → p.sent ≠ p.rate → (s.core s.cur).sendQ.length < 8 →
        s.draining (s.partAt s.cur) = false →
        (exec (.msend a b u v k) s = .next ((((s.takeX s.cur a).2.takeX s.cur b).2.send s.cur k.toNat
          (if wordsOf p.typ = 1 then [(s.takeX s.cur a).1] else [(s.takeX s.cur a).1, ((s.takeX s.cur a).2.takeX s.cur b).1])).advance s.cur)))
      ∧ (∀ (d : BitVec 5) (q : InPort), s.Issues s.cur [] [.x d] → (s.core s.cur).curSlot.ins[k.toNat]? = some q → q.msgs.length < 128 →
        exec (.mcount d k) s = .next ((s.putX s.cur d (.ofNat 64 (if q.rate = 0 then q.msgs.length else
          (q.msgs.length - q.claimed) + 2 ^ 8 * (q.claimed % 128)))).advance s.cur))
      ∧ (∀ (d : BitVec 5) (p : OutPort), s.Issues s.cur [] (s.lateDest s.cur (.x d)) → (s.core s.cur).curSlot.outs[k.toNat]? = some p →
        exec (.mstat d k) s = .next (s.produce s.cur (some (.x d)) 0
          (.mstat k.toNat (p.unanswered.map Prod.fst) p.sent (if p.used then p.seq - 1 else 0xFFFF))))
      ∧ (∀ (a : BitVec 5) (u : Bool) (p : OutPort), s.Issues s.cur [⟨.x a, u⟩] [] → (s.core s.cur).regs.binding a = .unbound →
        (s.core s.cur).curSlot.outs[k.toNat]? = some p →
        let w := (s.core s.cur).regs.readX a
        (w.toNat < 2 ^ 39 → exec (.mbind a u k) s = .next ((s.modCore s.cur fun c => c.modCur fun t =>
          { t with outs := modAt t.outs k.toNat fun p => { p with dest := w } }).advance s.cur))
        ∧ (2 ^ 39 ≤ w.toNat → w.toNat < 2 ^ 40 → ∀ q, (s.core s.cur).curSlot.ins[w.toNat / 2 ^ 36 % 8]? = some q → q.typ = 0x19 →
          exec (.mbind a u k) s = .next ((s.modCore s.cur fun c => c.modCur fun t =>
            { t with outs := modAt t.outs k.toNat fun p => { p with dest := w } }).advance s.cur))
        ∧ (2 ^ 39 ≤ w.toNat → w.toNat < 2 ^ 40 → (∀ q, (s.core s.cur).curSlot.ins[w.toNat / 2 ^ 36 % 8]? = some q → q.typ ≠ 0x19) →
          exec (.mbind a u k) s = .next (s.trapHere s.cur .port (portDetail k.toNat true)))
        ∧ (2 ^ 40 ≤ w.toNat → exec (.mbind a u k) s = .next (s.trapHere s.cur .port (portDetail k.toNat true)))))

/-- `ecfg` of both engines, `cppoll` and `cpwait` (R149, R152, R153, R224). A `cppoll` reads its job's state when its value comes, not at issue: the model's choice (log
entry 97).
`cpq` (R148, R150): a legal descriptor whose rows pass their checks is queued as a job, and the register gets the job value; a unit without room gives
the busy value and queues nothing. An illegal descriptor traps ENGINE, and so does a firing's fifth stream (R156; where the test stands, and what counts, is log
entry 73); a side that fails a check traps with the address of the row that failed: its own alignment, its first row, its last row.
What a descriptor pair says, and when it is legal (Table 06-1, R150; the test of DSTRIDE for a stream is log entry 70).
A job is queued (R148): the first free identifier after the one allocated last, with its next generation, which is the old one plus one, and 1 after 255;
32 queued jobs, or 64 identifiers in use, are busy, and leave the machine as it is. -/
def Obligations.EngineInstructions : Prop :=
  (∀ s : State,
      (∀ (e : BitVec 4) (a b : BitVec 5) (u v : Bool), s.Issues s.cur [⟨.x a, u⟩, ⟨.x b, v⟩] [] →
        let lo := (s.takeX s.cur a).1
        let hi := ((s.takeX s.cur a).2.takeX s.cur b).1
        let t := ((s.takeX s.cur a).2.takeX s.cur b).2
        exec (.ecfgCe e a b u v) s = .next ((t.modRegs s.cur fun r => r.putCe e (.ofNat 128 (lo.toNat + 2 ^ 64 * hi.toNat))).advance s.cur)
        ∧ exec (.ecfgMe e a b u v) s = .next ((t.modRegs s.cur fun r => r.putMe e (.ofNat 128 (lo.toNat + 2 ^ 64 * hi.toNat))).advance s.cur))
      ∧ (∀ (r : Regs) (e : BitVec 4) (w : BitVec 128),
        (r.putCe e w).ce = r.ce.set e.toNat w e.isLt ∧ (r.putCe e w).isBad (.ce e) = false ∧ (r.putCe e w).me = r.me ∧ (r.putCe e w).x = r.x
        ∧ (r.putMe e w).me = r.me.set e.toNat w e.isLt ∧ (r.putMe e w).isBad (.me e) = false ∧ (r.putMe e w).ce = r.ce ∧ (r.putMe e w).x = r.x)
      ∧ (∀ (d a : BitVec 5) (u : Bool), s.Issues s.cur [⟨.x a, u⟩] (s.lateDest s.cur (.x d)) →
        exec (.cppoll d a u) s = .next ((s.takeX s.cur a).2.produce s.cur (some (.x d)) 0 (.poll (s.takeX s.cur a).1)))
      ∧ (∀ (a : BitVec 5) (u : Bool), s.Issues s.cur [⟨.x a, u⟩] [] →
        let t := (s.takeX s.cur a).2
        let st := (t.jobStatus s.cur (s.takeX s.cur a).1).toNat % 8
        (2 ≤ st → exec (.cpwait a u) s = .next (t.advance s.cur))
        ∧ (st < 2 → exec (.cpwait a u) s = .next (t.waitFor s.cur (.cpwait (s.takeX s.cur a).1)))))
  ∧ (∀ (d a b : BitVec 5) (u v : Bool) (k : BitVec 3) (s : State) (w : InstrWord), encode (.cpq d a b u v k) = some w →
      let g := (s.core s.cur).regs.descriptor k
      s.Issues s.cur [⟨.x a, u⟩, ⟨.x b, v⟩, ⟨.c g.src, false⟩, ⟨.c g.dst, false⟩,
        ⟨.ce (.ofNat 4 (2 * k.toNat)), false⟩, ⟨.ce (.ofNat 4 (2 * k.toNat + 1)), false⟩] (s.lateDest s.cur (.x d)) →
      let x := (s.takeX s.cur a).1
      let y := ((s.takeX s.cur a).2.takeX s.cur b).1
      let t := ((s.takeX s.cur a).2.takeX s.cur b).2
      let r := (t.core s.cur).regs
      let sa := (r.readC g.src).cursor.toNat + x.toInt
      let da := (r.readC g.dst).cursor.toNat + y.toInt
      (g.legal = false → exec (.cpq d a b u v k) s = .next (s.trapHere s.cur .engine (.ofNat 64 w.toNat)))
      ∧ (g.legal = true → g.stream = true → 4 ≤ (t.core s.cur).streams → exec (.cpq d a b u v k) s = .next (s.trapHere s.cur .engine (.ofNat 64 w.toNat)))
      ∧ (∀ code e, g.legal = true → (g.stream = true → (t.core s.cur).streams < 4) → t.sideFails s.cur (r.readC g.src) sa g.sstride g .load = some (code, e) →
        exec (.cpq d a b u v k) s = .next (s.trapHere s.cur code e))
      ∧ (∀ code e, g.legal = true → g.stream = false → t.sideFails s.cur (r.readC g.src) sa g.sstride g .load = none →
        t.sideFails s.cur (r.readC g.dst) da g.dstride g .copyTo = some (code, e) → exec (.cpq d a b u v k) s = .next (s.trapHere s.cur code e))
      ∧ (g.legal = true → g.stream = false → t.sideFails s.cur (r.readC g.src) sa g.sstride g .load = none →
        t.sideFails s.cur (r.readC g.dst) da g.dstride g .copyTo = none →
        let q := t.queueJob s.cur (.copy ⟨(r.readC g.src).space, sa.toNat, g.sstride⟩ ⟨(r.readC g.dst).space, da.toNat, g.dstride⟩) g.rowBytes g.rows
        exec (.cpq d a b u v k) s = .next (q.2.produce s.cur (some (.x d)) 0 (.answer (.word q.1))))
      ∧ (g.legal = true → g.stream = true → (t.core s.cur).streams < 4 → t.sideFails s.cur (r.readC g.src) sa g.sstride g .load = none →
        let q := t.queueJob s.cur (.stream ⟨(r.readC g.src).space, sa.toNat, g.sstride⟩) g.rowBytes g.rows
        ∃ z : State, exec (.cpq d a b u v k) s = .next (z.produce s.cur (some (.x d)) 0 (.answer (.word q.1))) ∧ z.clusters = q.2.clusters ∧ z.mem = t.mem))
  ∧ (∀ (s : State) (c : CoreId) (cap : Cap) (a stride : Int) (g : Descriptor) (kind : AccKind), let last := a + (g.rows - 1 : Nat) * stride
      (a % 8 ≠ 0 → s.sideFails c cap a stride g kind = some (.align, accessDetail a cap.space kind.w))
      ∧ (∀ code, a % 8 = 0 → s.rangeFails c cap a g.rowBytes kind = some code → s.sideFails c cap a stride g kind = some (code, accessDetail a cap.space kind.w))
      ∧ (∀ code, a % 8 = 0 → s.rangeFails c cap a g.rowBytes kind = none → s.rangeFails c cap last g.rowBytes kind = some code →
        s.sideFails c cap a stride g kind = some (code, accessDetail last cap.space kind.w))
      ∧ (a % 8 = 0 → s.rangeFails c cap a g.rowBytes kind = none → s.rangeFails c cap last g.rowBytes kind = none → s.sideFails c cap a stride g kind = none))
  ∧ (∀ (r : Regs) (k : BitVec 3) (lo hi : BitVec 128), r.ce[2 * k.toNat]? = some lo → r.ce[2 * k.toNat + 1]? = some hi →
      let g := r.descriptor k
      g.src.toNat = lo.toNat % 2 ^ 5 ∧ g.dst.toNat = lo.toNat / 2 ^ 5 % 2 ^ 5 ∧ (g.stream = true ↔ lo.toNat / 2 ^ 10 % 4 = 1)
      ∧ g.rowBytes = lo.toNat / 2 ^ 32 % 2 ^ 24 ∧ g.rows = lo.toNat / 2 ^ 64 % 2 ^ 16 + 1
      ∧ g.sstride = signedField (hi.toNat % 2 ^ 64) 64 ∧ g.dstride = signedField (hi.toNat / 2 ^ 64) 64
      ∧ (g.legal = true ↔ lo.toNat / 2 ^ 12 % 2 ^ 20 = 0 ∧ lo.toNat / 2 ^ 56 % 2 ^ 8 = 0 ∧ lo.toNat / 2 ^ 80 = 0 ∧ lo.toNat / 2 ^ 10 % 4 ≤ 1
          ∧ 0 < g.rowBytes ∧ g.rowBytes % 8 = 0 ∧ (1 < g.rows → g.sstride % 8 = 0 ∧ g.dstride % 8 = 0) ∧ (g.stream = true → g.dst = 0)))
  ∧ (∀ (s : State) (c : CoreId) (work : JobWork) (rb rows : Nat),
      let k := s.cluster c.cluster
      ((32 ≤ k.queue.length ∨ ∀ id < 64, (k.job id).taken = true) → s.queueJob c work rb rows = (0x8000000000000000, s))
      ∧ (∀ id, k.queue.length < 32 → id < 64 → (k.job id).taken = false →
        (∀ j, (j + 64 - (k.jobPtr.toNat + 1)) % 64 < (id + 64 - (k.jobPtr.toNat + 1)) % 64 → j < 64 → (k.job j).taken = true) →
        let gen : BitVec 8 := if (k.job id).gen = 255 then 1 else (k.job id).gen + 1
        (s.queueJob c work rb rows).1 = .ofNat 64 (id + 2 ^ 8 * gen.toNat)
          ∧ (((s.queueJob c work rb rows).2.cluster c.cluster).job id).gen = gen
          ∧ (((s.queueJob c work rb rows).2.cluster c.cluster).job id).state = .queued
          ∧ (((s.queueJob c work rb rows).2.cluster c.cluster).job id).work = work
          ∧ ((s.queueJob c work rb rows).2.cluster c.cluster).queue = k.queue ++ [id]
          ∧ (∀ j, j ≠ id → ((s.queueJob c work rb rows).2.cluster c.cluster).job j = k.job j)
          ∧ (s.queueJob c work rb rows).2.mem = s.mem))

/-- `tour`, `cast`, `tstat` and `tslot` (R157, R158, R161, R162, R168): a tour is queued as a job; a tile that the firing's actor holds is cast off, tells
its misses, or gives a capability to its slot; a handle that it does not hold traps TOURREVOKED. A tile is cast off though no firing claimed its arrival message:
the model's choice (log entry 75). -/
def Obligations.TourInstructions : Prop :=
  ∀ s : State,
    (∀ (d a c : BitVec 5) (u v : Bool) (r : Rope), s.Issues s.cur [⟨.x a, u⟩, ⟨.c c, v⟩] (s.lateDest s.cur (.x d)) → s.ropeAt s.cur = some r →
      (s.core s.cur).regs.binding a = .unbound →
      let w := (s.core s.cur).regs.readX a
      let cap := (s.core s.cur).regs.readC c
      let len := w.toNat / 2 ^ 16 % 2 ^ 17
      w.toNat < 2 ^ 33 → w.toNat % 2 ^ 16 < r.decl.itins.length → 0 < len → len ≤ 65536 → len % 8 = 0 → cap.cursor.toNat % 8 = 0 →
      s.rangeFails s.cur cap cap.cursor.toNat len .load = none →
      let q := s.queueJob s.cur (.tour ⟨cap.space, cap.cursor.toNat, 0⟩ (w.toNat % 2 ^ 16)) len 1
      ∃ z : State, exec (.tour d a c u v) s = .next (z.produce s.cur (some (.x d)) 0 (.answer (.word q.1))) ∧ z.clusters = q.2.clusters ∧ z.mem = s.mem ∧ z.cores = s.cores)
    ∧ (∀ (d a : BitVec 5) (u : Bool) (n : Nat) (t : Tour), (s.core s.cur).regs.binding a = .unbound →
      s.heldTour s.cur ((s.core s.cur).regs.readX a) = some (n, t) →
      (s.Issues s.cur [⟨.x a, u⟩] [] → exec (.cast a u) s = .next ((s.modTour n fun t => { t with phase := .leaving, holdFrom := none }).advance s.cur))
      ∧ (s.Issues s.cur [⟨.x a, u⟩] [.x d] → exec (.tstat d a u) s = .next ((s.putX s.cur d t.mask).advance s.cur))
      ∧ (∀ slot cl, t.at_ = some (cl, slot) → s.Issues s.cur [⟨.x a, u⟩] [.c d] →
        ∃ k : Cap, exec (.tslot d a u) s = .next ((s.modRegs s.cur fun r => r.putC d k).advance s.cur)
          ∧ k.tag = true ∧ k.space = 3 ∧ k.perm = 1 ∧ k.base = .ofNat 52 (slot * 2 ^ 16) ∧ k.cursor = k.base ∧ (t.len ≤ 65536 → k.len = roundLen t.len)))
    ∧ (∀ (d a : BitVec 5) (u : Bool), (s.core s.cur).regs.binding a = .unbound → s.heldTour s.cur ((s.core s.cur).regs.readX a) = none →
      let revoked := s.trapHere s.cur .tourRevoked (.ofNat 64 (((s.core s.cur).regs.readX a).toNat % 32 * 2 ^ 16 + 3 * 2 ^ 52))
      (s.Issues s.cur [⟨.x a, u⟩] [] → exec (.cast a u) s = .next revoked)
      ∧ (s.Issues s.cur [⟨.x a, u⟩] [.x d] → exec (.tstat d a u) s = .next revoked)
      ∧ (s.Issues s.cur [⟨.x a, u⟩] [.c d] → exec (.tslot d a u) s = .next revoked))

/-! ## Matrix, reduction and translation instructions -/

/-- The gang forms (R231): every one of the 17, at a core whose checks at issue pass, waits at the wired barrier with its operands, and takes no word from a port
until the step starts (R234); a check that fails traps with what it reports.
The checks (R231): a gang without core 0, reserved bits of the operands and an illegal geometry trap ENGINE; so does a bank that is poisoned or not the strand's, unless the
form zeroes it, where nothing else fails.
`mzero` and `mdrain` at issue (R235, R236): a bank that no step still writes is zero and the strand's; a drain of an owned, sound bank to rows that pass
their checks waits for its writes; a bank that is not the strand's traps ENGINE, and a poisoned one ECC, with a DETAIL of 0 (log entry 23). -/
def Obligations.MatrixInstructions : Prop :=
  (∀ (i : Instr) (f : GangInstr) (s : State) (w : InstrWord), gangInstr i = some f → encode i = some w → s.Issues s.cur (f.srcs s) f.dests →
      let op1 := (s.takeX s.cur f.a).1
      let op2 := ((s.takeX s.cur f.a).2.takeX s.cur f.b).1
      let g : GangForm := ⟨f.pair, op1, op2, f.a, f.b, f.scale.getD 0, f.zero, f.tile, f.bank, (s.core s.cur).opNo⟩
      (s.gangFails s.cur g (.ofNat 64 w.toNat) = none →
        exec i s = .next (s.waitFor s.cur (.gang f.pair op1 op2 f.a f.b (f.scale.getD 0) f.zero f.tile f.bank (s.core s.cur).opNo)))
      ∧ (∀ code e, s.gangFails s.cur g (.ofNat 64 w.toNat) = some (code, e) → exec i s = .next (s.trapHere s.cur code e)))
  ∧ (∀ (s : State) (c : CoreId) (g : GangForm) (word : Word64),
      ((0 ∉ s.gangAt c ∨ g.op1.toNat / 2 ^ 48 ≠ 0 ∨ fieldAt g.op2 48 8 ≠ 0 ∨ (c.core = 0 ∧ g.tile = true ∧ g.op2.getLsbD 39 = true)
        ∨ (c.core = 0 ∧ g.tile = false ∧ fieldAt g.op2 32 8 ≠ 0) ∨ (s.core c).regs.geometryLegal g.pair = false) → s.gangFails c g word = some (.engine, word))
      ∧ (let bank := (s.cluster c.cluster).bank c.core g.bank
        s.gangFails c { g with zero := true } word = none →
          s.gangFails c { g with zero := false } word =
            if bank.owner = some ((s.core c).curSlot.rope, (s.core c).curSlot.strand) ∧ bank.poison = false then none else some (.engine, word)))
  ∧ (∀ s : State,
      (∀ (k : Bool) (w : InstrWord), s.Issues s.cur [] [] → encode (.mzero k) = some w → 0 ∉ s.gangAt s.cur →
        exec (.mzero k) s = .next (s.trapHere s.cur .engine (.ofNat 64 w.toNat)))
      ∧ (∀ k : Bool, s.Issues s.cur [] [] → 0 ∈ s.gangAt s.cur → (s.cluster s.cur.cluster).bankPending s.cur.core k = false →
        exec (.mzero k) s = .next ((s.modCluster s.cur.cluster fun q => q.modBank s.cur.core k fun _ =>
          ⟨some ((s.core s.cur).curSlot.rope, (s.core s.cur).curSlot.strand), 0, false⟩).advance s.cur))
      ∧ (∀ (a b : BitVec 5) (u v : Bool) (f : BitVec 2) (k : Bool),
        s.Issues s.cur [⟨.x a, u⟩, ⟨.x b, v⟩, ⟨.c (s.core s.cur).regs.dCap, false⟩, ⟨.me 1, false⟩] [] →
        let off := (s.takeX s.cur a).1
        let pitch := ((s.takeX s.cur a).2.takeX s.cur b).1
        let t := ((s.takeX s.cur a).2.takeX s.cur b).2
        let r := (t.core s.cur).regs
        let bank := (t.cluster s.cur.cluster).bank s.cur.core k
        let slot := (t.core s.cur).curSlot
        let cap := r.readC r.dCap
        let d : Int := cap.cursor.toNat + off.toInt
        ((t.cluster s.cur.cluster).bankPending s.cur.core k = true → exec (.mdrain a b u v f k) s = .next (s.stall s.cur))
        ∧ (∀ w, encode (.mdrain a b u v f k) = some w → (t.cluster s.cur.cluster).bankPending s.cur.core k = false →
          (bank.owner ≠ some (slot.rope, slot.strand) → exec (.mdrain a b u v f k) s = .next (s.trapHere s.cur .engine (.ofNat 64 w.toNat)))
          ∧ (bank.owner = some (slot.rope, slot.strand) → bank.poison = true → exec (.mdrain a b u v f k) s = .next (s.trapHere s.cur .ecc 0)))
        ∧ ((t.cluster s.cur.cluster).bankPending s.cur.core k = false → bank.owner = some (slot.rope, slot.strand) → bank.poison = false →
        r.me[1].toNat / 2 ^ 5 % 8 = 0 → r.me[1].toNat / 2 ^ 13 % 8 = 0 → r.me[1].toNat / 2 ^ 21 = 0 → pitch.toNat % 8 = 0 → 128 * drainBytes f ≤ pitch.toNat → d % 8 = 0 →
        t.checkRows s.cur cap d pitch.toNat (128 * drainBytes f) 16 .drain = none → (t.core s.cur).stores = [] →
        exec (.mdrain a b u v f k) s = .next (t.waitFor s.cur (.mdrain cap.space d.toNat pitch.toNat f r.sat8 k 0)))))

/-- `redslot`, `redput`, `redget` and `redfree` (R299, R301, R303, R304): each sends its request to the router that its operand names; `redslot` and `redget`
leave their register empty for the answer. While the partition's network drains, a request waits at issue (R293); its packet is injected and charged at once where the
limiter's bucket in the cluster is not empty, and else waits at injection (R294); what it is charged is the model's choice (log entry 7).
`tlbw` and `tlbinv` (R330, R331): on a TSC they write and remove entries of the TLBs of the selected cores; on a compute core they trap ILLEGAL. An
entry replaces that of its own VF, size and page, or else stands at the pointer, and the others stay; of two that map one address the latest counts, and an earlier one gives no
translation for it any more when the latest has left (R250), which is the model's choice (log entry 69); that `tlbw` takes the tag word first from one bound register is log entry 66. -/
def Obligations.NetworkInstructions : Prop :=
  (∀ s : State,
      (∀ (d a b : BitVec 5) (u v : Bool) (w : InstrWord), encode (.redslot d a b u v) = some w → s.Issues s.cur [⟨.x a, u⟩, ⟨.x b, v⟩] (s.lateDest s.cur (.x d)) →
        let w1 := (s.takeX s.cur a).1
        let w2 := ((s.takeX s.cur a).2.takeX s.cur b).1
        let t := ((s.takeX s.cur a).2.takeX s.cur b).2
        (redslotBad w1 w2 = false → t.requestWaits s.cur = true → exec (.redslot d a b u v) s = .next (s.stall s.cur))
        ∧ (redslotBad w1 w2 = false → t.requestWaits s.cur = false → ∃ z : State, exec (.redslot d a b u v) s = .next (z.produce s.cur (some (.x d)) 0 .redslot)
          ∧ z.cores = t.cores ∧ z.mem = t.mem
          ∧ z.parts = (if t.limiterOpen (t.partAt s.cur) s.cur.cluster then t.charge (t.partAt s.cur) s.cur.cluster 16 else t).parts
          ∧ (z.cluster (w1.toNat / 2 ^ 32 % 256)).redReqs = (t.cluster (w1.toNat / 2 ^ 32 % 256)).redReqs ++ [t.redRequest s.cur w1 w2 w])
        ∧ (redslotBad w1 w2 = true → exec (.redslot d a b u v) s = .next (s.trapHere s.cur .engine (.ofNat 64 w.toNat))))
      ∧ (∀ (a b : BitVec 5) (u v : Bool), s.Issues s.cur [⟨.x a, u⟩, ⟨.x b, v⟩] [] →
        let h := (s.takeX s.cur a).1
        let t := ((s.takeX s.cur a).2.takeX s.cur b).2
        handleReserved h = false → h.getLsbD 39 = false → (t.core s.cur).sendLate = false → (t.core s.cur).sendQ.length < 8 → t.draining (t.partAt s.cur) = false →
        exec (.redput a b u v) s = .next ((t.modCore s.cur fun k => { k with sendQ := k.sendQ ++
          [⟨k.opNo, k.curIndex, k.curSlot.rope, k.firingNo, none, 0, plainMsg 0 [h, ((s.takeX s.cur a).2.takeX s.cur b).1], 0, 0⟩] }).advance s.cur))
      ∧ (∀ (d a : BitVec 5) (u : Bool) (w : InstrWord),
        let h := (s.takeX s.cur a).1
        let t := (s.takeX s.cur a).2
        let cl := h.toNat / 2 ^ 8 % 256
        let paid := (if t.limiterOpen (t.partAt s.cur) s.cur.cluster then t.charge (t.partAt s.cur) s.cur.cluster 8 else t).parts
        handleReserved h = false → t.requestWaits s.cur = false →
        (encode (.redget d a u) = some w → s.Issues s.cur [⟨.x a, u⟩] (s.lateDest s.cur (.x d)) →
          ∃ z : State, exec (.redget d a u) s = .next (z.produce s.cur (some (.x d)) 0 .redget) ∧ z.cores = t.cores ∧ z.mem = t.mem ∧ z.parts = paid
            ∧ (z.cluster cl).redGets = (t.cluster cl).redGets ++ [t.redRequest s.cur h 0 w])
        ∧ (encode (.redfree a u) = some w → s.Issues s.cur [⟨.x a, u⟩] [] →
          ∃ z : State, exec (.redfree a u) s = .next (z.advance s.cur) ∧ z.cores = t.cores ∧ z.mem = t.mem ∧ z.parts = paid
            ∧ (z.cluster cl).redFrees = (t.cluster cl).redFrees ++ [t.redRequest s.cur h 0 w])))
  ∧ (∀ (s : State) (d a : BitVec 5) (u : Bool),
      (∀ w, s.cur.core ≠ 8 → encode (.tlbw d a u) = some w → exec (.tlbw d a u) s = .next (s.trapHere s.cur .illegal (.ofNat 64 w.toNat)))
      ∧ (∀ w, s.cur.core ≠ 8 → encode (.tlbinv a u) = some w → exec (.tlbinv a u) s = .next (s.trapHere s.cur .illegal (.ofNat 64 w.toNat)))
      ∧ (s.cur.core = 8 → s.Issues s.cur [⟨.x d, false⟩, ⟨.x a, u⟩] [] →
        let tag := (s.takeX s.cur a).1
        let frame := ((s.takeX s.cur a).2.takeX s.cur d).1
        let t := ((s.takeX s.cur a).2.takeX s.cur d).2
        let e := tlbEntryOf tag frame
        tag.toNat < 2 ^ 55 → frame.toNat < 2 ^ 26 → e.vpn.toNat % 2 ^ (pageBits e.size - 16) = 0 →
        exec (.tlbw d a u) s = .next ((t.tlbInstall s.cur.cluster (tagCores tag) e).advance s.cur))
      ∧ (s.cur.core = 8 → s.Issues s.cur [⟨.x a, u⟩] [] →
        let tag := (s.takeX s.cur a).1
        let t := (s.takeX s.cur a).2
        tag.toNat < 2 ^ 56 → t.deviceApplied s.cur.cluster (tagCores tag) = true →
        exec (.tlbinv a u) s = .next ((t.tlbRemove s.cur.cluster (tagCores tag) tag).advance s.cur))
      ∧ (∀ (k : Core) (e : TlbEntry),
        (∀ i (h : i < 64), (k.tlb[i].any e.samePage) = true → (∀ j (hj : j < i), (k.tlb[j].any e.samePage) = false) →
          (k.tlbWrite e).tlb = k.tlb.set i (some e) h ∧ (k.tlbWrite e).tlbPtr = k.tlbPtr)
        ∧ ((∀ i (h : i < 64), (k.tlb[i].any e.samePage) = false) →
          (k.tlbWrite e).tlb = k.tlb.set k.tlbPtr.toNat (some e) k.tlbPtr.isLt ∧ (k.tlbWrite e).tlbPtr = k.tlbPtr + 1))
      ∧ (∀ (k : Core) (e : TlbEntry) (vf va : Nat) (write : Bool), e.maps vf va = true →
        (k.tlbWrite e).tlbFind vf va write = (if (if write then e.w else e.r) = true then some e else none)
        ∧ ∀ e' y : TlbEntry, e'.maps vf va = false → ((k.tlbWrite e).tlbWrite e').tlbFind vf va write = some y → y = e))

/-! ## Launch, firings, and how they end -/

/-- `LAUNCH_MESSAGE`, `PLACE_ROPE`, `ROPE_START` and `START_MESSAGE_REOFFER` (R75, R77, R78, R91 to R96). A launch message that passes its checks becomes
a queued cable, one that fails them becomes nothing; both are answered. The head cable's next rope is placed whole, and cannot fire; its start
sends a message to every actor whose port 0 is `data:1`, and it can fire once all of them are accepted. A rope that has ended starts no more, and one waits while a write
of an earlier owner can still reach its extents (R95). Where the launcher may not put the argument block (R45), it chooses another place first: the model's choice (log entry
5); that the image is read again at placement and at the start is log entry 34. A launch whose image or arguments lie in a stack that takes no access waits (R361; log
entry 56). More of the model's choices: the launcher's own accesses go by the system's network and no limiter (log entry 57); nothing is placed in a partition that is stopped (log
entry 99); the copy of the arguments, the placement table and the loaded text have no address in device memory (log entry 100). -/
def Obligations.LaunchEvents : Prop :=
  (∀ (vf : Nat) (v : Vf) (msg : Msg) (rest : List Msg) (s : State), s.vfs.get vf = some v → v.launchPort = msg :: rest →
    let m : LaunchWords := ⟨msg.words⟩
    let tag := (m.w[7]?).getD 0
    let waits := s.imageAsleep vf (.ofNat 52 (m.bits 1 0 52)) || s.deviceAsleep vf (m.bits 2 0 52) (m.bits 3 0 13) false
    (waits = true → exec (.launchMessage vf) s = .next s)
    ∧ (∀ st, waits = false → s.launchCheck vf v m = .inr st → ∃ t p, exec (.launchMessage vf) s = .next t ∧ t.flight = s.flight ++ [p] ∧ p.dest = (m.w[6]?).getD 0
      ∧ p.msg = statusMsg m.cable st tag ∧ t.cables = s.cables ∧ t.vfs.get vf = some { v with launchPort := rest } ∧ t.mem = s.mem)
    ∧ (∀ args, waits = false → s.launchCheck vf v m = .inl args → (∀ d ∈ m.deps, (s.liveCable vf (.ofNat 16 d)).isSome = true ∨ v.completion.get d ≠ some 2) →
      ∃ t p x, exec (.launchMessage vf) s = .next t ∧ t.flight = s.flight ++ [p] ∧ p.dest = (m.w[6]?).getD 0 ∧ p.msg = statusMsg m.cable ⟨0, 0, false⟩ tag
        ∧ t.cables.get s.fresh = some x ∧ x.vf = vf ∧ x.name = .ofNat 16 m.cable ∧ x.cls = .ofNat 3 m.cls ∧ x.ropes = m.ropes ∧ x.args = args
        ∧ x.state = .queued ∧ (∀ n, n ≠ s.fresh → t.cables.get n = s.cables.get n) ∧ t.mem = s.mem))
  ∧ (∀ (vf n ctx ptr : Nat) (v : Vf) (c : Cable) (im : Image) (d : RopeDecl) (t : State) (strands : List Strand) (table : List (BitVec 32)) (s : State),
    s.vfs.get vf = some v → s.headCable vf = some (n, c) → s.cables.get n = some c → s.holdsSlice vf = true → (s.part v.part).halted = false →
    s.imageAsleep vf c.image = false → s.readImage vf c.image = .inl im → ((c.ropes[c.next]?).bind fun r => im.ropes[r]?) = some d → s.freeContext vf (s.part v.part) = some ctx →
    (s.placeStrands (s.part v.part) s.fresh d.strands.zipIdx v.ptr [] = some (t, ptr, strands, table) →
      ∃ u r v' c', exec (.placeRope vf) s = .next u ∧ u.ropes.get s.fresh = some r ∧ r.vf = vf ∧ r.decl = d ∧ r.context = ctx ∧ r.strands = strands
        ∧ r.placement = table ∧ r.fireable = false ∧ r.scrubbed = false ∧ r.shed = (if s.classShed d.cls then .stopped else .none)
        ∧ u.vfs.get vf = some v' ∧ v'.ptr = ptr ∧ u.cables.get n = some c' ∧ c'.next = c.next + 1 ∧ c'.placed = c.placed ++ [s.fresh]
        ∧ c'.state = (if c.ropes.length ≤ c.next + 1 then .running else .inLaunch) ∧ u.cores = t.cores ∧ u.mem = s.mem)
    ∧ (s.placeStrands (s.part v.part) s.fresh d.strands.zipIdx v.ptr [] = none → exec (.placeRope vf) s = .next s))
  ∧ (∀ (rope : Nat) (r : Rope) (im : Image) (s : State), s.ropes.get rope = some r → r.scrubbed = false → r.ending = none →
    (∀ st ∈ r.strands, st.retired = false) → s.extentsBusy r = false → s.imageAsleep r.vf r.image = false →
    s.deviceAsleep r.vf r.argVa.toNat r.argLen false = false → s.argPlaced rope r = true → s.readImage r.vf r.image = .inl im →
    let starts := r.decl.allActors.filterMap fun e => if (e.2.ins[0]?).map PortDecl.typ = some 0 then some e.1 else none
    ∃ t r', exec (.ropeStart rope) s = .next t ∧ t.ropes.get rope = some r' ∧ r'.scrubbed = true ∧ r'.toStart = starts ∧ (r'.fireable = true ↔ starts = [])
      ∧ s.flight <+: t.flight ∧ (t.flight.drop s.flight.length).map Packet.startOf = starts.map fun l => some (rope, l))
  ∧ (∀ (rope : Nat) (r : Rope) (s : State), s.ropes.get rope = some r →
    ((r.scrubbed = true ∨ r.ending.isSome = true ∨ (∃ st ∈ r.strands, st.retired = true) ∨ s.extentsBusy r = true) → exec (.ropeStart rope) s = .next s)
    ∧ ((∃ st ∈ r.strands, ∃ x ∈ st.extents, ∃ k < 8, ∃ a ∈ s.unperformed ⟨st.cluster, k⟩, a.store = true
        ∧ a.loc < locScratch st.cluster x.core x.base + x.len ∧ locScratch st.cluster x.core x.base < a.loc + a.bytes) → s.extentsBusy r = true)
    ∧ (r.scrubbed = false → r.ending = none → (∀ st ∈ r.strands, st.retired = false) → s.extentsBusy r = false → s.imageAsleep r.vf r.image = false →
      s.deviceAsleep r.vf r.argVa.toNat r.argLen false = false → s.argPlaced rope r = false →
      ∃ (t : State) (va : BitVec 52), exec (.ropeStart rope) s = .next t ∧ t.ropes.get rope = some { r with argVa := va } ∧ va.toNat % 2 ^ 16 = 0
        ∧ t.mem = s.mem ∧ t.flight = s.flight ∧ t.cores = s.cores))
  ∧ (∀ (rope actor : Nat) (r : Rope) (s : State), s.ropes.get rope = some r →
    (actor ∈ r.toStart → (∀ p ∈ s.flight, p.startOf ≠ some (rope, actor)) → ∃ t p, exec (.startMessageReoffer rope actor) s = .next t
      ∧ t.flight = s.flight ++ [p] ∧ p.startOf = some (rope, actor) ∧ p.dest = mailboxAddress r.vf r.context actor 0 ∧ t.ropes = s.ropes ∧ t.cores = s.cores)
    ∧ ((actor ∉ r.toStart ∨ ∃ p ∈ s.flight, p.startOf = some (rope, actor)) → exec (.startMessageReoffer rope actor) s = .next s))

/-- `FIRING_START` (R24, R99, R100, R107, R108, R109): the READY slot of the lowest class, and of those the first after that class's pointer, fires its
lowest enabled handler; the messages of its ports are claimed, and the registers, the counts and FIRINGID are those of Table 04-4. Before that, a tile at a stop of the core
whose hold count has passed its limit expires (R159, R170): `expireOverdue`, which leaves the machine as it is where there is none. -/
def Obligations.FiringStarts : Prop :=
  (∀ (s : State) (c : CoreId), ((s.core c).running.isSome = true ∨ 8 ≤ c.core) → exec (.firingStart c) s = .next s)
  ∧ (∀ (s : State) (c : CoreId), (s.core c).running = none → c.core < 8 → (s.expireOverdue c).pickSlot c = none → exec (.firingStart c) s = .next (s.expireOverdue c))
  ∧ (∀ (s : State) (c : CoreId),
    ((∀ e ∈ s.tours, (e.2.phase = .held ∨ e.2.phase = .arrived) → s.tileOverdue e.2 = true → ∀ p, s.stopActor e.2 = some p → p.1 ≠ c) → s.expireOverdue c = s)
    ∧ (s.expireOverdue c).mem = s.mem ∧ ((s.expireOverdue c).core c).regs = (s.core c).regs)
  ∧ (∀ (s : State) (c : CoreId) (i cls : Nat), s.pickSlot c = some (i, cls) →
    (i, cls) ∈ s.readySlots c ∧ ∀ e ∈ s.readySlots c, cls ≤ e.2
      ∧ ∀ p, (s.core c).pointers.toList[cls]? = some p → e.2 = cls → (i + 15 - p.toNat) % 16 ≤ (e.1 + 15 - p.toNat) % 16)
  ∧ (∀ (s0 : State) (c : CoreId) (i cls hn : Nat) (h : Handler) (r : Rope), c.core < 8 → (s0.core c).running = none →
    let s := s0.expireOverdue c
    s.pickSlot c = some (i, cls) →
    let t := (s.core c).slot i
    t.chosen = some hn → t.handlers[hn]? = some h → s.ropes.get t.rope = some r →
    ∃ u, exec (.firingStart c) s0 = .next u ∧ u.mem = s0.mem
      ∧ (u.core c).running.map Fin.val = some i ∧ (u.core c).handler = .ofNat 3 hn ∧ (u.core c).left = t.limit ∧ (u.core c).budget = t.limit
      ∧ (u.core c).wait = .none ∧ (u.core c).park = none ∧ (u.core c).firingNo = (s.core c).firingNo + 1
      ∧ (u.core c).streams = 0 ∧ (u.core c).hbind = [] ∧ (u.core c).hbad = false
      ∧ ((u.core c).slot i).phase = .firing
      ∧ ((u.core c).slot i).ins = (t.ins.zipIdx.map fun e => { e.1 with claimed := if h.mask.getLsbD e.2 then e.1.rate else 0, readWords := 0 })
      ∧ ((u.core c).slot i).outs = (t.outs.map fun q => { q with sent := 0, refusals := [] })
      ∧ (hn < 8 → u.firingId c = .ofNat 64 (i + 2 ^ 4 * hn + 2 ^ 8 * r.decl.cls.toNat + 2 ^ 16 * (128 * t.strand + t.actor) + 2 ^ 32 * r.pos))
      ∧ (cls < 8 → (u.core c).pointers.toList[cls]? = some (.ofNat 4 i))
      ∧ let q := (u.core c).regs
        q.pc = .ofNat 64 h.entry ∧ q.readX 10 = .ofNat 64 t.actor ∧ q.readX 11 = .ofNat 64 t.strand
        ∧ q.readX 12 = .ofNat 64 ((((List.range 8).filter fun k => h.mask.getLsbD k).head?).getD 0)
        ∧ (∀ n : BitVec 5, n ≠ 10 → n ≠ 11 → n ≠ 12 → q.readX n = 0) ∧ (∀ n : BitVec 5, q.readF n = 0 ∧ q.readV n = 0)
        ∧ (∀ n : BitVec 3, q.readM n = 0) ∧ q.ce = Vector.replicate 16 0 ∧ q.me = Vector.replicate 16 0 ∧ q.vPending = 0
        ∧ q.xEmpty = 0 ∧ q.fEmpty = 0 ∧ q.cEmpty = 0 ∧ q.flags = 0 ∧ q.enable = 0 ∧ q.rm = 0 ∧ q.sat8 = false ∧ q.lanes = 0 ∧ q.vl = 0
        ∧ (∀ j < 4, q.binding (.ofNat 5 (24 + j)) = match ((List.range 8).filter fun k => h.mask.getLsbD k)[j]? with | some k => .recv k | none => .unbound)
        ∧ (q.readC 1).base = .ofNat 52 t.stateBase ∧ (q.readC 1).cursor = .ofNat 52 t.stateBase ∧ (t.stateLen ≤ 2 ^ 32 → (q.readC 1).len = roundLen t.stateLen)
        ∧ (q.readC 1).space = 1 ∧ (q.readC 1).perm = 0xB ∧ (q.readC 1).tag = true
        ∧ (q.readC 2).base = r.argVa ∧ (q.readC 2).cursor = r.argVa ∧ (r.argLen ≤ 2 ^ 32 → (q.readC 2).len = roundLen r.argLen)
        ∧ (q.readC 2).space = 4 ∧ (q.readC 2).perm = 0x1 ∧ (q.readC 2).tag = true
        ∧ (t.scratchLen = 0 → q.readC 3 = Cap.null)
        ∧ (t.scratchLen ≠ 0 → (q.readC 3).base = .ofNat 52 t.scratchBase ∧ (q.readC 3).cursor = .ofNat 52 t.scratchBase
          ∧ (t.scratchLen ≤ 2 ^ 32 → (q.readC 3).len = roundLen t.scratchLen) ∧ (q.readC 3).space = 1 ∧ (q.readC 3).perm = 0xB ∧ (q.readC 3).tag = true)
        ∧ (∀ n : BitVec 5, n ≠ 1 → n ≠ 2 → n ≠ 3 → q.readC n = Cap.null))

/-- The ends of waits and of firings: `DELAY_EXPIRY`, `ICACHE_MISS_FILL`, `MDRAIN_WRITES_APPLIED`, `BUDGET_EXPIRY`, `TRAPWAIT_EXPIRY`,
`TRAP_MESSAGE_REOFFER` (R103, R105, R128, R235, R245, R312, R316); and the ends of ropes and cables: `ROPE_RETIRE`, `END_CABLE`, `QUERY` (R369, R370, R374). Where the instruction that waited was one
that a RETRY issued again, execution goes on where it stood (R315). A word of an
`mdrain` waits at a sleeping stack, a swap or an empty limiter. The watchdog stops in a gang stop, and once an `end` or `retire` has completed its wait (R111). A firing whose
TRAPWAIT has passed stays parked while a valid reply, accepted in time, is still to be acted on. A held trap message waits for all that its core had issued, loads too: the model's
choice (log entry 9). DETAIL of BUDGET is the LIMIT that the firing started with, the model's choice where it has written another (log entry 105). A guest may send END and QUERY for a VF in whose endpoint table it stands; an END of a cable in
launch gives its unplaced ropes the outcome ENDED, and completes it if no placed one is left (log entry 38). A word of an `mdrain` waits while its stack is in
self-refresh, while the partition's network drains for a swap (R293), and while the limiter's bucket is empty (R294): log entry 56 is the model's reading, and log
entries 57 and 7 are its choices. -/
def Obligations.EndingEvents : Prop :=
  (∀ (c : CoreId) (s : State) (till : Nat), (s.core c).wait = .delay till →
    (till ≤ s.now.toNat → exec (.delayExpiry c) s = .next (s.endWait c)) ∧ (s.now.toNat < till → exec (.delayExpiry c) s = .next s))
  ∧ (∀ k : Core, (k.after = [] → k.pastWait = { k with regs := { k.regs with pc := k.regs.pc + 4 } })
    ∧ ∀ a r, k.after = a :: r → k.pastWait = { k with after := r, regs := { k.regs with pc := a } })
  ∧ (∀ (c : CoreId) (s : State), (s.core c).wait = .icache → exec (.icacheMissFill c) s = .next (s.modCore c fun k => { k with wait := .none }))
  ∧ (∀ (c : CoreId) (s : State) (space : BitVec 3) (from_ pitch : Nat) (f : BitVec 2) (sat bank : Bool) (w : Nat),
    (s.core c).wait = .mdrain space from_ pitch f sat bank w → (s.core c).running.isSome = true → (s.core c).park = none →
    let perRow := 16 * drainBytes f
    let at_ := from_ + w / perRow * pitch + 8 * (w % perRow)
    let bs := drainWord ((s.cluster c.cluster).bank c.core bank).data f sat w
    (∀ (loc : Nat) (repl : Bool), (space ≠ 4 ∧ loc = spaceLoc c space at_ ∧ repl = false) ∨ (space = 4 ∧ s.translate c at_ true = .ok loc repl) →
      let held := s.writeAsleep loc repl = true ∨ s.netDrains c.cluster loc = true ∨ s.netOpen c.cluster loc = false
      (held → exec (.mdrainWritesApplied c) s = .next s)
      ∧ (¬ held → ∃ t, exec (.mdrainWritesApplied c) s = .next t ∧ t.mem = s.mem.engineWord loc bs
        ∧ (w + 1 = 16 * perRow → (t.core c).wait = .none ∧ (t.core c).regs = (s.core c).pastWait.regs)
        ∧ (w + 1 ≠ 16 * perRow → (t.core c).wait = .mdrain space from_ pitch f sat bank (w + 1) ∧ (t.core c).regs = (s.core c).regs)))
    ∧ (∀ (va : Nat) (wr : Bool), space = 4 → s.translate c at_ true = .miss va wr →
      exec (.mdrainWritesApplied c) s = .next (s.parkForTranslation c va wr none)))
  ∧ (∀ (c : CoreId) (s : State), (s.core c).running.isSome = true → (s.core c).park = none →
    let settled := (s.core c).wait = .finishing ∧ (∀ p ∈ (s.core c).prods, p.firing = (s.core c).firingNo → p.failure.isSome = true)
      ∧ ∀ e ∈ (s.core c).scales, e.2.2.1 ≠ (s.core c).firingNo
    ((s.core c).left = 0 → (s.core c).wait.issued = false → ¬ settled → s.coreHalted c = false → (∀ till, (s.core c).wait = .delay till → s.now.toNat < till) →
      exec (.budgetExpiry c) s = .next (s.takeTrap c .budget (.ofNat 64 (s.core c).budget.toNat) (s.core c).regs.pc (some (s.core c).regs.pc)))
    ∧ ((s.core c).left ≠ 0 ∨ (s.core c).wait.issued = true ∨ settled ∨ s.coreHalted c = true → exec (.budgetExpiry c) s = .next s))
  ∧ (∀ (c : CoreId) (s : State) (code : TrapCode) (d pc : Word64) (since : Nat) (n : Option Word64) (v : Vf),
    (s.core c).park = some (.trap code d pc since n) → s.vfs.get (s.vfAt c) = some v →
    let replied := ∃ q ∈ s.sysReqs, q.service = 1 ∧ ∃ x, s.parkedBy q = some x ∧ x.1 = c
    (since + v.trapWait.toNat * 1000000 ≤ s.now.toNat → ¬ replied → exec (.trapwaitExpiry c) s = .next (s.abort c))
    ∧ (s.now.toNat < since + v.trapWait.toNat * 1000000 ∨ replied → exec (.trapwaitExpiry c) s = .next s))
  ∧ (∀ (c : CoreId) (s : State) (h : HeldTrap) (rest : List HeldTrap), s.heldTraps = h :: rest → h.at_ = c →
    (s.allPerformed c h.opNo = false → exec (.trapMessageReoffer c) s = .next s)
    ∧ (s.allPerformed c h.opNo = true → ∃ t p, exec (.trapMessageReoffer c) s = .next t ∧ t.heldTraps = rest ∧ t.flight = s.flight ++ [p] ∧ p.dest = h.packet.dest ∧ p.msg = h.packet.msg
      ∧ p.sender = h.packet.sender ∧ t.cores = s.cores))
  ∧ (∀ (rope : Nat) (r : Rope) (s : State), s.ropes.get rope = some r → r.ending = none →
    (s.ropeDone rope r = true → ∃ t, exec (.ropeRetire rope) s = .next t ∧ t.ropes.get rope = none ∧ t.mem = s.mem)
    ∧ (s.ropeDone rope r = false → exec (.ropeRetire rope) s = .next s))
  ∧ (∀ (who : MgmtSender) (vf cable : Nat) (s : State),
    (s.booted = false → exec (.endCable who vf cable) s = .next s ∧ exec (.query who vf cable) s = .next s)
    ∧ (s.booted = true → who ≠ .privileged → s.listed who vf = false →
      exec (.endCable who vf cable) s = .next (s.reply .noActor) ∧ exec (.query who vf cable) s = .next (s.reply .noActor))
    ∧ (s.booted = true → (who = .privileged ∨ s.listed who vf = true) → s.liveCable vf (.ofNat 16 cable) = none →
      exec (.endCable who vf cable) s = .next (s.reply .refusedCommand))
    ∧ (∀ n x, s.booted = true → (who = .privileged ∨ s.listed who vf = true) → s.liveCable vf (.ofNat 16 cable) = some (n, x) →
      (x.state = .queued → exec (.endCable who vf cable) s = .next ((s.finishCable n .ended 0).reply .done))
      ∧ (x.state ≠ .queued → exec (.endCable who vf cable) s
          = .next ((((x.placed.foldl (fun s r => s.endRope r .ended) s).endLaunch n .ended).cableIfDone n).reply .done))
      ∧ exec (.query who vf cable) s = .next (s.reply (.cable x.state (s.cableWords n x))))
    ∧ (∀ n x, s.cables.get n = some x → x.state = .inLaunch → ∃ y, (s.endLaunch n .ended).cables.get n = some y ∧ y.state = .running
      ∧ (∀ i o, (i, o) ∈ y.outcomes ↔ (i, o) ∈ x.outcomes ∨ (x.next ≤ i ∧ i < x.ropes.length ∧ o = .ended))))
  ∧ (∀ (vf ep w : Nat) (s : State), (s.listed (.guest vf ep) w = true ↔ w = vf ∧ ∃ v e, s.vfs.get vf = some v ∧ v.endpoints.get ep = some e)
    ∧ s.listed .privileged w = false)

/-! ## Messages and memory -/

/-- The way of a message: `MESSAGE_INJECT`, `MESSAGE_OFFER`, `MESSAGE_ANSWER`, `NOTIFY_REOFFER`, `SPILL_RING_DRAIN` (R245, R260, R261, R263, R264, R268, R275,
R294, R337). The oldest entry of a send queue leaves once everything issued before it is performed: that it waits for earlier loads and atomics too, and not for the stores
that R245 names alone, is the model's choice (log entry 9). Its destination decides it behind the sender's earlier ones; a unit's message enters the mesh only where the
limiter is open and no swap drains the network. An accepted message stands last in its port, and a full port leaves it out. The model's choices: what a message is charged, and
when (log entry 7); what is held while a network drains (log entry 57); that bits of a KIND-0 address above bit 35 are not looked at (log entry 77); that a capability goes as its
granule stands though a word of it holds an error (log entry 88); that a refused message of the launcher or of a TSC is dropped (log entry 108). A notification waits in the notify queue
for the accesses that its core issued before its `aaddz` (R245; log entries 92 and 109). -/
def Obligations.MessageEvents : Prop :=
  (∀ (c : CoreId) (s : State) (e : SendEntry) (rest : List SendEntry) (r : Rope), (s.core c).sendQ = e :: rest → s.ropes.get e.rope = some r →
    let part := s.partOfVf r.vf
    ((s.allPerformed c e.opNo = false ∨ s.draining part = true ∨ s.limiterOpen part c.cluster = false) → exec (.messageInject c) s = .next s)
    ∧ (∀ p, s.allPerformed c e.opNo = true → s.draining part = false → s.limiterOpen part c.cluster = true → e.port = some p →
      ∃ t q, exec (.messageInject c) s = .next t ∧ (t.core c).sendQ = rest ∧ (t.core c).sent = (s.core c).sent + 1 ∧ t.flight = s.flight ++ [q]
        ∧ q.sender = .port c e.slot p e.rope ∧ q.vf = r.vf ∧ q.dest = e.dest ∧ q.seq = e.seq ∧ (kindOf e.msg.typ ≠ 2 → q.msg = e.msg)
        ∧ (kindOf e.msg.typ = 2 →
          let cap := (Cap.ofNat (leNat (s.mem.read e.granule 16)) (s.mem.tag e.granule)).toPeer c.core
          q.msg.words = .ofNat 64 cap.toNat :: .ofNat 64 (cap.toNat / 2 ^ 64) :: e.msg.words.drop 2 ∧ q.msg.tag = (e.msg.tag && cap.tag))
        ∧ t.mem = s.mem)
    ∧ (s.allPerformed c e.opNo = true → s.draining part = false → s.limiterOpen part c.cluster = true → e.port = none →
      let h := (e.msg.words[0]?).getD 0
      ∃ t q, exec (.messageInject c) s = .next t ∧ (t.core c).sendQ = rest ∧ t.flight = s.flight
        ∧ (t.cluster (h.toNat / 2 ^ 8 % 256)).redPackets = (s.cluster (h.toNat / 2 ^ 8 % 256)).redPackets ++ [q]
        ∧ q.handle = h ∧ q.value = (e.msg.words[1]?).getD 0 ∧ q.origin = some (c, e.slot) ∧ q.child = none))
  ∧ (∀ (no : Nat) (s : State) (p : Packet), s.flight.find? (fun q => q.no == no) = some p →
    let off := { s with flight := s.flight.filter fun q => q.no != no }
    ((s.behindEarlier p = true ∨ s.mayEnter p = false) → exec (.messageOffer no) s = .next s)
    ∧ ((s.flight.takeWhile fun q => q.no != no).any (fun q => q.sender == p.sender && q.cluster == p.cluster && q.dest == p.dest) = true →
      exec (.messageOffer no) s = .next s)
    ∧ ((∀ a i k r, p.sender ≠ .port a i k r) → (s.draining (s.partOfVf p.vf) = true → exec (.messageOffer no) s = .next s)
      ∧ ((∀ v ep, p.sender ≠ .host v ep) → s.limiterOpen (s.partOfVf p.vf) p.cluster = false → exec (.messageOffer no) s = .next s))
    ∧ (s.behindEarlier p = false → s.mayEnter p = true →
      exec (.messageOffer no) s = .next (((off.chargeMessage p).offer p).2.unitAnswered p ((off.chargeMessage p).offer p).1))
    ∧ (∀ (at_ c : CoreId) (slot port rope i n : Nat) (x : Slot) (q : InPort), s.behindEarlier p = false → p.sender = .port at_ slot port rope →
      addrKind p.dest.toNat = 0 → s.findActor p.dest.toNat = some (n, c, i, x) → i < 16 → x.ins[p.dest.toNat / 2 ^ 15 % 8]? = some q → p.msg.typ = q.typ →
      kindOf q.typ ≠ 2 → s.switchedOut (addrVf p.dest.toNat) = false → (∀ r, s.ropes.get n = some r → r.vf = addrVf p.dest.toNat) → q.ring = [] →
      (q.msgs.length < q.capacity → ∃ t m, exec (.messageOffer no) s = .next t ∧ t.answers = s.answers ++ [(p, .accepted)]
        ∧ (((t.core c).slot i).ins[p.dest.toNat / 2 ^ 15 % 8]?) = some { q with msgs := q.msgs ++ [m] } ∧ m.words = p.msg.words ∧ m.typ = p.msg.typ
        ∧ (t.core c).recv = (s.core c).recv + 1 ∧ t.mem = s.mem)
      ∧ (q.capacity ≤ q.msgs.length → ∃ t, exec (.messageOffer no) s = .next t ∧ t.answers = s.answers ++ [(p, .full)] ∧ t.cores = s.cores ∧ t.mem = s.mem)))
  ∧ (∀ (no : Nat) (s : State) (p : Packet) (a : Answer) (c : CoreId) (slot k rope : Nat), s.answers.find? (fun e => e.1.no == no) = some (p, a) →
    p.sender = .port c slot k rope →
    exec (.messageAnswer no) s = .next ({ s with answers := s.answers.filter fun e => e.1.no != no }.portAnswered c slot k rope p a))
  ∧ (∀ (die no : Nat) (s : State) (n : Notice) (rest : List Notice), s.notices = n :: rest → n.no = no → (∀ m ∈ rest, m.no ≠ no) →
    n.packet.sender.atomicOf die = true →
    ((∀ c k, n.after = some (c, k) → s.allPerformed c k = true) →
      ∃ t p, exec (.notifyReoffer die no) s = .next t ∧ t.notices = rest ∧ t.flight = s.flight ++ [p] ∧ p.dest = n.packet.dest ∧ p.msg = n.packet.msg)
    ∧ (∀ c k, n.after = some (c, k) → s.allPerformed c k = false → exec (.notifyReoffer die no) s = .next s))
  ∧ (∀ (c : CoreId) (slot port : Nat) (s : State) (q : InPort) (m : Msg) (rest : List Msg), slot < 16 → ((s.core c).slot slot).ins[port]? = some q →
    q.ring = m :: rest → q.msgs.length < q.capacity →
    ∃ t, exec (.spillRingDrain c slot port) s = .next t
      ∧ (((t.core c).slot slot).ins[port]?) = some { q with msgs := q.msgs ++ [m], ring := rest } ∧ t.mem = s.mem)

/-- What performs the accesses of a core: `STORE_DRAIN`, `VALUE_ARRIVAL`, `LDW_SATISFY`, `APPLIED_AT_HOME`, `SEQUENCER_COMMIT` (R114, R136, R143, R147, R217,
R240, R244, R248). The oldest store of a buffer, of a vector store its oldest element, is applied at its home when nothing that R244 puts first is outstanding, its network does
not drain for a swap (R293), and the limiter's bucket is not empty (R294): that a store waits there, and where, is the model's choice (log entries 57 and 7). A load takes its
bytes when its turn comes, the elements of a vector load in any order that R244 allows, and a waiting `ldw` at the first write that makes its word full; a producer's value fills
its register, as it is bound then (log entry 90), and one that comes late for a send port waits for room or traps RATE (log entry 59); a `cppoll` takes its job's state as it is
when its value comes, the model's choice (log entry 97). An update of a replicated page commits once every replica acknowledged it;
until then a load of a die that marked the word waits. The model's choices: DETAIL of a vector load's ECC trap names the failing element (log entry 15); what packets are charged
(log entry 7); a commit waits while a stack of a replica is in self-refresh (log entry 56). -/
def Obligations.MemoryEvents : Prop :=
  (∀ (c : CoreId) (s : State), (s.core c).stores = [] → exec (.storeDrain c) s = .next s)
  ∧ (∀ (c : CoreId) (s : State) (e : StoreEntry) (rest : List StoreEntry), (s.core c).stores = e :: rest →
    ((s.netDrains c.cluster e.op.loc = true ∨ s.netOpen c.cluster e.op.loc = false) → exec (.storeDrain c) s = .next s)
    ∧ (s.netDrains c.cluster e.op.loc = false → s.netOpen c.cluster e.op.loc = true →
      (e.replicated = false → homeDie e.op.loc = dieOf c.cluster →
        (s.mayPerform c e.op = true → ∃ t, exec (.storeDrain c) s = .next t ∧ t.mem = s.mem.apply e ∧ (t.core c).stores = rest
          ∧ (t.core c).regs = (s.core c).regs ∧ t.flying = s.flying)
        ∧ (s.mayPerform c e.op = false → exec (.storeDrain c) s = .next s))
      ∧ (e.replicated = false → homeDie e.op.loc ≠ dieOf c.cluster →
        (∀ a ∈ s.unperformed c, a.no < e.no → a.load = true → ppo c (s.core c).fences a e.op = false) →
        ∃ t u, exec (.storeDrain c) s = .next t ∧ t.flying = s.flying ++ [u] ∧ u.at_ = c ∧ u.work = .inl e ∧ (t.core c).stores = rest ∧ t.mem = s.mem)
      ∧ (e.replicated = true → e.sent = false → s.mayPerform c e.op = true →
        ∃ t u, exec (.storeDrain c) s = .next t ∧ t.sequencer = s.sequencer ++ [u] ∧ u.at_ = c ∧ u.work = .inl e ∧ u.acks = []
          ∧ (t.core c).stores = { e with sent := true } :: rest ∧ t.mem = s.mem)))
  ∧ (∀ (c : CoreId) (no : Nat) (s : State) (p : Producer), (s.core c).producer no = some p →
    (∀ v, (p.pending = .ready v ∨ p.pending = .answer v ∨ p.pending = .waited v ∨ ∃ job, p.pending = .poll job ∧ v = .word (s.jobStatus c job)) →
      p.firing = (s.core c).firingNo → (s.core c).running.isSome = true →
      (∀ g, p.dest = some g → s.arrivalTest c p.dest = .go →
        exec (.valueArrival c no) s = .next ((s.modCore c fun k => k.dropProducer p.no).putReg c g v))
      ∧ (∀ g, p.dest = some g → (∀ n k ws, g = .x n → (s.core c).regs.binding n ≠ .send k ws) → s.arrivalTest c p.dest = .go)
      ∧ (s.arrivalTest c p.dest = .stall → exec (.valueArrival c no) s = .next s)
      ∧ (∀ code d, s.arrivalTest c p.dest = .trap code d →
        exec (.valueArrival c no) s = .next ((s.dropPartial c p.dest.toList).modCore c fun k => k.setPending p.no (.fail code d))))
    ∧ (∀ v, (p.pending = .ready v ∨ p.pending = .answer v ∨ p.pending = .waited v ∨ ∃ job, p.pending = .poll job ∧ v = .word (s.jobStatus c job)) →
      p.firing ≠ (s.core c).firingNo →
      exec (.valueArrival c no) s = .next (s.modCore c fun k => k.dropProducer p.no))
    ∧ (∀ loc n repl fill, p.pending = .load loc n repl fill →
      let v := ((s.core c).older p.no).loadValue c s.mem loc n fill
      (s.mayRead c (loadOp p.no loc n repl) = true →
        exec (.valueArrival c no) s = .next ((s.chargeAccess c.cluster loc 0 n).modCore c fun k =>
          k.setPending p.no (if v.2 then .ready v.1 else .fail .ecc p.detail)))
      ∧ (s.mayRead c (loadOp p.no loc n repl) = false → exec (.valueArrival c no) s = .next s)
      ∧ ((s.core c).stores = [] → 1 ≤ n → v = (fillValue c loc (s.mem.tag loc) (s.mem.read loc n) fill, !s.mem.badIn loc n))
      ∧ ((s.core c).stores = [] → 1 ≤ n → s.replicaPending c (loadOp p.no loc n repl) = true → s.mayRead c (loadOp p.no loc n repl) = false))
    ∧ (∀ e es width acc, p.pending = .vload (e :: es) width acc → (s.core c).stores = [] → 1 ≤ e.bytes →
      s.mayRead c (loadOp p.no e.loc e.bytes e.replicated) = true →
      exec (.valueArrival c no) s = .next ((s.chargeAccess c.cluster e.loc 0 e.bytes).modCore c fun k => k.setPending p.no
        (if s.mem.badIn e.loc e.bytes then .fail .ecc e.detail else .vload es width (vecPut acc e.pos width (leNat (s.mem.read e.loc e.bytes))))))
    ∧ (∀ es width acc i e, p.pending = .vload es width acc → es[i]? = some e → (s.core c).stores = [] → 1 ≤ e.bytes → s.mem.badIn e.loc e.bytes = false →
      let op (x : ElemLoad) : MemOp := loadOp p.no x.loc x.bytes x.replicated
      (s.mayRead c (op e) = true → (∀ x ∈ es.take i, ppo c [] (op x) (op e) = false) →
        s.readAhead c no i = (s.chargeAccess c.cluster e.loc 0 e.bytes).modCore c fun k => k.setPending p.no
          (.vload (es.eraseIdx i) width (vecPut acc e.pos width (leNat (s.mem.read e.loc e.bytes)))))
      ∧ ((s.mayRead c (op e) = false ∨ ∃ x ∈ es.take i, ppo c [] (op x) (op e) = true) → s.readAhead c no i = s))
    ∧ (∀ x m fill, p.atomicAt = some (x, m, fill) → m.replicated = false → homeDie x.loc = dieOf c.cluster →
      (s.mayAtomic c x m = true → s.atomicBad x = false →
        exec (.valueArrival c no) s = .next (((s.chargeAccess c.cluster x.loc x.bytes x.bytes).performAtomic c x).modCore c fun k => k.setPending p.no
          (.ready (fillValue c x.loc false (leBytes x.bytes (s.atomicOld x).toNat) fill))))
      ∧ (s.mayAtomic c x m = true → s.atomicBad x = true →
        ∃ t, exec (.valueArrival c no) s = .next t ∧ t.mem = s.mem ∧ (t.core c) = (s.core c).setPending p.no (.fail .ecc p.detail))
      ∧ (s.mayAtomic c x m = false → exec (.valueArrival c no) s = .next s)))
  ∧ (∀ (c : CoreId) (no : Nat) (s : State) (p : Producer) (loc n : Nat) (f : Fill) (seen : Option (Value × Bool)), (s.core c).producer no = some p →
    p.pending = .loadFull loc f seen → (f = .signed n ∨ f = .zeroed n) → 1 ≤ n →
    (∀ v, seen = some (v, true) → exec (.ldwSatisfy c no) s = .next (s.modCore c fun k => k.setPending no (.ready v)))
    ∧ (∀ v, seen = some (v, false) → exec (.ldwSatisfy c no) s = .next (s.modCore c fun k => k.setPending no (.fail .ecc p.detail)))
    ∧ (seen = none → (s.core c).stores = [] →
      (s.mem.full loc = false → exec (.ldwSatisfy c no) s = .next s)
      ∧ (s.mem.full loc = true → s.mayPerform c (loadOp p.no (loc / 8 * 8) 8 false) = true → s.mem.badIn loc n = false →
        exec (.ldwSatisfy c no) s = .next (s.modCore c fun k => k.setPending no (.ready (fillValue c loc false (s.mem.read loc n) f)))))
    -- a write of a party to the word: the first that makes it full gives the waiting load its data
    ∧ (∀ (by_ : Option CoreId) (a k : Nat) (g : Memory → Memory), c.core < 16 → (s.core c).stores = [] → a / 8 ≤ loc / 8 → loc / 8 ≤ (a + k - 1) / 8 →
      let after := ((s.modMem by_ a k g).core c).producer no
      ((g s.mem).full loc = true → seen = none → s.mayPerform c (loadOp p.no (loc / 8 * 8) 8 false) = true →
        after = some { p with pending := .loadFull loc f (some (fillValue c loc false ((g s.mem).read loc n) f, !(g s.mem).badIn loc n)) })
      ∧ (∀ v, (g s.mem).full loc = true → seen = some v → after = some p)
      ∧ ((g s.mem).full loc = false → after = some { p with pending := .loadFull loc f none })))
  ∧ (∀ (no : Nat) (s : State) (u : Update) (e : StoreEntry), s.flying.find? (fun u => u.no == no) = some u → u.work = .inl e →
    (s.mayPerform u.at_ e.op = true → ∃ t, exec (.appliedAtHome no) s = .next t ∧ t.mem = s.mem.apply e ∧ t.flying = s.flying.filter fun w => w.no != no)
    ∧ (s.mayPerform u.at_ e.op = false → exec (.appliedAtHome no) s = .next s))
  ∧ (∀ (no : Nat) (s : State) (u : Update) (e : StoreEntry), s.sequencer.find? (fun u => u.no == no) = some u → u.work = .inl e →
    (s.firstOfLocation s.sequencer u = true → (∀ d < 4, d ∈ u.acks) → (∀ d < 4, s.stackAsleep d = false) →
      ∃ t, exec (.sequencerCommit no) s = .next t ∧ t.mem = s.mem.apply e ∧ t.sequencer = (s.sequencer.filter fun w => w.no != no)
        ∧ (t.core u.at_).stores = (s.core u.at_).stores.filter fun x => x.no != e.no)
    ∧ ((s.firstOfLocation s.sequencer u = false ∨ (∃ d < 4, d ∉ u.acks) ∨ (∃ d < 4, s.stackAsleep d = true)) → exec (.sequencerCommit no) s = .next s)
    ∧ (∀ die, die < 4 → die ∉ u.acks → s.firstOfLocation s.sequencer u = true →
      (s.replicaAck no die).sequencer.find? (fun u => u.no == no) = some { u with acks := die :: u.acks }))

/-! ## Engines -/

/-- The copy unit (R148, R151, R152, R154, R156, R246): `COPY_JOB_START`, `COPY_JOB_DONE`, `STREAM_DELIVER`. A job at the head of the queue starts; each word of a row
is read before any of it is written, and within a row the words move in any order; with the last word the job is DONE and its identifier free; an error in a word faults it.
The model's choices: how the sources of a rope are noted, to count rereads (log entry 21); what an engine's words are charged, and that they wait for the limiter (log entry
7); that they wait for a stack in self-refresh (log entry 56). -/
def Obligations.CopyEvents : Prop :=
  ∀ (cl id : Nat) (s : State), id < 64 →
    let j := (s.cluster cl).job id
    let run := s.modJob cl id fun j => { j with state := .running }
    (∀ a b, j.work = .copy a b →
      (s.mayStart cl id = true → exec (.copyJobStart cl id) s = .next (if a.space = 4 then run.startSource cl id false [] else run))
      ∧ (s.mayStart cl id = false → exec (.copyJobStart cl id) s = .next s))
    ∧ (∀ a, j.work = .stream a →
      (s.mayStart cl id = true → exec (.copyJobStart cl id) s = .next run) ∧ (s.mayStart cl id = false → exec (.copyJobStart cl id) s = .next s))
    ∧ (∀ (w : Nat) (r : List Turn), s.agenda = .jobWord cl id w :: r → step s = .next ({ s with agenda := r }.moveWord cl id w))
    ∧ (∀ src dst, j.work = .copy src dst →
      exec (.copyJobDone cl id) s = .next (s.moveWord cl id (j.wordsLeft.headD 0))
      ∧ ((j.state ≠ .running ∨ s.jobMoves j = false) → ∀ w, s.moveWord cl id w = s)
      ∧ (∀ w loc, j.state = .running → s.jobMoves j = true → j.rowRead = false → w < j.rowBytes / 8 → (∀ e ∈ j.row, e.1 ≠ w) →
        s.jobLoc cl j src.space (src.at_ (j.done / j.rowBytes) (8 * w)) false = some loc →
        let sleeps := s.jobAsleep cl j src.space (src.at_ (j.done / j.rowBytes) (8 * w)) false loc
        (sleeps = false → s.netOpen cl loc = true → s.mem.badIn loc 8 = false →
          s.moveWord cl id w = (s.noteRead cl id src loc).modJob cl id fun j => { j with row := j.row ++ [(w, .ofNat 64 (leNat (s.mem.read loc 8)))] })
        ∧ (sleeps = false → s.netOpen cl loc = true → s.mem.badIn loc 8 = true →
          let k := ((s.moveWord cl id w).cluster cl).job id
          k.state = .fault ∧ k.cause = 13 ∧ k.taken = false)
        ∧ (sleeps = true → s.moveWord cl id w = s))
      ∧ (∀ w v loc, j.state = .running → s.jobMoves j = true → j.rowRead = true → j.row.find? (fun e => e.1 == w) = some (w, v) →
        s.jobLoc cl j dst.space (dst.at_ (j.done / j.rowBytes) (8 * w)) true = some loc →
        s.jobAsleep cl j dst.space (dst.at_ (j.done / j.rowBytes) (8 * w)) true loc = false → s.netOpen cl loc = true →
        let t := s.moveWord cl id w
        t.mem = s.mem.engineWord loc (leBytes 8 v.toNat)
          ∧ ((t.cluster cl).job id).done = j.done + 8 ∧ ((t.cluster cl).job id).row = (j.row.filter fun e => e.1 != w)
          ∧ (j.done + 8 = j.rowBytes * j.rows → ((t.cluster cl).job id).state = .done ∧ ((t.cluster cl).job id).taken = false ∧ id ∉ (t.cluster cl).queue)
          ∧ (j.done + 8 ≠ j.rowBytes * j.rows → ((t.cluster cl).job id).state = .running)))
    ∧ (∀ src loc, j.work = .stream src → j.state = .running → s.jobMoves j = true → j.bound = false → j.buf.length < 8 →
      s.jobLoc cl j src.space (src.at_ (j.done / j.rowBytes) (j.done % j.rowBytes)) false = some loc →
      s.jobAsleep cl j src.space (src.at_ (j.done / j.rowBytes) (j.done % j.rowBytes)) false loc = false → s.netOpen cl loc = true →
      s.mem.badIn loc 8 = false →
      ∃ t, exec (.streamDeliver cl id) s = .next t ∧ ((t.cluster cl).job id).buf = j.buf ++ [.ofNat 64 (leNat (s.mem.read loc 8))]
        ∧ ((t.cluster cl).job id).done = j.done + 8 ∧ t.mem = s.mem
        ∧ (j.done + 8 = j.rowBytes * j.rows → ((t.cluster cl).job id).state = .done ∧ ((t.cluster cl).job id).taken = false))
    ∧ (∀ src loc n ws left, j.work = .stream src → j.state = .running → s.jobMoves j = true → j.bound = true →
      (s.core ⟨cl, j.core⟩).regs.streamReg id j.gen = some (n, ws, left) → ws.length < 8 →
      s.jobLoc cl j src.space (src.at_ (j.done / j.rowBytes) (j.done % j.rowBytes)) false = some loc →
      s.jobAsleep cl j src.space (src.at_ (j.done / j.rowBytes) (j.done % j.rowBytes)) false loc = false → s.netOpen cl loc = true →
      s.mem.badIn loc 8 = false →
      ∃ t, exec (.streamDeliver cl id) s = .next t ∧ ((t.cluster cl).job id).done = j.done + 8 ∧ t.mem = s.mem
        ∧ (t.core ⟨cl, j.core⟩).regs.binding n = .stream id j.gen (ws ++ [.ofNat 64 (leNat (s.mem.read loc 8))]) (left - 1))

/-- Tours (R157 to R168): `TOUR_JOB_START`, `HITCH`, `HITCH_REPORT`, `ARRIVAL_REOFFER`, `HOLD_EXPIRY`, `TILE_ONWARD`, `COMPLETION_REOFFER`,
`TOUR_SLOT_SCRUB_DONE`. A tile has one slot at a time; it is filled word by word from its source, moves on when its stop is over and its accesses are drained, and at its last
stop its completion message goes out and its slot is scrubbed. At the first hitch the job leaves the queue, and reads TOURING at once where the stop is in the origin
cluster, and else from its report on. An error in a tile on its way ends the tour, and the tile keeps its last slot until its completion has an entry of the queue (R342,
R166). The model's choices: a tile that crosses clusters is charged whole, at its hitch, but the words of a first hitch into another cluster one by one (log entry 7); the
words of a hitch wait for a stack in self-refresh (log entry 56), and for all that the tour's core had issued, loads too (log entry 9). A tour asks for its slot as it reaches the head of
the queue, and waits aside without one, or while four jobs are carried. -/
def Obligations.TourEvents : Prop :=
  (∀ (cl id it : Nat) (src : Side) (s : State), id < 64 → ((s.cluster cl).job id).work = .tour src it →
    (s.atHead cl id = false → exec (.tourJobStart cl id) s = .next s)
    ∧ (s.atHead cl id = true → ∃ t x, exec (.tourJobStart cl id) s = .next t ∧ t.tours.get s.fresh = some x ∧ x.origin = cl ∧ x.job = id ∧ x.stop = 0
      ∧ x.mask = 0 ∧ x.at_ = none ∧ ((t.cluster cl).job id).state = .running ∧ t.mem = s.mem
      ∧ (∀ g slot, x.grant = some (g, slot) → x.phase = .granted ∧ ∃ y, (t.cluster g).slots.toList[slot]? = some y ∧ y.use = .tile s.fresh)
      ∧ (x.grant = none → ((t.cluster cl).job id).aside = true ∧ ∃ since, x.phase = .waiting since)
      ∧ (x.grant.isSome = true → (4 ≤ (s.cluster cl).carried → ((t.cluster cl).job id).aside = true)
        ∧ ((s.cluster cl).carried < 4 → (∀ e ∈ (s.cluster cl).queue, e ≠ id → ((s.cluster cl).job e).aside = false) → ((t.cluster cl).job id).aside = false))))
  ∧ (∀ (n cl slot : Nat) (t : Tour) (s : State) (src : Side) (it loc : Nat), s.tours.get n = some t → t.phase = .granted → t.grant = some (cl, slot) →
    t.at_ = none → t.job < 64 →
    let j := (s.cluster t.origin).job t.job
    ∀ w ws, j.work = .tour src it → s.jobMoves j = true → j.aside = false → s.allPerformed ⟨t.origin, j.core⟩ j.opNo = true → j.unread = w :: ws →
    s.jobLoc t.origin j src.space (src.at_ 0 (8 * w)) false = some loc →
    (cl = t.origin ∨ s.limiterOpen (s.partOfVf (s.vfOfJob j)) t.origin = true) →
    s.jobAsleep t.origin j src.space (src.at_ 0 (8 * w)) false loc = false → s.netOpen t.origin loc = true → s.mem.badIn loc 8 = false → j.done + 8 ≠ t.len →
    ∃ u, exec (.hitch n) s = .next u ∧ u.mem = s.mem.engineWord (locTile cl slot (8 * w)) (s.mem.read loc 8)
      ∧ ((u.cluster t.origin).job t.job).done = j.done + 8 ∧ u.tours = s.tours
      ∧ ((u.cluster t.origin).job t.job).row = j.row ++ [(w, .ofNat 64 (leNat (s.mem.read loc 8)))])
  ∧ (∀ (n cl slot : Nat) (t : Tour) (s : State), s.tours.get n = some t → t.phase = .granted → t.grant = some (cl, slot) → t.at_ = some (cl, slot) →
    (s.tourHalted t = false → exec (.hitch n) s = .next (s.hitched n t cl slot))
    ∧ (s.tourHalted t = true → exec (.hitch n) s = .next s))
  ∧ (∀ (n cl slot : Nat) (t : Tour) (s : State), t.at_ = none → t.job < 64 →
    let j := (s.cluster t.origin).job t.job
    let u := s.hitched n t cl slot
    (cl = t.origin → ((u.cluster t.origin).job t.job).state = .touring) ∧ (cl ≠ t.origin → ((u.cluster t.origin).job t.job).state = j.state)
      ∧ t.job ∉ (u.cluster t.origin).queue)
  ∧ (∀ (n cl slot cl0 slot0 : Nat) (t : Tour) (s : State), s.tours.get n = some t → t.phase = .granted → t.grant = some (cl, slot) →
    t.at_ = some (cl0, slot0) → (cl, slot) ≠ (cl0, slot0) → s.jobMoves ((s.cluster t.origin).job t.job) = true →
    let part := s.partOfVf (s.vfOfJob ((s.cluster t.origin).job t.job))
    (cl = cl0 ∨ s.limiterOpen part cl0 = true) → s.mem.badIn (locTile cl0 slot0 0) t.len = false →
    exec (.hitch n) s = .next ({ (if cl = cl0 then s else s.charge part cl0 t.len).modTourSlot cl0 slot0 fun x => { x with use := .scrubbing } with
      mem := s.mem.copyWords (locTile cl0 slot0 0) (locTile cl slot 0) (t.len / 8) }.hitched n t cl slot))
  ∧ (∀ (n cl slot cl0 slot0 : Nat) (t : Tour) (s : State), s.tours.get n = some t → t.phase = .granted → t.grant = some (cl, slot) →
    t.at_ = some (cl0, slot0) → (cl, slot) ≠ (cl0, slot0) → s.tourHalted t = false → s.jobMoves ((s.cluster t.origin).job t.job) = true →
    (cl = cl0 ∨ s.limiterOpen (s.partOfVf (s.vfOfJob ((s.cluster t.origin).job t.job))) cl0 = true) → s.mem.badIn (locTile cl0 slot0 0) t.len = true →
    16 ≤ (s.cluster t.origin).completions.length →
    ∃ u x e, exec (.hitch n) s = .next u ∧ u.mem = s.mem ∧ u.tours.get n = some x ∧ x.phase = .finishing e ∧ x.grant = none ∧ x.at_ = some (cl0, slot0)
      ∧ (u.cluster cl0).slots.toList[slot0]? = (s.cluster cl0).slots.toList[slot0]?)
  ∧ (∀ (cl id n : Nat) (t : Tour) (s : State), s.tours.find? (fun e => e.2.origin == cl && e.2.job == id && e.2.hitchedOnce && !e.2.reported) = some (n, t) →
    exec (.hitchReport cl id) s = .next ((s.modTour n fun t => { t with reported := true }).modJob cl id fun j => { j with state := .touring }))
  ∧ (∀ (n : Nat) (t : Tour) (s : State), s.tours.get n = some t →
    (t.phase = .held → s.tourHalted t = false → s.tileOverdue t = false → exec (.arrivalReoffer n) s = .next (s.offerArrival n t))
    ∧ ((t.phase ≠ .held ∨ s.tourHalted t = true ∨ s.tileOverdue t = true) → exec (.arrivalReoffer n) s = .next s))
  ∧ (∀ (n : Nat) (t : Tour) (s : State), s.tours.get n = some t → (t.phase = .held ∨ t.phase = .arrived ∨ ∃ a b c, t.phase = .visited a b c) →
    ((s.holdOver t = false ∨ s.tourHalted t = true) → exec (.holdExpiry n) s = .next s)
    ∧ (s.holdOver t = true → s.tourHalted t = false → ∃ u x, exec (.holdExpiry n) s = .next u ∧ u.tours.get n = some x ∧ x.phase = .leaving ∧ x.expiries = t.expiries + 1
      ∧ x.mask = (match t.phase with | .visited .. => t.mask | _ => setBit t.mask t.stop true) ∧ u.mem = s.mem))
  ∧ (∀ (n cl slot : Nat) (t : Tour) (d : ItinDecl) (s : State), s.tours.get n = some t → t.phase = .leaving → t.at_ = some (cl, slot) →
    s.itinerary t = some d →
    ((s.tileDrained cl slot = false ∨ s.tourHalted t = true) → exec (.tileOnward n) s = .next s)
    ∧ (s.tileDrained cl slot = true → s.tourHalted t = false → t.next d.stops.length d.lap = none → exec (.tileOnward n) s = .next (s.finishTour n t))
    ∧ (∀ stop lap, s.tileDrained cl slot = true → s.tourHalted t = false → t.next d.stops.length d.lap = some (stop, lap) →
      s.targetCluster { t with stop := stop, lap := lap, lapRun := t.lapRun || lap } = cl →
      ∃ u x, exec (.tileOnward n) s = .next u ∧ u.tours.get n = some x ∧ x.stop = stop ∧ x.phase = .granted ∧ x.grant = some (cl, slot) ∧ x.at_ = t.at_))
  ∧ (∀ (n cl slot : Nat) (t : Tour) (s : State), t.at_ = some (cl, slot) → slot < 32 → (s.cluster t.origin).completions.length < 16 →
    ∃ e, ((s.finishTour n t).cluster t.origin).completions = (s.cluster t.origin).completions ++ [e] ∧ e.tour = n
      ∧ (∃ x, (s.finishTour n t).tours.get n = some x ∧ x.phase = .completing ∧ x.at_ = none)
      ∧ (∃ y, ((s.finishTour n t).cluster cl).slots.toList[slot]? = some y ∧ y.use = .scrubbing))
  ∧ (∀ (cl entry : Nat) (e : Completion) (s : State), (s.cluster cl).completions.find? (fun e => e.no == entry) = some e →
    (s.flight.any (fun p => p.sender == .completion cl entry) = true → exec (.completionReoffer cl entry) s = .next s)
    ∧ (s.flight.any (fun p => p.sender == .completion cl entry) = false → exec (.completionReoffer cl entry) s = .next (s.offerCompletion cl e)))
  ∧ (∀ (cl slot : Nat) (x : TourSlot) (s : State), slot < 32 → (s.cluster cl).slots.toList[slot]? = some x → x.use = .scrubbing →
    ∃ t, exec (.tourSlotScrubDone cl slot) s = .next t ∧ t.mem = s.mem.scrub (locTile cl slot 0) (2 ^ 16)
      ∧ ((∀ e ∈ s.tours, ∀ since, e.2.phase ≠ .waiting since) → ∃ y, (t.cluster cl).slots.toList[slot]? = some y ∧ y.use = .free ∧ y.gen = x.gen))

/-- The matrix engine (R188, R222, R223, R227, R228, R229, R232, R233, R238): `STEP_START`, `SCALE_WRITE`, `STEP_COMPLETE`. A step starts when the whole gang waits at the wired
barrier; the words of bound port registers are taken then. A pair or a tile source that differs within the gang, and a bad header, trap every core of it ENGINE, with no step and nothing
taken. Operand words are read at any time until the next step starts or the step completes; that the header and the port words are read at the start is the model's reading
(log entry 17). Every element of its result is the rounded sum of the old one, or of zero, and of the tree of its products; it stands in the bank when the step completes, with
the poison of what was read: that the poison shows then and not before is the model's choice (log entry 23). The banks of a retired strand are cleared with the last of its
steps; that their poison goes with them is the model's choice (log entry 28). -/
def Obligations.MatrixEvents : Prop :=
  (∀ (cl : Nat) (s : State), s.completeGang cl = none → exec (.stepStart cl) s = .next s)
  ∧ (∀ (cl : Nat) (s : State) (forms : List (Nat × GangForm)) (lead : GangForm), s.completeGang cl = some forms →
    (∀ e ∈ forms, (s.core ⟨cl, e.1⟩).stores = [] ∧ s.allPerformed ⟨cl, e.1⟩ e.2.opNo = true) → (s.cluster cl).steps.length < 2 →
    forms.find? (fun e => e.1 == 0) = some (0, lead) →
    ((∀ e ∈ forms, e.2.pair = lead.pair ∧ e.2.tile = lead.tile) → s.headerBad cl lead = false →
      let scale (g : GangForm) := scaleOf (g.op2.toNat / 2 ^ 56) (s.mem.byte (s.regionB cl lead + lead.op2.toNat / 2 ^ 40 % 2 ^ 8)).toNat
      let r := (s.core ⟨cl, 0⟩).regs
      ∃ t, exec (.stepStart cl) s = .next t
        ∧ ((∀ e ∈ forms, (s.core ⟨cl, e.1⟩).regs.binding e.2.a = .unbound ∧ (s.core ⟨cl, e.1⟩).regs.binding e.2.b = .unbound) → t.mem = s.mem)
        ∧ (∃ m, (t.cluster cl).steps = (s.cluster cl).steps.map (fun (x : MatStep) => x.readAll s.mem) ++ [m]
          ∧ m.owner = ((s.core ⟨cl, 0⟩).curSlot.rope, (s.core ⟨cl, 0⟩).curSlot.strand) ∧ m.pair = lead.pair ∧ m.baseB = s.regionB cl lead ∧ m.hlen = r.hlen ∧ m.group = r.group ∧ m.blk = lead.op2.toNat / 2 ^ 40 % 2 ^ 8
          ∧ m.tile = (if lead.tile then some (lead.op2.toNat % 2 ^ 5) else none)
          ∧ m.parts = forms.map fun e => ⟨e.1, e.2.bank, e.2.zero, (s.core ⟨cl, e.1⟩).regs.me[0], s.baseA ⟨cl, e.1⟩, e.2.op1, scale e.2, none⟩)
        ∧ ∀ e ∈ forms,
          let c : CoreId := ⟨cl, e.1⟩
          let took := ((s.takeX c e.2.a).2.takeX c e.2.b).2.core c
          (t.core c).wait = .none ∧ (t.core c).regs = took.pastWait.regs ∧ (t.core c).curSlot.ins = took.curSlot.ins)
    ∧ (((∃ e ∈ forms, e.2.pair ≠ lead.pair ∨ e.2.tile ≠ lead.tile) ∨ s.headerBad cl lead = true) →
      ∃ t, exec (.stepStart cl) s = .next t
        ∧ t = forms.foldl (fun (s : State) (e : Nat × GangForm) =>
            let c : CoreId := ⟨cl, e.1⟩
            s.takeTrap c .engine ((s.fetch c).setWidth 64) (s.core c).regs.pc (some ((s.core c).regs.pc + 4))) s
        ∧ t.mem = s.mem ∧ (t.cluster cl).steps = (s.cluster cl).steps ∧ (t.cluster cl).banks = (s.cluster cl).banks))
  ∧ (∀ (cl no loc : Nat) (r : List Turn) (s : State), s.agenda = .stepRead cl no loc :: r →
    ∃ t, step s = .next t ∧ t.mem = s.mem ∧ t.cores = s.cores ∧ (t.cluster cl).banks = (s.cluster cl).banks
      ∧ (t.cluster cl).steps = (s.cluster cl).steps.map fun (m : MatStep) =>
          if m.no = no ∧ (∀ e ∈ m.seen, e.1 ≠ loc / 8 * 8)
            then { m with seen := m.seen ++ [(loc / 8 * 8, .ofNat 64 (leNat (s.mem.read (loc / 8 * 8) 8)), s.mem.badIn (loc / 8 * 8) 8)] } else m)
  ∧ (∀ (cl step : Nat) (s : State), ∃ t, exec (.scaleWrite cl step) s = .next t ∧ t.mem = s.mem ∧ t.clusters = s.clusters
    ∧ (∀ n < 8, ∀ e ∈ (t.core ⟨cl, n⟩).scales, e.1 ≠ step)
    ∧ (∀ n < 8, ∀ fs v, (s.core ⟨cl, n⟩).scales = [(step, fs, (s.core ⟨cl, n⟩).firingNo, v)] → (s.core ⟨cl, n⟩).running.isSome = true →
        (t.core ⟨cl, n⟩).regs = (s.core ⟨cl, n⟩).regs.putF fs v))
  ∧ (∀ (cl step : Nat) (s : State) (m : MatStep) (rest : List MatStep) (p : StepPart), (s.cluster cl).steps = m :: rest → m.no = step →
    (∀ n < 8, ∀ e ∈ (s.core ⟨cl, n⟩).scales, e.1 ≠ step) → p ∈ m.parts → (m.parts.map fun q => (q.core, q.bank)).Nodup → p.core < 8 →
    let old := (s.cluster cl).bank p.core p.bank
    let seen := m.view s.mem
    let acc (row j : Nat) := if p.zero then .fin false 0 0 else fmtF32.value (bankElem old.data row j)
    let last := m.owner ∈ (s.cluster cl).doomed ∧ ∀ x ∈ rest, x.owner ≠ m.owner
    ∃ t, exec (.stepComplete cl step) s = .next t ∧ (t.cluster cl).steps = rest ∧ t.cores = s.cores ∧ t.mem = s.mem
      ∧ (last → old.owner = some m.owner → (t.cluster cl).bank p.core p.bank = ⟨none, 0, false⟩)
      ∧ ((¬ last ∨ old.owner ≠ some m.owner) → ((t.cluster cl).bank p.core p.bank).owner = old.owner)
      ∧ (∀ sums bad, p.sums = some (sums, bad) → (¬ last ∨ old.owner ≠ some m.owner) →
        ((t.cluster cl).bank p.core p.bank).poison = ((!p.zero && old.poison) || bad)
        ∧ ∀ row j, row < 16 → j < 128 → bankElem ((t.cluster cl).bank p.core p.bank).data row j =
          (fmtF32.round .nearest (addVal 0 (acc row j) (fmtF32.value (bankElem sums row j)))).1 % 2 ^ 32)
      ∧ (p.sums = none → (¬ last ∨ old.owner ≠ some m.owner) →
        ((t.cluster cl).bank p.core p.bank).poison = ((!p.zero && old.poison) || (m.badB seen || p.badA seen m.pair))
        ∧ ∀ row j, row < 16 → j < 128 →
          let products := (List.range (pairOf m.pair).k).map fun i =>
            scaleTerm (isBlock m.pair) p.scale (mulVal (p.elemA seen m.pair row i) (m.elemB seen i j)).val
          let sum := (fmtF32.round .nearest ⟨stepSum 6 products, false, 0⟩).1
          bankElem ((t.cluster cl).bank p.core p.bank).data row j =
            (fmtF32.round .nearest (addVal 0 (acc row j) (fmtF32.value sum))).1 % 2 ^ 32))

/-! ## Routers and remote writes -/

/-- Route swaps and the injection limiter (R293, R294): a swap whose routes contain no cycle goes to the standby banks and stops the network's
injection; it takes effect once nothing of the network is under way, the loads and atomics among it that were on the mesh when the swap began: which packets are under way is
the model's choice, and so is it that the reads of a walk and the launcher's own accesses are of the system's network, number 16, and wait while that drains (log entry 57); what counts as
a cycle is log entry 111, and that a route to a cluster that is no neighbour is taken is log entry 112. An atomic behind a buffered store of its core, and a `redget` that waits at its slot, are not under way. A bucket fills by RATE for every
1,000 ticks since it was settled, up to BURST; a RATE of 0 sets no limit. The model's choices: that a bucket which was never charged is full (log entry 54); how many bytes a
packet counts, and that one larger than what is left goes, and drives the level below zero (log entry 7). -/
def Obligations.RouteEvents : Prop :=
  (∀ (net : Nat) (rows : List RouteRow) (s : State), s.booted = true →
    (net < 17 → acyclic rows = true → s.draining net = false →
      ∃ t, exec (.routeSwap .privileged net rows) s = .next t ∧ t.routesOf net = ((s.routesOf net).1, rows, true) ∧ t.draining net = true
        ∧ (∀ n, n ≠ net → t.routesOf n = s.routesOf n) ∧ t.mem = s.mem ∧ t.cores = s.cores ∧ t.flight = s.flight
        ∧ (net < 16 → (t.part net).crossing = s.accessesOf net))
    ∧ (acyclic rows = false → exec (.routeSwap .privileged net rows) s = .next (s.reply .refusedCommand)))
  ∧ (∀ (net : Nat) (s : State), s.draining net = true →
    (s.netBusy net = false → ∃ t, exec (.routeSwapActivate net) s = .next t ∧ t.routesOf net = ((s.routesOf net).2.1, [], false) ∧ t.draining net = false
      ∧ (∀ n, n ≠ net → t.routesOf n = s.routesOf n) ∧ t.mem = s.mem ∧ t.cores = s.cores)
    ∧ (s.netBusy net = true → exec (.routeSwapActivate net) s = .next s)
    ∧ ((∃ e ∈ (s.part net).crossing, s.crosses e = true) → s.netBusy net = true))
  ∧ (∀ (cl walk vf rope : Nat) (s : State), s.draining 16 = true → exec (.tscWalkDone cl walk) s = .next s ∧ exec (.launchMessage vf) s = .next s
    ∧ exec (.placeRope vf) s = .next s ∧ exec (.ropeStart rope) s = .next s)
  ∧ (∀ (c : CoreId) (p : Producer) (x : AtomicAt) (m : MemOp) (fill : Fill) (s : State), p.atomicAt = some (x, m, fill) →
    (∃ e ∈ (s.core c).stores, e.no ≤ m.no) → s.accessFlies c p = false)
  ∧ (∀ (cl i : Nat) (q : RedReq) (h : RedHeld) (s : State), s.namedSlot cl q.rope q.word1 = some (i, h) → h.parent = 0 →
    h.inst.toNat = bitsOf q.word1.toNat 32 2 → (h.full = false ∨ s.resultFits q = false) → s.redgetFlies cl q = false)
  ∧ (∀ (part cl : Nat) (s : State), part < 16 →
    let p := s.part part
    let top : Int := (p.burst.toNat : Int) * 1024 * 1000
    (p.buckets.get cl = none → p.level cl s.now.toNat = top)
    ∧ (∀ level at_, p.buckets.get cl = some (level, at_) →
      p.level cl s.now.toNat = min top (level + (p.rate.toNat : Int) * ((s.now.toNat : Int) - (at_ : Int))))
    ∧ (∃ t, exec (.limiterRefill part cl) s = .next t ∧ (t.part part).buckets.get cl = some (p.level cl s.now.toNat, s.now.toNat)
      ∧ (∀ n, n ≠ part → t.part n = s.part n) ∧ t.mem = s.mem ∧ t.cores = s.cores)
    ∧ (s.limiterOpen part cl = true ↔ p.rate = 0 ∨ 0 < p.level cl s.now.toNat)
    ∧ (∀ bytes, (p.rate = 0 → s.charge part cl bytes = s)
      ∧ (p.rate ≠ 0 → ((s.charge part cl bytes).part part).level cl s.now.toNat = p.level cl s.now.toNat - Config.packetBytes bytes * 1000)))

/-- `REDSLOT_SERVE` (R299, R300): no earlier than 64 ticks after its stamp, in the order of stamps and, at one stamp, of partitions from the pointer on; of two of one
core with one stamp the one issued earlier comes first, which is the model's choice (log entry 103); a request whose
packet waits at injection for the limiter is not served (R294). An orphan, or a second slot for a rope and a collective, is DENIED; the lowest free slot gets the next
generation; without one the answer is SLOT_BUSY.
`REDGET_SERVE` and `REDFREE_SERVE` (R303, R304): a root slot at the instance that the handle names gives its result to the register once it is FULL, and goes on to its next
instance; where the register cannot take it yet, the slot stays FULL; any other handle traps ENGINE; a freed slot is held no more. -/
def Obligations.Reductions : Prop :=
  ((∀ (s : State) (q : RedReq), s.reqArrives q = true ↔ q.sent = true ∨ (s.draining q.part = false ∧ s.limiterOpen q.part q.cluster = true))
    ∧ (∀ (cl : Nat) (s : State), (∀ q ∈ (s.cluster cl).redReqs, s.now.toNat < q.stamp + 64 ∨ s.reqArrives q = false) → exec (.redslotServe cl) s = .next s)
    ∧ (∀ (cl : Nat) (s : State) (q : RedReq), s.nextRedReq cl = some q →
      let k := s.cluster cl
      q ∈ k.redReqs ∧ q.stamp + 64 ≤ s.now.toNat ∧ s.reqArrives q = true
      ∧ ∀ x ∈ k.redReqs, x.stamp + 64 ≤ s.now.toNat → s.reqArrives x = true → q.stamp ≤ x.stamp
        ∧ (x.stamp = q.stamp → (q.part + 15 - k.redPtr.toNat) % 16 ≤ (x.part + 15 - k.redPtr.toNat) % 16))
    ∧ (∀ (cl : Nat) (s : State) (q : RedReq) (x : Producer), s.nextRedReq cl = some q →
      (s.core ⟨q.cluster, q.core⟩).producer q.producer = some x → x.pending = .redslot →
      let k := s.cluster cl
      let denied := (q.word2 ≠ 0 ∧ s.namedSlot (q.word2.toNat / 2 ^ 8 % 2 ^ 8) q.rope q.word2 = none)
        ∨ ∃ i < 8, ∃ h, (k.redSlot i).held = some h ∧ h.rope = q.rope ∧ h.coll = q.word1.extractLsb' 0 8
      ∃ t w, exec (.redslotServe cl) s = .next t ∧ t.mem = s.mem
        ∧ (t.core ⟨q.cluster, q.core⟩).producer q.producer = some { x with pending := .answer (.word w) }
        ∧ (denied → w = 0x8000000000000002 ∧ (t.cluster cl).redSlots = k.redSlots)
        ∧ (¬ denied → (∀ i < 8, (k.redSlot i).held.isSome = true) → w = 0x8000000000000001 ∧ (t.cluster cl).redSlots = k.redSlots)
        ∧ (¬ denied → ∀ i < 8, (k.redSlot i).held = none → (∀ j < i, (k.redSlot j).held.isSome = true) →
          let gen := if (k.redSlot i).gen = 0xFFFF then 1 else (k.redSlot i).gen + 1
          w = redHandle cl i gen 0
          ∧ ∃ h, (t.cluster cl).redSlot i = ⟨gen, some h⟩ ∧ h.rope = q.rope ∧ h.coll = q.word1.extractLsb' 0 8 ∧ h.oneShot = q.word1.getLsbD 8
            ∧ h.fmt = q.word1.extractLsb' 9 3 ∧ h.count = q.word1.toNat / 2 ^ 16 % 2 ^ 8 ∧ h.parent = q.word2 ∧ h.inst = 0 ∧ h.part = none
            ∧ h.got = 0 ∧ h.full = false)))
  ∧ ((∀ (cl req : Nat) (s : State) (q : RedReq) (x : Producer), (s.cluster cl).redGets.find? (fun q => q.no == req) = some q →
      (s.core ⟨q.cluster, q.core⟩).producer q.producer = some x → x.pending = .redget →
      let c : CoreId := ⟨q.cluster, q.core⟩
      (s.reqArrives q = false → exec (.redgetServe cl req) s = .next s)
      ∧ (s.reqArrives q = true → (s.namedSlot cl q.rope q.word1 = none ∨ ∃ i h, s.namedSlot cl q.rope q.word1 = some (i, h) ∧ (h.parent ≠ 0 ∨ h.inst ≠ q.word1.extractLsb' 32 2)) →
        ∃ t, exec (.redgetServe cl req) s = .next t ∧ t.mem = s.mem
          ∧ (t.core ⟨q.cluster, q.core⟩).producer q.producer = some { x with pending := .fail .engine (q.instrWord.setWidth 64) })
      ∧ ∀ i h, s.reqArrives q = true → s.namedSlot cl q.rope q.word1 = some (i, h) → h.parent = 0 → h.inst = q.word1.extractLsb' 32 2 →
        (h.full = false ∨ s.arrivalTest c x.dest = .stall → ∃ t, exec (.redgetServe cl req) s = .next t ∧ t.mem = s.mem ∧ t.cores = s.cores
          ∧ (t.cluster cl).redSlots = (s.cluster cl).redSlots
          ∧ (t.cluster cl).redGets = (s.cluster cl).redGets.map fun (y : RedReq) => if y.no = req then { y with sent := true } else y)
        ∧ (∀ v g, h.full = true → h.part = some v → (∀ p ∈ (s.cluster cl).redHold, p.handle.toNat % 8 ≠ i) → x.dest = some g →
          s.arrivalTest c x.dest = .go → x.firing = (s.core c).firingNo → (s.core c).running.isSome = true →
          ∃ t, exec (.redgetServe cl req) s = .next t ∧ t.mem = s.mem
            ∧ t.core c = ((s.modCore c fun k => k.dropProducer x.no).putReg c g (.word v)).core c
            ∧ ((t.cluster cl).redSlot i).held = some { h with part := none, got := 0, inst := h.inst + 1, full := false }))
    ∧ (∀ (cl req : Nat) (s : State) (q : RedReq), (s.cluster cl).redFrees.find? (fun q => q.no == req) = some q → s.reqArrives q = true →
      ∃ t, exec (.redfreeServe cl req) s = .next t ∧ t.mem = s.mem
        ∧ (∀ i h, s.namedSlot cl q.rope q.word1 = some (i, h) → (∀ p ∈ (s.cluster cl).redHold, p.handle.toNat % 8 ≠ i) →
          ((t.cluster cl).redSlot i).held = none ∧ ∀ j, j ≠ i → (t.cluster cl).redSlot j = (s.cluster cl).redSlot j)
        ∧ (s.namedSlot cl q.rope q.word1 = none → (t.cluster cl).redSlots = (s.cluster cl).redSlots)))

/-- `CONTRIBUTION_ARRIVAL` (R298, R301, R302): a contribution for the instance that a slot of its rope is on is combined, one for the next instance is
held, one for another is refused, one that comes to a FULL slot or finds no room is refused FULL; a slot that nothing names it refuses NOACTOR; where the handle asks for no
reply, a refusal sends nothing and is charged nothing. The
partial that completes a slot with a parent goes to the parent, and is kept and offered again where the parent would hold it, or while its network drains or the limiter of
its cluster is empty (R293, R294); that a partial is charged as its parent takes it is the model's choice (log entry 7). -/
def Obligations.Contributions : Prop :=
  (∀ (cl pkt : Nat) (s : State) (p : Contribution) (c : CoreId) (slot : Nat), (s.cluster cl).redPackets.find? (fun q => q.no == pkt) = some p →
    p.origin = some (c, slot) → p.child = none →
    (∀ q ∈ (s.cluster cl).redPackets.takeWhile (fun q => q.no != pkt), q.origin ≠ p.origin) →
    let t := s.modCluster cl fun k => { k with redPackets := k.redPackets.filter fun q => q.no != pkt }
    (s.namedSlot cl p.rope p.handle = none → exec (.contributionArrival cl pkt) s = .next (t.refuseContribution p 4))
    ∧ ∀ i h, s.namedSlot cl p.rope p.handle = some (i, h) →
      let ahead := p.handle.extractLsb' 32 2 - h.inst
      (ahead = 0 → h.full = true → exec (.contributionArrival cl pkt) s = .next (t.refuseContribution p 1))
      ∧ (ahead = 0 → h.full = false → ∃ u, exec (.contributionArrival cl pkt) s = .next u ∧ u.mem = s.mem ∧ u.cores = s.cores
        ∧ ((u.cluster cl).redSlot i).held = some { h with
            part := some (match h.part with | some q => redCombine h.fmt q p.value | none => p.value), got := h.got + 1, full := decide (h.count ≤ h.got + 1) }
        ∧ (h.got + 1 < h.count ∨ h.parent = 0 → (u.cluster cl).redPackets = (t.cluster cl).redPackets)
        ∧ (h.count ≤ h.got + 1 → h.parent ≠ 0 → ∃ o v, (u.cluster (h.parent.toNat / 2 ^ 8 % 2 ^ 8)).redPackets
            = (t.cluster (h.parent.toNat / 2 ^ 8 % 2 ^ 8)).redPackets ++ [o] ∧ o.child = some (cl, i) ∧ o.rope = h.rope ∧ o.value = v
            ∧ ((u.cluster cl).redSlot i).held.map RedHeld.part = some (some v)))
      ∧ (ahead = 1 → (s.cluster cl).redHold.length < 16 →
        exec (.contributionArrival cl pkt) s = .next (t.modCluster cl fun k => { k with redHold := k.redHold ++ [p] }))
      ∧ (ahead = 1 → 16 ≤ (s.cluster cl).redHold.length → exec (.contributionArrival cl pkt) s = .next (t.refuseContribution p 1))
      ∧ (ahead ≠ 0 → ahead ≠ 1 → exec (.contributionArrival cl pkt) s = .next (t.refuseContribution p 5)))
  ∧ (∀ (p : Contribution) (why : BitVec 3) (s : State), p.handle.getLsbD 39 = false → s.refuseContribution p why = s)
  ∧ (∀ (cl pkt ccl ci : Nat) (s : State) (p : Contribution), (s.cluster cl).redPackets.find? (fun q => q.no == pkt) = some p →
    p.origin = none → p.child = some (ccl, ci) →
    (s.draining (s.partOfRope p.rope) = true ∨ s.limiterOpen (s.partOfRope p.rope) ccl = false → exec (.contributionArrival cl pkt) s = .next s)
    ∧ (∀ i h, s.namedSlot cl p.rope p.handle = some (i, h) → p.handle.extractLsb' 32 2 ≠ h.inst ∨ h.full = true →
      exec (.contributionArrival cl pkt) s = .next s)
    ∧ (∀ i h y, s.draining (s.partOfRope p.rope) = false → s.limiterOpen (s.partOfRope p.rope) ccl = true →
      s.namedSlot cl p.rope p.handle = some (i, h) → p.handle.extractLsb' 32 2 = h.inst → h.full = false → ci < 8 → (ccl, ci) ≠ (cl, i) →
      ((s.cluster ccl).redSlot ci).held = some y → (∀ q ∈ (s.cluster ccl).redHold, q.handle.toNat % 8 ≠ ci) →
      ∃ u, exec (.contributionArrival cl pkt) s = .next u ∧ ((u.cluster cl).redSlot i).held = some (h.combine p.value)
        ∧ ((u.cluster ccl).redSlot ci).held = some { y with part := none, got := 0, inst := y.inst + 1, full := false }))

/-- Remote writes (R305, R307, R308): a packet of a RUD context of the booted package, of at most 4,096 bytes, whose network does not drain and whose stacks are awake, lands
through the VF's tables, or is an error to the host over the context's next entropy value; once all of it landed its count is written to the completion word, which is set
full. A switched-out VF's completion is held, up to 64 of them. The model's choices: a packet of no assigned context, of an ordered one, or of more bytes is taken for none
(log entry 77); one that comes while its network drains waits, and so does a completion (log entry 57); one that reaches a stack in self-refresh waits too (log entry 56); a
packet lands in one step (log entry 102). -/
def Obligations.RemoteWrites : Prop :=
  (∀ (ctx : Nat) (x : DeliveryContext) (s : State), s.contexts.get ctx = some x →
    let t := s.writeFails ctx x.vf
    t.hostOut = s.hostOut ++ [.writeError x.vf ((x.entropy[x.next]?).getD 0)] ∧ t.mem = s.mem ∧ t.transfers = s.transfers
      ∧ t.contexts.get ctx = some { x with next := (x.next + 1) % x.entropy.length })
  ∧ (∀ (ctx xfer total : Nat) (compl : Word64) (va : BitVec 52) (data : List Byte) (s : State),
    (s.contexts.get ctx = none → exec (.remoteWriteData ctx xfer total compl va data) s = .next s)
    ∧ ∀ x, s.contexts.get ctx = some x →
      ((s.booted = false ∨ x.ordered = true ∨ 4096 < data.length ∨ s.draining (s.partOfVf x.vf) = true ∨ s.deviceAsleep x.vf va.toNat data.length true = true) →
        exec (.remoteWriteData ctx xfer total compl va data) s = .next s)
      ∧ (s.booted = true → x.ordered = false → data.length ≤ 4096 → s.draining (s.partOfVf x.vf) = false → s.deviceAsleep x.vf va.toNat data.length true = false →
        (s.deviceWrite x.vf true va.toNat data = none → exec (.remoteWriteData ctx xfer total compl va data) s = .next (s.writeFails ctx x.vf))
        ∧ (∀ t, s.deviceWrite x.vf true va.toNat data = some t → ∃ u y, exec (.remoteWriteData ctx xfer total compl va data) s = .next u ∧ u.mem = t.mem
          ∧ u.transfers.get xfer = some y ∧ y.landed = (match s.transfers.get xfer with | some z => z.landed | none => 0) + data.length
          ∧ (s.transfers.get xfer = none → y = ⟨ctx, x.vf, total, data.length, compl⟩))
        ∧ (∀ pa b, data = [b] → s.devicePa x.vf va.toNat true = some pa → s.mem.wf = true →
          ∃ u, exec (.remoteWriteData ctx xfer total compl va data) s = .next u
            ∧ u.mem.byte (pa % 2 ^ 39) = b ∧ ∀ a, a ≠ pa % 2 ^ 39 → u.mem.byte a = s.mem.byte a)))
  ∧ (∀ (xfer : Nat) (s : State) (t : Transfer), s.transfers.get xfer = some t →
    ((t.landed < t.total ∨ s.booted = false ∨ s.draining (s.partOfVf t.vf) = true) → exec (.remoteWriteCompletion xfer) s = .next s)
    ∧ (s.booted = true → t.total ≤ t.landed → s.draining (s.partOfVf t.vf) = false → s.completionPlace t.address = none → ∃ u, exec (.remoteWriteCompletion xfer) s = .next u
      ∧ u.hostOut = s.hostOut ++ [.writeError t.vf (s.sendOver t.ctx).1] ∧ u.transfers.get xfer = none ∧ u.mem = s.mem)
    ∧ ∀ vf c off, s.booted = true → t.total ≤ t.landed → s.draining (s.partOfVf t.vf) = false → s.completionPlace t.address = some (vf, c, off) →
      (s.switchedOut vf = false → s.mem.wf = true → ∃ u, exec (.remoteWriteCompletion xfer) s = .next u ∧ u.transfers.get xfer = none
        ∧ leNat (u.mem.read (locScratch c.cluster c.core off) 8) = t.total % 2 ^ 64 ∧ u.mem.full (locScratch c.cluster c.core off) = true)
      ∧ (∀ v, s.vfs.get vf = some v → s.switchedOut vf = true → v.heldWrites.length < 64 → ∃ u v', exec (.remoteWriteCompletion xfer) s = .next u
        ∧ u.vfs.get vf = some v' ∧ v'.heldWrites = v.heldWrites ++ [(t.address, t.total)] ∧ u.mem = s.mem)
      ∧ (∀ v, s.vfs.get vf = some v → s.switchedOut vf = true → 64 ≤ v.heldWrites.length → ∃ u, exec (.remoteWriteCompletion xfer) s = .next u
        ∧ u.hostOut = s.hostOut ++ [.writeRefused t.vf (s.sendOver t.ctx).1] ∧ u.mem = s.mem))

/-! ## Translation -/

/-- The misses of a cluster and its TSC's walks (R321 to R325): a miss is answered from the cache, joins a walk of its page, or starts one, the oldest first; but where 64 walks are
under way those that need one of their own wait, and later ones that need none are served. Walks are numbered modulo 2^16 by a number that no other has; a leaf is written into the cache and the TLB, and the access issues again, the destination of
a load marked empty no more; a fault goes to the VF's fault endpoint, or traps; a malformed entry traps XLATE. The model's readings: a walk of a stack in self-refresh waits
(log entry 56); a walk is read whole when it is done (log entry 18); its leaf stands at the head of the cache (log entry 26); of an entry, reserved bits are tested before V,
and a LEAF at level 0 and a misaligned ADDR after it (log entry 19). -/
def Obligations.Walks : Prop :=
  (∀ (cl : Nat) (s : State) (m : Walk) (early rest : List Walk), (s.cluster cl).misses = early ++ m :: rest → (early ≠ [] → 64 ≤ (s.cluster cl).walks.length) →
    (∀ x ∈ early, findEntry (s.cluster cl).cache x.vf x.va.toNat x.write = none ∧ ∀ w ∈ (s.cluster cl).walks, w.samePage x.vf x.va = false) →
    (∀ e, findEntry (s.cluster cl).cache m.vf m.va.toNat m.write = some e → ∀ n va write dest, m.waiters = [.core n] →
      (s.core ⟨cl, n⟩).park = some (.translation va write dest) → va = m.va → write = m.write → s.vfAt ⟨cl, n⟩ = m.vf → (s.core ⟨cl, n⟩).running.isSome = true →
      ∃ t, exec (.tscMissRequest cl) s = .next t ∧ some e ∈ (t.core ⟨cl, n⟩).tlb.toList ∧ (t.core ⟨cl, n⟩).park = none
        ∧ ((∀ x ∈ early ++ rest, Waiter.core n ∉ x.waiters ∧ x.waiters ≠ []) → (t.cluster cl).misses = early ++ rest)
        ∧ (t.core ⟨cl, n⟩).curSlot.phase = .firing ∧ t.mem = s.mem
        ∧ (t.core ⟨cl, n⟩).regs = (match dest with | some g => (s.core ⟨cl, n⟩).regs.mark g false | none => (s.core ⟨cl, n⟩).regs))
    ∧ (findEntry (s.cluster cl).cache m.vf m.va.toNat m.write = none →
      ((∃ w ∈ (s.cluster cl).walks, w.samePage m.vf m.va = true) → ∃ t, exec (.tscMissRequest cl) s = .next t ∧ (t.cluster cl).misses = early ++ rest
        ∧ (t.cluster cl).walks = (s.cluster cl).walks.map (fun w => if w.samePage m.vf m.va then { w with waiters := w.waiters ++ m.waiters } else w)
        ∧ t.cores = s.cores)
      ∧ ((∀ w ∈ (s.cluster cl).walks, w.samePage m.vf m.va = false) →
        ((s.cluster cl).walks.length < 64 → ∃ t, exec (.tscMissRequest cl) s = .next t ∧ (t.cluster cl).misses = rest
          ∧ (t.cluster cl).walks = (s.cluster cl).walks ++ [{ m with no := (s.cluster cl).freeWalk }] ∧ (s.cluster cl).freeWalk < 2 ^ 16
          ∧ (∀ w ∈ (s.cluster cl).walks, w.no ≠ (s.cluster cl).freeWalk) ∧ t.cores = s.cores)
        ∧ (64 ≤ (s.cluster cl).walks.length → (∀ x ∈ rest, findEntry (s.cluster cl).cache x.vf x.va.toNat x.write = none
          ∧ ∀ w ∈ (s.cluster cl).walks, w.samePage x.vf x.va = false) → exec (.tscMissRequest cl) s = .next s))))
  ∧ (∀ (s : State) (vf va : Nat) (write : Bool) (e : TlbEntry), vf < 2 ^ 9 → va < 2 ^ 52 → s.walk vf va write = .leaf e →
    e.maps vf va = true ∧ (if write then e.w else e.r) = true)
  ∧ (∀ (cl no : Nat) (s : State) (w : Walk), (s.cluster cl).walks.find? (fun w => w.no == no && w.asked.isNone) = some w →
    s.walkAsleep w.vf w.va.toNat = true → exec (.tscWalkDone cl no) s = .next s)
  -- a walk that several cores wait for
  ∧ (∀ (cl no : Nat) (ns : List Nat) (s : State) (w : Walk) (e : TlbEntry), (s.cluster cl).walks.find? (fun w => w.no == no && w.asked.isNone) = some w →
    w.waiters = ns.map Waiter.core → (∀ n ∈ ns, n < 16 ∧ (s.core ⟨cl, n⟩).running.isSome = true ∧ ∃ va write dest, (s.core ⟨cl, n⟩).park = some (.translation va write dest)) →
    s.walkAsleep w.vf w.va.toNat = false → s.walk w.vf w.va.toNat w.write = .leaf e →
    ∃ t, exec (.tscWalkDone cl no) s = .next t ∧ ∀ n ∈ ns, some e ∈ (t.core ⟨cl, n⟩).tlb.toList ∧ (t.core ⟨cl, n⟩).park = none)
  ∧ (∀ (cl no n : Nat) (s : State) (w : Walk) (va : BitVec 52) (write : Bool) (dest : Option Reg),
    (s.cluster cl).walks.find? (fun w => w.no == no && w.asked.isNone) = some w → w.waiters = [.core n] → s.walkAsleep w.vf w.va.toNat = false →
    (s.core ⟨cl, n⟩).park = some (.translation va write dest) → (s.core ⟨cl, n⟩).running.isSome = true →
    let c : CoreId := ⟨cl, n⟩
    let pc := (s.core c).regs.pc
    let ended := s.modCluster cl fun k => { k with walks := k.walks.filter fun x => x.no != w.no }
    (s.walk w.vf w.va.toNat w.write = .xlate →
      exec (.tscWalkDone cl no) s = .next ((ended.endMiss c dest).takeTrap c .xlate (accessDetail va.toNat 4 write) pc (some (pc + 4))))
    ∧ (∀ e, s.walk w.vf w.va.toNat w.write = .leaf e → ∃ t, exec (.tscWalkDone cl no) s = .next t ∧ some e ∈ (t.core c).tlb.toList ∧ (t.core c).park = none
      ∧ (t.core c).regs = (match dest with | some g => (s.core c).regs.mark g false | none => (s.core c).regs) ∧ (t.cluster cl).cache.head? = some e ∧ (∀ x ∈ (t.cluster cl).walks, x.no ≠ w.no) ∧ t.mem = s.mem)
    ∧ (∀ pa entry, s.walk w.vf w.va.toNat w.write = .fault pa entry →
      (entry.getLsbD 5 = true → exec (.tscWalkDone cl no) s = .next ((ended.endMiss c dest).takeTrap c .pagefault (accessDetail va.toNat 4 write) pc (some (pc + 4))))
      ∧ (∀ v, entry.getLsbD 5 = false → s.vfs.get w.vf = some v → ∃ t p, exec (.tscWalkDone cl no) s = .next t ∧ t.flight = s.flight ++ [p]
        ∧ p.dest = endpointAddress w.vf v.faultEp.toNat ∧ p.msg = faultMsg cl w pa entry ∧ t.cores = s.cores
        ∧ ∀ x ∈ (t.cluster cl).walks, x.no = w.no → x.asked = some s.now.toNat)))

/-- The answers of the hypervisor to a fault message (R326): RETRY walks again, DENY traps PAGEFAULT with DETAIL[56], EMULATED completes the access with
VALUE; a reply that names no fault, or was accepted after TRAPWAIT, is taken off and does nothing; where none was accepted within TRAPWAIT, the walk is denied.
`SHOOTDOWN` (R327, R331): in every cluster of its range the matching translations go from the TSC's cache and from the eight TLBs, the others
stay, and the cluster answers once the accesses that may have used them are applied: that it waits for every access of the cluster's cores to device memory, and for no
narrower set, is the model's choice (log entry 25); so is it that set bits which the rules make zero, in an answer and in a shootdown, are not looked at (log entry 94). -/
def Obligations.FaultReplies : Prop :=
  ((∀ (no : Nat) (s : State) (q : SysReq), s.sysReqs.find? (fun x => x.no == no) = some q → q.service = 3 →
      let verb := q.word0.toNat / 2 ^ 24 % 2 ^ 2
      let taken := { s with sysReqs := s.sysReqs.filter fun x => x.no != no }
      (s.askedWalk q = none →
        (verb = 0 → exec (.faultRetry no) s = .next taken) ∧ (verb = 1 ∨ verb = 3 → exec (.faultDeny no) s = .next taken)
        ∧ (verb = 2 → exec (.faultEmulated no) s = .next taken))
      ∧ ∀ cl w, s.askedWalk q = some (cl, w) →
        (verb = 0 → exec (.faultRetry no) s = .next (taken.modCluster cl fun k =>
          { k with walks := k.walks.map fun x => if x.no = w.no then { x with asked := none } else x }))
        ∧ ∀ n va write dest, w.waiters = [.core n] → (s.core ⟨cl, n⟩).park = some (.translation va write dest) → (s.core ⟨cl, n⟩).running.isSome = true →
          let c : CoreId := ⟨cl, n⟩
          let pc := (s.core c).regs.pc
          let ended := taken.modCluster cl fun k => { k with walks := k.walks.filter fun x => x.no != w.no }
          (verb = 1 ∨ verb = 3 → exec (.faultDeny no) s
            = .next ((ended.endMiss c dest).takeTrap c .pagefault (accessDetail va.toNat 4 write ||| .ofNat 64 (2 ^ 56)) pc (some (pc + 4))))
          ∧ (verb = 2 → ∃ t, exec (.faultEmulated no) s = .next t ∧ (t.core c).park = none ∧ (t.core c).curSlot.phase = .firing
            ∧ (t.core c).emul = (s.core c).emul ++ [(va, q.word1)]
            ∧ (t.core c).regs = (match dest with | some g => (s.core c).regs.mark g false | none => (s.core c).regs) ∧ (t.core c).tlb = (s.core c).tlb ∧ t.mem = s.mem))
    ∧ (∀ (s : State) (q : SysReq) (cl : Nat) (w : Walk), s.askedWalk q = some (cl, w) →
      cl = q.word0.toNat / 2 ^ 16 % 2 ^ 8 ∧ w ∈ (s.cluster cl).walks ∧ w.no = q.word0.toNat % 2 ^ 16 ∧ w.vf = q.vf
      ∧ ∃ since, w.asked = some since ∧ ∀ v, s.vfs.get w.vf = some v → q.at_ < since + v.trapWait.toNat * 10 ^ 6)
    ∧ (∀ (cl no since : Nat) (s : State) (w : Walk) (v : Vf), (s.cluster cl).walks.find? (fun w => w.no == no) = some w → w.asked = some since →
      s.vfs.get w.vf = some v →
      let answered := ∃ q ∈ s.sysReqs, q.service = 3 ∧ s.askedWalk q = some (cl, w)
      (s.now.toNat < since + v.trapWait.toNat * 10 ^ 6 ∨ answered → exec (.faultAnswerTimeout cl no) s = .next s)
      ∧ (since + v.trapWait.toNat * 10 ^ 6 ≤ s.now.toNat → ¬ answered → exec (.faultAnswerTimeout cl no) s = .next (s.denyWalk cl w))))
  ∧ (∀ (req cl : Nat) (s : State) (q : SysReq), s.sysReqs.find? (fun q => q.no == req && q.service == 2) = some q →
      let first := q.word1.toNat % 2 ^ 8
      let count := q.word1.toNat / 2 ^ 8 % 2 ^ 8 + 1
      ((cl < first ∨ first + count ≤ cl ∨ cl ∈ q.done) → exec (.shootdown req cl) s = .next s)
      ∧ (first ≤ cl → cl < first + count → cl ∉ q.done →
        ∃ t, exec (.shootdown req cl) s = .next t ∧ t.mem = s.mem
          ∧ (∀ n < 8, ∀ e, some e ∈ (t.core ⟨cl, n⟩).tlb.toList ↔ some e ∈ (s.core ⟨cl, n⟩).tlb.toList ∧ tagRemoves q.word0 e = false)
          ∧ (t.cluster cl).cache = (s.cluster cl).cache.filter (fun e => !tagRemoves q.word0 e)
          ∧ (s.deviceApplied cl (List.range 8) = false → t.flight = s.flight)
          ∧ (∀ vf ep, s.deviceApplied cl (List.range 8) = true → q.reply.sender = .host vf ep → ∃ p, t.flight = s.flight ++ [p]
            ∧ p.dest = endpointAddress vf ep ∧ p.msg.typ = 0x19 ∧ p.msg.words = [.ofNat 64 (cl + 2 ^ 48 * (q.word1.toNat / 2 ^ 48)), 0])))

/-! ## Slices, gang stops, snapshots -/

/-- Slices (R333, R335): a slice ends when SLICE ticks have passed, and never runs longer, or by SWITCH; with another VF to run, the outgoing one's firings go to their
boundaries; alone, a VF has a new slice at once; with none to run the slice is nobody's, the model's choice (log entry 43). THROTTLEACC takes the cycles that the slice's
cores could have had, and had not, by its end, which is when its ticks passed, however late the event comes: 21 × the ticks × the cores / 10 rounded down, less the cycles had,
and never below 0, which is the model's reading of R333 (log entry 44). That SWITCH is refused while the partition is halted, and where no slice runs, is the model's choice
(log entry 74); so is it that a SLICE written while its slice runs counts at once (log entry 95). -/
def Obligations.Slices : Prop :=
  (∀ (part vf since cyc : Nat) (s : State), part < 16 → (s.part part).slicePhase = .running vf since cyc →
    let till := s.sliceOver vf since
    let got := match (s.part part).lapsed with | some e => if e.1 = till then e.2.1 else s.cyclesOf part | none => s.cyclesOf part
    let last := match (s.part part).lapsed with | some e => if e.1 = till then e.2.2 else till | none => till
    (s.sliceDue part vf = true → (s.part part).halted = false → exec (.sliceEnd part) s = .next (s.endSlice part vf since cyc))
    ∧ ((s.sliceDue part vf = false ∨ (s.part part).halted = true) → exec (.sliceEnd part) s = .next s)
    ∧ (∀ v, s.vfs.get vf = some v → v.part = part →
      (v.slice ≠ 0 → (s.sliceDue part vf = true ↔ since + max 1000 v.slice.toNat ≤ s.now.toNat)
        ∧ (s.holdsSlice vf = true ↔ s.now.toNat < since + max 1000 v.slice.toNat) ∧ till = min (since + max 1000 v.slice.toNat) s.now.toNat)
      ∧ (v.slice = 0 → (s.sliceDue part vf = true ↔ s.hasWork vf = false ∧ s.workers part ≠ []) ∧ s.holdsSlice vf = true ∧ till = s.now.toNat))
    ∧ (s.booted = true → (s.part part).halted = false → exec (.switchSlice .privileged part) s = .next ((s.endSlice part vf since cyc).reply .done))
    ∧ (s.booted = true → (s.part part).halted = true → exec (.switchSlice .privileged part) s = .next (s.reply .refusedCommand))
    ∧ (vf ∈ s.workers part → (∀ v ∈ s.workers part, v = vf) → ((s.endSlice part vf since cyc).part part).slicePhase = .running vf till got)
    ∧ ((∃ v ∈ s.workers part, v ≠ vf) → ((s.endSlice part vf since cyc).part part).slicePhase = .ending vf till last)
    ∧ (∀ v, s.vfs.get vf = some v → ∃ v', (s.endSlice part vf since cyc).vfs.get vf = some v'
      ∧ v'.throttleAcc = .ofNat 64 (min (v.throttleAcc.toNat + (21 * (till - since) * (s.coresOf part).length / 10 - (got - cyc))) (2 ^ 64 - 1)))
    ∧ (∀ v e, s.vfs.get vf = some v → v.sliceEnd since = some e →
      ((e ≤ s.now.toNat → (∀ x, (s.part part).lapsed = some x → x.1 ≠ e) → (s.noteLapses.part part).lapsed = some (e, s.cyclesOf part, e))
      ∧ (s.now.toNat < e ∨ (∃ x, (s.part part).lapsed = some x ∧ x.1 = e) → (s.noteLapses.part part).lapsed = (s.part part).lapsed)))
    ∧ (s.workers part = [] → ((s.endSlice part vf since cyc).part part).slicePhase = .idle (some (vf, till)))
    ∧ (s.endSlice part vf since cyc).mem = s.mem ∧ (s.endSlice part vf since cyc).cores = s.cores)
  ∧ (∀ (part : Nat) (s : State), s.booted = true → (∀ vf since cyc, (s.part part).slicePhase ≠ .running vf since cyc) →
    exec (.switchSlice .privileged part) s = .next (s.reply .refusedCommand) ∧ exec (.sliceEnd part) s = .next s)

/-- Switching (R251, R334 to R337): a VF at rest is saved: its slots, once the unclaimed arrival messages of its tours are back at their Halyards (R167), and what its extents
hold; the slots are vacant then, and the others and memory stand. RESTORE puts back what was saved, where it was, with the ports' spilled messages as slots allow: each slot, and every
byte, full/empty bit, tag and error of the extents, while all other memory stands; it begins the next VF's slice, once no access of the partition's cores is unperformed and no firing
that a gang stop tore still completes what it had issued. An image that cannot be read ends the VF's ropes with LOSTIMAGE. That held completions of ended actors and lost images are
dropped is the model's choice (log entry 93). -/
def Obligations.Switching : Prop :=
  (∀ (part vf since last : Nat) (s : State) (v : Vf), part < 16 → (s.part part).slicePhase = .ending vf since last → s.vfs.get vf = some v →
    let taken := (s.clearVf vf).takeBackAll vf
    let slots := taken.slotsOf vf
    ((s.atRest part vf = false ∨ (s.part part).halted = true) → exec (.switchSave part) s = .next s)
    ∧ (s.atRest part vf = true → (s.part part).halted = false → ∃ t, exec (.switchSave part) s = .next t ∧ (t.part part).slicePhase = .saved vf since
      ∧ t.vfs.get vf = some { v with
          saved := some ⟨slots, (s.rangesOf vf).map (fun x => (x.1, s.mem.restrict x.1 x.2)), true⟩
          overrun := .ofNat 32 (min (last - since) (2 ^ 32 - 1)) }
      ∧ (∀ e ∈ slots, e.2.1 < 16 → (t.core e.1).slot e.2.1 = Slot.vacant)
      ∧ (∀ (c : CoreId) (i : Nat), (∀ e ∈ slots, (CoreId.key e.1, e.2.1) ≠ (CoreId.key c, i)) → (t.core c).slot i = (taken.core c).slot i)
      ∧ (∀ n, n ≠ vf → t.vfs.get n = s.vfs.get n) ∧ t.mem = s.mem)
    ∧ ((∀ e ∈ s.tours, e.2.phase ≠ .arrived) → slots = s.slotsOf vf ∧ taken.cores = s.cores))
  ∧ (∀ (vf n k : Nat) (s : State) (r : Rope) (p : CoreId × Nat), s.ropes.get n = some r → r.vf = vf → k < r.strands.length → p ∈ r.placesOf k →
    ((s.core p.1).slot p.2).phase ≠ .vacant → ((s.core p.1).slot p.2).rope = n → (p.1, p.2, (s.core p.1).slot p.2) ∈ s.slotsOf vf)
  ∧ (∀ (n : Nat) (t : Tour) (c : CoreId) (i : Nat) (s : State), s.tours.get n = some t →
    (t.phase ≠ .arrived → s.takeBack n t = s)
    ∧ (t.phase = .arrived → s.stopActor t = some (c, i) → i < 16 → (s.takeBack n t).tours.get n = some { t with phase := .held } ∧ (s.takeBack n t).mem = s.mem
      ∧ ((s.takeBack n t).core c).slot i = { (s.core c).slot i with ins := ((s.core c).slot i).ins.map fun q => q.withdraw (.ofNat 64 (s.tileHandle t)) }))
  ∧ (∀ (part : Nat) (s : State), ((s.part part).halted = true ∨ ∃ c ∈ s.coresOf part, s.unperformed c ≠ [] ∨ (s.core c).running.isSome = true) →
    exec (.restore part) s = .next s)
  ∧ (∀ (part vf : Nat) (s : State) (v : Vf), part < 16 → (s.part part).halted = false → (∀ c ∈ s.coresOf part, s.unperformed c = [] ∧ (s.core c).running = none) →
    s.nextVf part = some vf → s.vfs.get vf = some v →
    ((∃ last, (s.part part).slicePhase = .idle last) ∨ ∃ old since, (s.part part).slicePhase = .saved old since) →
    (v.saved = none → ∃ t n, exec (.restore part) s = .next t ∧ (t.part part).slicePhase = .running vf s.now.toNat n ∧ t.mem = s.mem ∧ t.cores = s.cores)
    ∧ (∀ im, v.saved = some im → im.readable = true → v.heldWrites = [] → im.slots.Pairwise (fun a b => (CoreId.key a.1, a.2.1) ≠ (CoreId.key b.1, b.2.1)) →
      ∃ t n, exec (.restore part) s = .next t ∧ (t.part part).slicePhase = .running vf s.now.toNat n
        ∧ (∀ e ∈ im.slots, e.2.1 < 16 → (t.core e.1).slot e.2.1 = { e.2.2 with ins := e.2.2.ins.map InPort.refill })
        ∧ (∀ (c : CoreId) (i : Nat), (∀ e ∈ im.slots, (CoreId.key e.1, e.2.1) ≠ (CoreId.key c, i)) → (t.core c).slot i = (s.core c).slot i)
        ∧ t.mem = im.words.foldl (fun m w => m.merge w.2) ((s.rangesOf vf).foldl (fun m x => m.scrub x.1 x.2) s.mem)
        ∧ (∀ old : Memory, s.mem.wf = true → old.wf = true → (∀ x ∈ s.rangesOf vf, x.1 % 16 = 0 ∧ x.2 % 16 = 0) →
          im.words = (s.rangesOf vf).map (fun x => (x.1, old.restrict x.1 x.2)) →
          ∀ a, ((∃ x ∈ s.rangesOf vf, x.1 ≤ a ∧ a < x.1 + x.2) →
              t.mem.byte a = old.byte a ∧ t.mem.full a = old.full a ∧ t.mem.tag a = old.tag a ∧ t.mem.badIn a 1 = old.badIn a 1)
            ∧ ((∀ x ∈ s.rangesOf vf, a < x.1 ∨ x.1 + x.2 ≤ a) →
              t.mem.byte a = s.mem.byte a ∧ t.mem.full a = s.mem.full a ∧ t.mem.tag a = s.mem.tag a ∧ t.mem.badIn a 1 = s.mem.badIn a 1))
        ∧ s.switchedOut vf = true ∧ t.switchedOut vf = false)
    ∧ (∀ old since w, (s.part part).slicePhase = .saved old since → s.vfs.get old = some w → ∃ t w', exec (.restore part) s = .next t
      ∧ t.vfs.get old = some w' ∧ w'.gap = .ofNat 32 (min (s.now.toNat - since) (2 ^ 32 - 1)))
    ∧ (∀ im, v.saved = some im → im.readable = false → ∀ n r, s.ropes.get n = some r → r.vf = vf → r.ending = none →
      ∃ t r', exec (.restore part) s = .next t ∧ t.ropes.get n = some r' ∧ r'.ending = some .lostimage))
  ∧ (∀ q : InPort, q.refill =
    { q with msgs := q.msgs ++ q.ring.take (q.capacity - q.msgs.length), ring := q.ring.drop (q.capacity - q.msgs.length) })
  ∧ (∀ (m old : Memory) (loc n : Nat), m.wf = true → old.wf = true → loc % 16 = 0 → n % 16 = 0 →
    let back := (m.scrub loc n).merge (old.restrict loc n)
    (∀ a, loc ≤ a → a < loc + n → back.byte a = old.byte a ∧ back.full a = old.full a ∧ back.tag a = old.tag a ∧ back.badIn a 1 = old.badIn a 1)
    ∧ ∀ a, a < loc ∨ loc + n ≤ a → back.byte a = m.byte a ∧ back.full a = m.full a ∧ back.tag a = m.tag a ∧ back.badIn a 1 = m.badIn a 1)

/-- Gang stops and snapshots (R335, R338 to R341): a fatal fault, or HALT, stops the partition's cores, and every core of it latches its snapshot registers, unless a
trigger still spreads, into which this one merges; its units latch their counters, which are free; a core of it then issues nothing, but for the elements of a vector store
that has issued; RELEASE lets it run on, ends the slice of the VF that was torn, and gives its ropes the outcome GANGSTOP. The torn firings of such a rope issue nothing more
(R339, R370): each completes what it had issued and is aborted, and a strand retires once its firings are over and its cores' stores are applied. The model's choices: that all
cores latch at once, and how many of its cycles, 1 to 128, a trigger takes to each (log entry 55); that GANGSTOP replaces the outcome of a rope that was ending already (log
entry 42); that SNAPPC of a core that waits, or that has no firing, is the program counter held (log entry 27); the refusals of HALT and RELEASE (log entry 53). -/
def Obligations.GangStops : Prop :=
  (∀ (part : Nat) (s : State), part < 16 → (s.part part).base + (s.part part).len ≤ 256 →
    ((s.part part).fatal = true → ∃ t, exec (.gangStop part) s = .next t ∧ (t.part part).halted = true ∧ (t.part part).fatal = false ∧ t.mem = s.mem
      ∧ (∀ c ∈ s.coresOf part, t.coreHalted c = true ∧ (t.core c).regs = (s.core c).regs
        ∧ (s.spreading part = false → (t.core c).snap = ⟨(s.core c).snap.seq + 1, 1, (s.core c).cycles, (s.core c).sent, (s.core c).recv,
          .ofNat 22 (s.core c).regs.pc.toNat, (s.core c).running.isSome⟩)
        ∧ (s.spreading part = true → (t.core c).snap = (s.core c).snap))
      ∧ (s.spreading part = false → ∀ c ∈ s.coresOf part, ∃ n, (CoreId.key c, n) ∈ (t.part part).spread
        ∧ (s.core c).cycles.toNat < n ∧ n ≤ (s.core c).cycles.toNat + 128))
    ∧ ((s.part part).fatal = false → exec (.gangStop part) s = .next s)
    ∧ (s.booted = true → s.spreading part = true → exec (.managementSnapshot .privileged part) s = .next (s.reply .done))
    ∧ (s.booted = true → s.spreading part = false → ∃ t, exec (.managementSnapshot .privileged part) s = .next t ∧ t.mem = s.mem
      ∧ (∀ n, n ≠ part → t.part n = s.part n)
      ∧ (∀ c ∈ s.coresOf part, (t.core c).snap = ⟨(s.core c).snap.seq + 1, 3, (s.core c).cycles, (s.core c).sent, (s.core c).recv,
          .ofNat 22 (s.core c).regs.pc.toNat, (s.core c).running.isSome⟩ ∧ (t.core c).regs = (s.core c).regs))
    ∧ (s.booted = true → (s.part part).len ≠ 0 → (s.part part).halted = false →
      ∃ t, exec (.halt .privileged part) s = .next t ∧ (t.part part).fatal = true ∧ t.mem = s.mem ∧ t.cores = s.cores)
    ∧ (s.booted = true → ((s.part part).len = 0 ∨ (s.part part).halted = true) → exec (.halt .privileged part) s = .next (s.reply .refusedCommand))
    ∧ (∀ vfs, s.booted = true → (s.part part).halted = true → ∃ t, exec (.release .privileged part vfs) s = .next t ∧ (t.part part).halted = false
      ∧ (∀ vf since cyc, (s.part part).slicePhase = .running vf since cyc → (t.part part).slicePhase = .idle (some (vf, s.sliceOver vf since)))
      ∧ (∀ vf since last, (s.part part).slicePhase = .ending vf since last → (t.part part).slicePhase = .idle (some (vf, since)))
      ∧ ∀ vf, (s.part part).slicePhase.holder = some vf →
        ∀ n r, s.ropes.get n = some r → r.vf = vf → ∃ r', t.ropes.get n = some r' ∧ r'.ending = some .gangstop)
    ∧ (∀ vfs, s.booted = true → (s.part part).halted = false → exec (.release .privileged part vfs) s = .next (s.reply .refusedCommand)))
  ∧ (∀ (s : State), s.agenda = [] → s.cur.cluster < 256 → s.cur.core ≤ 8 → s.coreHalted s.cur = true → (∀ till, (s.core s.cur).wait = .delay till → s.now.toNat < till) →
    ((∀ elems, (s.core s.cur).wait ≠ .vstore elems) → step s = .next (s.idleCycle s.cur))
    ∧ (∀ elems, (s.core s.cur).running.isSome = true → (s.core s.cur).park = none → (s.core s.cur).wait = .vstore elems →
      step s = .next (s.enterElems s.cur elems)))
  ∧ (∀ (c : CoreId) (r : Rope) (s : State), c.core < 8 → (s.core c).running.isSome = true → s.ropeAt c = some r → r.ending = some .gangstop → s.coreHalted c = true)
  ∧ (∀ (rope k : Nat) (r : Rope) (st : Strand) (s : State),
    (∀ c : CoreId, (s.core c).wait.issued = true → (s.tearStopped rope r).core c = s.core c)
    ∧ (∀ c ∈ r.cores, r.ending = some .gangstop → s.runs c rope = true → (s.core c).wait.issued = false → ((s.tearStopped rope r).core c).running = none)
    ∧ ((∃ g ∈ r.gang k, s.runs ⟨st.cluster, g⟩ rope = true ∨ s.storesApplied ⟨st.cluster, g⟩ = false) → s.endStrand rope r k st = s)
    ∧ ((∀ g ∈ r.gang k, s.runs ⟨st.cluster, g⟩ rope = false ∧ s.storesApplied ⟨st.cluster, g⟩ = true) → st.retired = false → s.endStrand rope r k st = s.retireStrand rope k))
  ∧ (∀ (c : CoreId) (s : State), s.booted = true →
    let k := (s.core c).snap
    let words : List Word64 :=
      [.ofNat 64 (k.seq.toNat + 2 ^ 16 * k.cause.toNat), k.cyc, k.sent, k.recv, .ofNat 64 (k.pc.toNat + 2 ^ 22 * b2n k.valid)]
    (∀ p n, s.partOfCluster c.cluster = some p → (s.part p).latched = some n →
      exec (.snapshotRead .privileged c) s = .next (s.reply (.snapshot words (Config.unitCounters n c.cluster))))
    ∧ ((∀ p, s.partOfCluster c.cluster = some p → (s.part p).latched = none) → exec (.snapshotRead .privileged c) s = .next (s.reply (.snapshot words []))))

/-! ## Power -/

/-- Telemetry and shedding (R347 to R355): a frame that is not valid is counted and nothing else; one that repeats SEQ is ignored; an accepted one sets
the readings, drives the points, and sheds the classes that the curve or the safe mask names; after 5 ms without one the safe mask applies; it is
withdrawn after HOLDOFF. A rope that is asked to shed and does not stop by its deadline is stopped, and starts no firing from then on; LASTSHED is the time that the shed took, at
most 1.5 ms, and such a rope counts for it until a firing of it can start no more; the lowest eligible class is restored, once the boot has ended (R375). -/
def Obligations.Shedding : Prop :=
  (∀ (frame : List Byte) (s : State),
    (frameValid frame = false → exec (.telemetryFrame frame) s
      = .next { s with power := { s.power with bad := if s.power.bad = BitVec.allOnes 16 then s.power.bad else s.power.bad + 1 } })
    ∧ (frameValid frame = true → s.power.heard = true → s.power.seq = .ofNat 16 (leNat ((frame.drop 1).take 2)) → exec (.telemetryFrame frame) s = .next s)
    ∧ (frameValid frame = true → (s.power.heard = false ∨ s.power.seq ≠ .ofNat 16 (leNat ((frame.drop 1).take 2))) → s.power.pendingWrites = [] →
      let points := s.power.points.map (DroopPoint.see (leNat ((frame.drop 3).take 4)) (leNat ((frame.drop 7).take 4)))
      ∃ t, exec (.telemetryFrame frame) s = .next t ∧ t.mem = s.mem ∧ t.power.points = points ∧ t.power.curve = curveOf points.toList
        ∧ t.power.freq = .ofNat 32 (leNat ((frame.drop 3).take 4)) ∧ t.power.vbus = .ofNat 32 (leNat ((frame.drop 7).take 4))
        ∧ t.power.seq = .ofNat 16 (leNat ((frame.drop 1).take 2)) ∧ t.power.stale = false ∧ t.power.lastFrame = s.now.toNat
        ∧ t.power.shed = s.power.shed ||| (curveOf points.toList ||| s.power.safe)
        ∧ ∀ n r, s.ropes.get n = some r → r.shed = .none → (t.power.shed &&& ~~~s.power.shed).getLsbD r.decl.cls.toNat = true →
            t.ropes.get n = some { r with shed := if s.switchedOut r.vf then .stopped else .asked (s.now.toNat + 1500000) }))
  ∧ (∀ (ps : List DroopPoint) (c : Nat), c < 8 → ((curveOf ps).getLsbD c = true ↔
      c ≠ 0 ∧ ∃ d ∈ ps, d.enabled = true ∧ d.active = true ∧ (d.word.extractLsb' 48 8).getLsbD c = true))
  ∧ (∀ s : State,
    ((s.power.stale = true ∨ s.now.toNat < s.power.lastFrame + 5000000) → exec .framesStale s = .next s)
    ∧ (s.power.stale = false → s.power.lastFrame + 5000000 ≤ s.now.toNat → ∃ t, exec .framesStale s = .next t ∧ t.power.stale = true
      ∧ t.power.safe = s.power.control.extractLsb' 0 8 &&& 0xFE ∧ t.power.shed = s.power.shed ||| (s.power.curve ||| t.power.safe) ∧ t.mem = s.mem)
    ∧ ((s.power.stale = true ∨ s.now.toNat < s.power.freshSince + s.power.control.toNat / 2 ^ 8 % 2 ^ 16 * 10 ^ 6) → exec .safeMaskWithdraw s = .next s)
    ∧ (s.power.stale = false → s.power.freshSince + s.power.control.toNat / 2 ^ 8 % 2 ^ 16 * 10 ^ 6 ≤ s.now.toNat →
      ∃ t, exec .safeMaskWithdraw s = .next t ∧ t.power.safe = 0 ∧ t.power.shed = s.power.shed ||| s.power.curve ∧ t.mem = s.mem))
  ∧ (∀ (n at_ : Nat) (r : Rope) (s : State), s.ropes.get n = some r → r.shed = .asked at_ →
    (s.now.toNat < at_ → exec (.shedDeadline n) s = .next s)
    ∧ (at_ ≤ s.now.toNat → ∃ t, exec (.shedDeadline n) s = .next t ∧ t.ropes.get n = some { r with shed := .stopped } ∧ t.mem = s.mem)
    ∧ (r.stopped s.now.toNat = true ↔ at_ ≤ s.now.toNat) ∧ (at_ ≤ s.now.toNat → s.canFire r = false))
  ∧ (∀ (s : State) (t : Nat) (classes : BitVec 8), s.power.shedFrom = some (t, classes) →
    let past (r : Rope) := r.shed = .none ∨ r.stopped s.now.toNat = true ∨ r.retired = true ∨ r.ending.isSome = true ∨ ∀ st ∈ r.strands, st.retired = true
    ((∀ e ∈ s.ropes, classes.getLsbD e.2.decl.cls.toNat = true → past e.2) →
      s.settleShed.power.shedFrom = none ∧ s.settleShed.power.lastShed = .ofNat 32 (min (s.now.toNat - t) 1500000))
    ∧ ((∃ e ∈ s.ropes, classes.getLsbD e.2.decl.cls.toNat = true ∧ ¬ past e.2) → s.settleShed = s))
  ∧ (∀ (cls : Nat) (s : State),
    let p := s.power
    let now := s.now.toNat
    let may := s.booted = true ∧ cls < 8 ∧ p.eligible now cls = true ∧ (∀ c < cls, p.eligible now c = false) ∧ p.restoreRising = false
      ∧ ∀ t, p.lastRestore = some t → t + p.restGap ≤ now
    (¬ may → exec (.classRestore cls) s = .next s)
    ∧ (may → ∃ t, exec (.classRestore cls) s = .next t ∧ t.power.shed = p.shed &&& ~~~BitVec.twoPow 8 cls ∧ t.power.lastRestore = some now
      ∧ t.power.lastRest = .ofNat 32 (now / 1024) ∧ t.mem = s.mem
      ∧ ∀ n r, s.ropes.get n = some r → r.decl.cls.toNat = cls → t.ropes.get n = some { r with shed := .none }))

/-- The slope of the current, allotments, rails and heat (R356 to R361): the current of a window is what its clusters draw, with filler up to 900 A where it would
fall by more than DOWNSLOPE, and held to UPSLOPE where it would rise by more; a partition over its allotment is throttled one step more; a stack at a
threshold takes that step, and step 3 is fatal to every partition, and keeps accesses from it. A cluster is on the high rail unless it is throttled or has been idle for
10 µs; a rail moves to its target at 10 mV/µs, and falls no lower than a vote that is held. The timebase that reaches 5 ms after the last frame makes the frames stale (R351),
so that no later frame forestalls it. The model's choices: an ALLOT of 0 is no limit, so that its window is calm (log
entry 50); when the events of the rails come (log entry 49); the inputs of the windows and samples (log entry 51); a stack sleeps while its cap is 0% (log entry 56). -/
def Obligations.PowerWindows : Prop :=
  (∀ (loads : List LoadRow) (s : State),
    let p := s.power
    let load := (loads.map LoadRow.current).sum
    let floor := if p.down = 0 then 0 else p.current - 1000 * p.down.toNat
    let top := p.current + 1000 * p.up.toNat
    ∃ t, exec (.currentWindow loads) s = .next t ∧ t.mem = s.mem ∧ t.cores = s.cores
      ∧ (p.up ≠ 0 → top < load → t.power.current = top)
      ∧ ((p.up = 0 ∨ load ≤ top) → t.power.current = load + min (floor - load) 900000)
      ∧ (floor - load ≤ 900000 → t.power.missed = p.missed)
      ∧ (900000 < floor - load → p.missed ≠ BitVec.allOnes 16 → t.power.missed = p.missed + 1))
  ∧ (∀ (part energy : Nat) (s : State), part < 16 →
    let p := s.part part
    ∃ t, exec (.meterWindow part energy) s = .next t ∧ t.mem = s.mem ∧ t.cores = s.cores
      ∧ (t.part part).lastWin = .ofNat 16 (min energy 65535)
      ∧ (p.allot ≠ 0 → 10 * p.allot.toNat < energy → p.throttle.toNat < 16 → (t.part part).throttle = p.throttle + 1)
      ∧ ((p.allot = 0 ∨ energy ≤ 10 * p.allot.toNat) → (t.part part).throttle.toNat ≤ p.throttle.toNat)
      ∧ ((p.allot = 0 ∨ 10 * energy ≤ 90 * p.allot.toNat) → 9 ≤ p.calmWindows → p.throttle ≠ 0 → (t.part part).throttle = p.throttle - 1)
      ∧ ∀ cl, s.partOfCluster cl = some part → ((t.part part).throttle ≠ 0 ∨ s.idleLong cl = true → (t.cluster cl).high = false)
        ∧ ((t.part part).throttle = 0 → s.idleLong cl = false → (t.cluster cl).high = true))
  ∧ (∀ (cl : Nat) (s : State),
    (s.idleLong cl = true ↔ s.clusterIdle cl = true ∧ (s.cluster cl).busyAt + 10000 ≤ s.now.toNat)
    ∧ (s.idleLong cl = true → ∃ t, exec (.idleLowRail cl) s = .next t ∧ (t.cluster cl).high = false ∧ t.mem = s.mem ∧ t.cores = s.cores)
    ∧ (s.idleLong cl = false → exec (.idleLowRail cl) s = .next s)
    ∧ (∀ part, s.partOfCluster cl = some part →
      (((s.part part).throttle ≠ 0 ∨ s.idleLong cl = true) → ∃ t, exec (.railSwitch cl) s = .next t ∧ (t.cluster cl).high = false ∧ t.mem = s.mem ∧ t.cores = s.cores)
      ∧ ((s.part part).throttle = 0 → s.idleLong cl = false →
        ∃ t, exec (.railSwitch cl) s = .next t ∧ (t.cluster cl).high = true ∧ t.mem = s.mem ∧ t.cores = s.cores)))
  ∧ (∀ (n : Nat) (r : List Turn) (s : State), s.agenda = .tick n :: r →
    let due := s.power.stale = false ∧ s.power.lastFrame + 5000000 ≤ (s.now + .ofNat 64 n).toNat
    ∃ t, step s = .next t ∧ t.now = s.now + .ofNat 64 n ∧ t.mem = s.mem ∧ (¬ due → t.cores = s.cores ∧ t.power.stale = s.power.stale ∧ t.power.shed = s.power.shed)
      ∧ (due → t.power.stale = true ∧ t.power.safe = s.power.control.extractLsb' 0 8 &&& 0xFE ∧ t.power.shed = s.power.shed ||| (s.power.curve ||| t.power.safe))
      ∧ ∀ i : Fin 4, t.power.nowMv[i] = towards s.power.nowMv[i] t.power.target[i] (t.power.heldVote i.val) (t.now.toNat / 100 - s.now.toNat / 100))
  ∧ (∀ now target held n : Nat, (now ≤ target → towards now target held n = min target (now + n))
    ∧ (target < now → towards now target held n = max (max target (min now held)) (now - n)))
  ∧ (∀ (die celsius : Nat) (s : State) (h : die < 4),
    let old := s.power.thermal[die]
    ∃ t, exec (.stackSample die celsius) s = .next t ∧ t.mem = s.mem ∧ t.cores = s.cores ∧ t.power.temp[die] = celsius
      ∧ (105 ≤ celsius → old ≤ 3 → t.power.thermal[die] = 3)
      ∧ (95 ≤ celsius → celsius < 105 → old ≤ 2 → t.power.thermal[die] = 2)
      ∧ (85 ≤ celsius → celsius < 95 → old ≤ 1 → t.power.thermal[die] = 1)
      ∧ (105 ≤ celsius → old < 3 → t.power.selfRefresh[die] = true ∧ ∀ p < 16, (s.part p).len ≠ 0 → (s.part p).halted = false → (t.part p).fatal = true)
      ∧ (celsius ≤ 90 → t.power.selfRefresh[die] = false)
      ∧ ∀ loc, loc < 2 ^ 39 → homeDie loc = die → (t.asleep loc = true ↔ t.power.selfRefresh[die] = true ∨ t.power.thermal[die] = 3))

/-! ## Management and boot -/

/-- Who may send the privileged commands (R374, R375), which are all but END, QUERY, ATTEST and the image load of recovery: before the boot has ended none of them is
answered; one of an endpoint that is not the privileged one is refused. -/
def Obligations.ManagementSenders : Prop :=
  (∀ (i : Instr) (s : State) (w : MgmtSender), commandSender i = some w → s.booted = false → exec i s = .next s)
  ∧ (∀ (i : Instr) (s : State) (vf ep : Nat), commandSender i = some (.guest vf ep) → s.booted = true → exec i s = .next (s.reply .noActor))

/-- What the commands of the privileged endpoint write (R4, R83, R86, R87, R294, R295, R305, R323, R332, R349, R356, R358 to R360, R362). A VF is one of the 384, and one
of at most 64 of its partition. The model's choices: a TRAPWAIT of 0 leaves the field (log entry 47); a command about a thing that does not exist is refused (log entry 53); a write
of MESHRATE fills the buckets (log entry 54); a vote above 950 mV or off the 5-mV steps is refused (log entry 71); a PARTITION_DEFINE ends a gang stop (log entry 72). -/
def Obligations.ManagementCommands : Prop :=
  (∀ (part base len barctx : Nat) (s : State), s.booted = true →
    (s.mayDefine part base len barctx = false → exec (.partitionDefine .privileged part base len barctx) s = .next (s.reply .refusedCommand))
    ∧ (s.mayDefine part base len barctx = true → ∃ t, exec (.partitionDefine .privileged part base len barctx) s = .next t
      ∧ (t.part part).base = base ∧ (t.part part).len = len ∧ (t.part part).barctx = barctx ∧ t.mem = s.mem ∧ t.cores = s.cores
      ∧ (t.part part).fatal = false ∧ (t.part part).halted = false ∧ (t.part part).rotation = 0 ∧ (t.part part).slicePhase = .idle none
      ∧ ∀ vf v, s.vfs.get vf = some v → v.part = part → t.vfs.get vf = some { v with ptr := len - 1 })
    ∧ (s.mayDefine part base len barctx = true → len ≠ 0 → base + len ≤ 256 ∧ barctx ≠ 0
      ∧ ∀ p < 16, p ≠ part → (s.part p).len ≠ 0 → base + len ≤ (s.part p).base ∨ (s.part p).base + (s.part p).len ≤ base))
  ∧ (∀ (vf part : Nat) (s : State), s.booted = true →
    (vf < 384 → part < 16 → s.vfsOf part < 64 → s.vfs.get vf = none → ∃ t v, exec (.vfCreate .privileged vf part) s = .next t ∧ t.vfs.get vf = some v ∧ v.part = part
      ∧ v.completion = [] ∧ v.endpoints = [] ∧ v.trapWait = 10 ∧ v.saved = none ∧ (∀ n, n ≠ vf → t.vfs.get n = s.vfs.get n) ∧ t.mem = s.mem)
    ∧ ((384 ≤ vf ∨ 64 ≤ s.vfsOf part ∨ 16 ≤ part ∨ s.vfs.get vf ≠ none) → exec (.vfCreate .privileged vf part) s = .next (s.reply .refusedCommand)))
  ∧ (∀ (vf : Nat) (v : Vf) (s : State), s.booted = true → s.vfs.get vf = some v →
    (∀ value, ∃ t v', exec (.vfctlWrite .privileged vf value) s = .next t ∧ t.vfs.get vf = some v' ∧ v'.slice = value.extractLsb' 0 32
      ∧ v'.classB = value.getLsbD 32 ∧ v'.floor = value.extractLsb' 33 3 ∧ v'.faultEp = value.extractLsb' 44 12 ∧ v'.seqDie = value.extractLsb' 56 2
      ∧ v'.trapWait = (if value.extractLsb' 36 8 = 0 then v.trapWait else value.extractLsb' 36 8) ∧ t.mem = s.mem ∧ t.cores = s.cores)
    ∧ (∀ index e, (4096 ≤ index ∨ ∃ x, e = some x ∧ 4096 ≤ x.context) → exec (.endpointTableWrite .privileged vf index e) s = .next (s.reply .refusedCommand))
    ∧ (∀ index e, index < 4096 → (∀ x, e = some x → x.context < 4096) → ∃ t v', exec (.endpointTableWrite .privileged vf index e) s = .next t ∧ t.vfs.get vf = some v'
      ∧ v'.endpoints.get index = e ∧ (∀ n, n ≠ index → v'.endpoints.get n = v.endpoints.get n) ∧ t.mem = s.mem)
    ∧ (∀ pa, ∃ t v', exec (.shadowRootWrite .privileged vf pa) s = .next t ∧ t.vfs.get vf = some v' ∧ v' = { v with root := pa } ∧ t.mem = s.mem)
    ∧ (∀ ctx ordered entropy, ctx < 4096 → 1 ≤ entropy.length → entropy.length ≤ (if ordered = true then 1 else 16) →
      ∃ t, exec (.deliveryContextAssign .privileged ctx vf ⟨ordered, entropy⟩) s = .next t ∧ t.contexts.get ctx = some ⟨vf, ordered, entropy, 0⟩
        ∧ (∀ n, n ≠ ctx → t.contexts.get n = s.contexts.get n) ∧ t.mem = s.mem)
    ∧ (∀ ctx ordered entropy, (4096 ≤ ctx ∨ entropy = [] ∨ (if ordered = true then 1 else 16) < entropy.length) →
      exec (.deliveryContextAssign .privileged ctx vf ⟨ordered, entropy⟩) s = .next (s.reply .refusedCommand)))
  ∧ (∀ (part die : Nat) (s : State), s.booted = true → part < 16 →
    (∀ rate burst, (rate = 0 ↔ burst = 0) → ∃ t, exec (.meshrateWrite .privileged part rate burst) s = .next t ∧ (t.part part).rate = rate
      ∧ (t.part part).burst = burst ∧ (t.part part).buckets = [] ∧ t.mem = s.mem)
    ∧ (∀ rate burst, ¬ (rate = 0 ↔ burst = 0) → exec (.meshrateWrite .privileged part rate burst) s = .next (s.reply .refusedCommand))
    ∧ (∀ watts, ∃ t, exec (.allotWrite .privileged part watts) s = .next t ∧ (t.part part).allot = watts ∧ t.mem = s.mem)
    ∧ (∀ mv, (950 < mv.toNat ∨ mv.toNat % 5 ≠ 0 ∨ 4 ≤ die) → exec (.voteWrite .privileged part die mv) s = .next (s.reply .refusedCommand))
    ∧ (∀ mv, die < 4 → mv.toNat ≤ 950 → mv.toNat % 5 = 0 → ∃ t, exec (.voteWrite .privileged part die mv) s = .next t ∧ (t.part part).votes.toList[die]? = some mv ∧ t.mem = s.mem)
    ∧ (∀ percent, die < 4 →
      let others := (((List.range 16).filter fun p => p != part).map fun p => ((s.part p).shares.toList[die]?).getD 0).sum
      (others + percent ≤ 100 → ∃ t, exec (.dramShareWrite .privileged part die percent) s = .next t ∧ (t.part part).shares.toList[die]? = some percent ∧ t.mem = s.mem)
      ∧ (100 < others + percent → exec (.dramShareWrite .privileged part die percent) s = .next (s.reply .refusedCommand))))
  ∧ (∀ s : State, s.booted = true →
    (∀ down up, ∃ t, exec (.slopeWrite .privileged down up) s = .next t ∧ t.power.down = down ∧ t.power.up = up
      ∧ t.power.restoreRising = (s.power.restoreRising && up != 0) ∧ t.mem = s.mem)
    ∧ (∀ index value, index ≤ 8 → s.power.stale = false → ∃ t, exec (.droopConfigWrite .privileged index value) s = .next t
      ∧ t.power = { s.power with pendingWrites := s.power.pendingWrites ++ [(index, value)] } ∧ t.mem = s.mem)
    ∧ (∀ index value, (h : index < 8) → s.power.stale = true → ∃ t, exec (.droopConfigWrite .privileged index value) s = .next t
      ∧ (t.power.points[index]).word = .ofNat 64 (value.toNat % 2 ^ 58) ∧ t.mem = s.mem)
    ∧ exec (.packetCounterRead .privileged) s = .next (s.reply (.counters [s.dropped[0], s.dropped[1], s.corrected]))
    ∧ (∃ t, exec (.droppedPacket .unreliable) s = .next t ∧ t.dropped = #v[s.dropped[0] + 1, s.dropped[1]] ∧ t.mem = s.mem)
    ∧ (∃ t, exec (.droppedPacket .authentication) s = .next t ∧ t.dropped = #v[s.dropped[0], s.dropped[1] + 1] ∧ t.mem = s.mem))

/-- Boot, firmware and attestation (R375 to R378): PACKAGE_RESET boots slot A if it verifies, else slot B, else waits in recovery; nothing of the state before it
is left but the flash and the fuses, and the boot has a new attestation key. The steps of Table 20-4 end one after the other, and only the end of the last is the end of the boot.
Recovery takes one verified image, and out of recovery the load is refused like any other command.
The evidence holds the nonce, the running image and the fuses, its signature by the boot's key, and the two certificates where they are asked for. The model's choices: keys,
digests and signatures are free (log entry 8); when the steps of the boot end (log entry 110); before the boot has ended every endpoint may send ATTEST, and a nonce that is not of 32 bytes is refused (log entry 76); a
firmware write goes to slot A, and is refused for an image that does not verify (log entry 52): R376 and R377 state neither; what the machine holds after a reset where the
spec gives no value is log entry 1. -/
def Obligations.BootEvents : Prop :=
  (∀ s : State, ∃ t, exec .packageReset s = .next t ∧ t.mem = State.reset.mem ∧ t.cores = [] ∧ t.clusters = [] ∧ t.vfs = [] ∧ t.ropes = [] ∧ t.now = 0
    ∧ t.parts = State.reset.parts ∧ t.power = Power.reset ∧ t.boot.slotA = s.boot.slotA ∧ t.boot.slotB = s.boot.slotB ∧ t.boot.minSvn = s.boot.minSvn
    ∧ t.boot.attestKey = s.freeNo ∧ t.freeNo = s.freeNo + 1
    ∧ t.booted = false
    ∧ (s.boot.verifies s.boot.slotA = true → t.boot.step = 1 ∧ t.boot.recovery = false ∧ t.boot.digest = fwDigest s.boot.slotA)
    ∧ (s.boot.verifies s.boot.slotA = false → s.boot.verifies s.boot.slotB = true → t.boot.step = 1 ∧ t.boot.recovery = false ∧ t.boot.digest = fwDigest s.boot.slotB)
    ∧ (s.boot.verifies s.boot.slotA = false → s.boot.verifies s.boot.slotB = false → t.boot.step = 0 ∧ t.boot.recovery = true))
  ∧ (∀ (r : List Turn) (s : State), s.agenda = .bootStep :: r → ∃ t, step s = .next t ∧ t = { s with agenda := r, boot := t.boot }
    ∧ t.boot = { s.boot with step := t.boot.step }
    ∧ (s.boot.step = 0 ∨ 6 ≤ s.boot.step → t.boot.step = s.boot.step)
    ∧ (1 ≤ s.boot.step → s.boot.step ≤ 5 → t.boot.step = s.boot.step + 1)
    ∧ (t.booted = true ↔ s.boot.step = 5 ∨ s.boot.step = 6))
  ∧ (∀ (img : List Byte) (s : State),
    (s.boot.recovery = false → (s.booted = false → ∀ w, exec (.recoveryImageLoad w img) s = .next s)
      ∧ (s.booted = true → exec (.recoveryImageLoad .privileged img) s = .next (s.reply .refusedCommand)
        ∧ ∀ vf ep, exec (.recoveryImageLoad (.guest vf ep) img) s = .next (s.reply .noActor)))
    ∧ (s.boot.recovery = true → ∀ vf ep, exec (.recoveryImageLoad (.guest vf ep) img) s = .next (s.reply .noActor))
    ∧ (s.boot.recovery = true → s.boot.verifies img = true → ∃ t, exec (.recoveryImageLoad .privileged img) s = .next t ∧ t.boot.step = 1
      ∧ t.booted = false ∧ t.boot.recovery = false ∧ t.boot.digest = fwDigest img ∧ t.boot.slotA = s.boot.slotA ∧ t.boot.slotB = s.boot.slotB)
    ∧ (s.boot.recovery = true → s.boot.verifies img = false → exec (.recoveryImageLoad .privileged img) s = .next (s.reply .refusedCommand))
    ∧ (∀ raise, s.booted = true → s.boot.verifies img = true → ∃ t, exec (.firmwareWrite .privileged img raise) s = .next t ∧ t.boot.slotA = img
      ∧ t.boot.slotB = s.boot.slotB ∧ t.boot.digest = s.boot.digest ∧ s.boot.minSvn.toNat ≤ t.boot.minSvn.toNat
      ∧ (raise = false → t.boot.minSvn = s.boot.minSvn) ∧ (raise = true → fwSvn img ≤ t.boot.minSvn.toNat))
    ∧ (∀ raise, s.booted = true → s.boot.verifies img = false → exec (.firmwareWrite .privileged img raise) s = .next (s.reply .refusedCommand)))
  ∧ (∀ (nonce : List Byte) (certs : Bool) (s : State) (w : MgmtSender),
    (s.mayAttest w = true ↔ s.booted = false ∨ w = .privileged ∨ ∃ vf ep, w = .guest vf ep ∧ s.listed w vf = true)
    ∧ (s.mayAttest w = false → exec (.attest w ⟨nonce, certs⟩) s = .next (s.reply .noActor))
    ∧ (s.mayAttest w = true → nonce.length ≠ 32 → exec (.attest w ⟨nonce, certs⟩) s = .next (s.reply .refusedCommand))
    ∧ (s.mayAttest w = true → nonce.length = 32 → ∃ t parts fuses,
      let fields := [nonce, leBytes 48 s.boot.digest.toNat, leBytes 4 (s.boot.svn.toNat % 2 ^ 16 + 2 ^ 16 * s.boot.least), fuses, parts, leBytes 8 s.now.toNat]
      exec (.attest w ⟨nonce, certs⟩) s = .next t ∧ t.mem = s.mem ∧ t.cores = s.cores ∧ fuses.length = 48 ∧ parts.length = 48
      ∧ t.hostOut = s.hostOut ++ [.evidence (fields
          ++ [leBytes 96 (Config.attestationSignature s.boot.attestKey s.freeNo (Config.sha384 fields.flatten)).toNat]
          ++ (if certs then [Config.identityCertificate, Config.attestationCertificate s.boot.attestKey] else []))]))

/-! ## Invariants and frames -/

/-- The canonical form of memory is kept by every step: equal memories stay equal data, whatever the instruction or event. -/
def Obligations.MemoryFormKept : Prop :=
  ∀ s t : State, s.mem.wf = true → step s = .next t → t.mem.wf = true

/-- The memory of the machine after reset is in canonical form: every byte reads zero, every word is full, no granule is tagged, and no word is in
error (Table 20-4, step 4; the model's choice for a machine that has not booted, log entry 1). -/
def Obligations.ResetMemory : Prop :=
  State.reset.mem.wf = true ∧ ∀ a, State.reset.mem.byte a = 0 ∧ State.reset.mem.full a = true ∧ State.reset.mem.tag a = false ∧ ∀ n, State.reset.mem.badIn a n = false

/-- What an instruction on registers leaves as it was: the integer, capability, move, floating-point, vector integer and permute instructions. Every other register, the
machine outside the core, the tours, and all of memory but the granule that a `cap` message is received into (R268) stand; of the flags a
floating-point instruction sets its own events (R200). -/
def Obligations.RegisterFrame : Prop :=
  (∀ (i : Instr) (f : RegForm) (s : State), (integerForm i = some f ∨ capabilityForm i = some f ∨ moveForm i = some f) → s.Issues s.cur f.srcs [f.dest] → s.mem.wf = true →
    ∃ t, exec i s = .next t ∧ s.SameOutside t ∧ t.tours = s.tours ∧ (s.core s.cur).regs.SameBut (t.core s.cur).regs (some f.dest)
      ∧ (t.core s.cur).stores = (s.core s.cur).stores ∧ (t.core s.cur).prods = (s.core s.cur).prods
      ∧ (∀ a, a < (s.core s.cur).curSlot.granule s.cur ∨ (s.core s.cur).curSlot.granule s.cur + 16 ≤ a → t.mem.byte a = s.mem.byte a)
      ∧ (∀ c, CoreId.key c ≠ CoreId.key s.cur → (t.core c).regs = (s.core c).regs))
  ∧ (∀ (i : Instr) (f : FpForm) (s : State), floatForm i = some f → s.Issues s.cur f.srcs [f.dest] → ¬ f.raises s → s.mem.wf = true →
    ∃ t, exec i s = .next t ∧ s.SameOutside t ∧ t.tours = s.tours
      ∧ { (s.core s.cur).regs with flags := (t.core s.cur).regs.flags }.SameBut (t.core s.cur).regs (some f.dest)
      ∧ (s.core s.cur).regs.flags &&& (t.core s.cur).regs.flags = (s.core s.cur).regs.flags
      ∧ (t.core s.cur).stores = (s.core s.cur).stores ∧ (t.core s.cur).prods = (s.core s.cur).prods
      ∧ (∀ a, a < (s.core s.cur).curSlot.granule s.cur ∨ (s.core s.cur).curSlot.granule s.cur + 16 ≤ a → t.mem.byte a = s.mem.byte a)
      ∧ (∀ c, CoreId.key c ≠ CoreId.key s.cur → (t.core c).regs = (s.core c).regs))
  ∧ (∀ (i : Instr) (f : VecForm) (s : State), (vectorIntegerForm i = some f ∨ permuteForm i = some f) → s.Issues s.cur f.srcs [.v f.dest] → s.mem.wf = true →
    ∃ t, exec i s = .next t ∧ s.SameOutside t ∧ t.tours = s.tours ∧ (s.core s.cur).regs.SameBut (t.core s.cur).regs (some (.v f.dest))
      ∧ (t.core s.cur).stores = (s.core s.cur).stores ∧ (t.core s.cur).prods = (s.core s.cur).prods
      ∧ (∀ a, a < (s.core s.cur).curSlot.granule s.cur ∨ (s.core s.cur).curSlot.granule s.cur + 16 ≤ a → t.mem.byte a = s.mem.byte a)
      ∧ (∀ c, CoreId.key c ≠ CoreId.key s.cur → (t.core c).regs = (s.core c).regs))

/-- What an access to memory leaves as it was (R136, R140, R142 to R144, R216, R271): a load, in every space, writes its register and nothing else; a store, `stc`, `clrf`, `stb`
and a vector store change no register and no byte of memory, but put what they write, at the address that they compute, into the store buffer; an atomic in the core's own
scratchpad changes the bytes of its word, and another one none yet. When an entry is applied at its home, exactly its bits of memory change, and they have its values;
the full bits and the tags change where it says so. -/
def Obligations.MemoryFrame : Prop :=
  (∀ (i : Instr) (f : LoadForm) (s : State) (loc : Nat) (repl : Bool), loadInstr (s.core s.cur).regs i = some f → f.Passes s loc repl →
    let space := ((s.core s.cur).regs.readC f.base).space
    (((space = 1 ∨ space = 3) ∧ ((s.core s.cur).late = true ∨ (s.LoadsNow loc f.bytes repl ∧ f.Sound s loc)))
      ∨ ((space = 2 ∨ space = 4) ∧ (s.core s.cur).loadsOut < 32)) →
    ∃ t, exec i s = .next t ∧ s.Kept t (some f.dest) ∧ t.mem = s.mem
      ∧ (t.core s.cur).stores = (s.core s.cur).stores ∧ ∀ c, CoreId.key c ≠ CoreId.key s.cur → t.core c = s.core c)
  ∧ (∀ (d c : BitVec 5) (w : Bool) (sz : BitVec 3) (imm : BitVec 12) (f : LoadForm) (s : State) (loc : Nat) (repl : Bool),
    loadInstr (s.core s.cur).regs (.ld d c w sz imm) = some f → s.Issues s.cur [⟨.c c, w⟩] (s.lateDest s.cur (.x d)) →
    s.accessCheck s.cur ((s.core s.cur).regs.readC c) (f.addr (s.core s.cur).regs) f.bytes .loadFull = .ok loc repl → (s.core s.cur).loadsOut < 32 →
    ∃ t, exec (.ldw d c w sz imm) s = .next t ∧ s.Kept t (some (.x d)) ∧ t.mem = s.mem ∧ (t.core s.cur).stores = (s.core s.cur).stores)
  ∧ (∀ (i : Instr) (f : FieldForm) (s : State) (loc : Nat) (repl : Bool), fieldLoad i = some f → s.mem.wf = true →
    s.Issues s.cur [⟨.c f.base, f.wait⟩, ⟨.x f.offset, f.wait⟩] (s.loadDest s.cur ((s.core s.cur).regs.readC f.base).space (.x f.dest)) →
    let cap := (s.core s.cur).regs.readC f.base
    let t := (s.takeX s.cur f.offset).2
    let run := fieldBytes (firstBit cap (s.takeX s.cur f.offset).1) f.width
    t.accessCheck s.cur cap run.1 run.2 .loadBits = .ok loc repl →
    ((cap.space = 1 ∧ ((t.core s.cur).late = true
        ∨ (t.mayPerform s.cur (loadOp (t.core s.cur).opNo loc run.2 repl) = true ∧ t.mem.loadBad loc ((t.core s.cur).forward loc run.2) = false)))
      ∨ (cap.space = 2 ∧ (t.core s.cur).loadsOut < 32)) →
    ∃ u, exec i s = .next u ∧ s.Kept u (some (.x f.dest)) ∧ (u.core s.cur).stores = (s.core s.cur).stores)
  ∧ (∀ (i : Instr) (f : VecMemForm) (s : State) (loc : Nat → Nat) (repl : Nat → Bool), vecLoadForm i = some f → s.mem.wf = true →
    s.Issues s.cur f.srcs [.v f.reg] → f.PassesAt s .load loc repl →
    let t := s.afterReads s.cur f.srcs
    let k := t.core s.cur
    let act := k.regs.on f.mask
    let space := (k.regs.readC f.base).space
    (((space = 1 ∨ space = 3) ∧ (k.late = true ∨ ((∀ j ∈ act, t.mayPerform s.cur (loadOp k.opNo (loc j) f.bytes false) = true)
        ∧ (∀ j ∈ act, t.mem.loadBad (loc j) (k.forward (loc j) f.bytes) = false)))) ∨ ((space = 2 ∨ space = 4) ∧ k.loadsOut < 32)) →
    ∃ u, exec i s = .next u ∧ s.Kept u (some (.v f.reg)) ∧ (u.core s.cur).stores = (s.core s.cur).stores)
  ∧ (∀ (i : Instr) (f : StoreForm) (s : State) (loc : Nat) (repl : Bool), storeInstr i = some f → f.Passes s loc repl → s.mem.wf = true →
    ∃ t e, exec i s = .next t ∧ s.Kept t none ∧ (t.core s.cur).stores = (s.core s.cur).stores ++ [e] ∧ e.bytes = placed loc (f.written s))
  ∧ (∀ (d c : BitVec 5) (w : Bool) (imm : BitVec 12) (s : State) (loc : Nat) (repl : Bool), s.Issues s.cur [⟨.c c, w⟩, ⟨.c d, w⟩] [] →
    let r := (s.core s.cur).regs
    let a : Int := (r.readC c).cursor.toNat + 16 * imm.toInt
    s.accessCheck s.cur (r.readC c) a 16 .store = .ok loc repl → ((r.readC d).tag = true → (r.readC c).perm.getLsbD 3 = true) →
    (s.core s.cur).entries < 16 →
    ∃ t e, exec (.stc d c w imm) s = .next t ∧ s.Kept t none ∧ t.mem = s.mem ∧ (t.core s.cur).stores = (s.core s.cur).stores ++ [e]
      ∧ ∃ bs : List Byte, bs.length = 16 ∧ e.bytes = placed loc bs)
  ∧ (∀ (c : BitVec 5) (w : Bool) (imm : BitVec 12) (s : State) (loc : Nat) (repl : Bool), s.Issues s.cur [⟨.c c, w⟩] [] →
    let cap := (s.core s.cur).regs.readC c
    s.accessCheck s.cur cap (cap.cursor.toNat + 8 * imm.toInt) 8 .storeFull = .ok loc repl → (s.core s.cur).entries < 16 →
    ∃ t e, exec (.clrf c w imm) s = .next t ∧ s.Kept t none ∧ t.mem = s.mem ∧ (t.core s.cur).stores = (s.core s.cur).stores ++ [e]
      ∧ e.bytes = [] ∧ e.tags = [] ∧ e.fullBit = some (loc, false))
  ∧ (∀ (d c b l : BitVec 5) (w : Bool) (s : State) (loc : Nat) (repl : Bool), s.mem.wf = true → s.Issues s.cur [⟨.c c, w⟩, ⟨.x b, w⟩, ⟨.x d, w⟩] [] →
    let cap := (s.core s.cur).regs.readC c
    let v := ((s.takeX s.cur b).2.takeX s.cur d).1
    let t := ((s.takeX s.cur b).2.takeX s.cur d).2
    let bit := firstBit cap (s.takeX s.cur b).1
    let run := fieldBytes bit (l.toNat + 1)
    t.accessCheck s.cur cap run.1 run.2 .storeBits = .ok loc repl → (t.core s.cur).entries ≤ 14 →
    ∃ u es, exec (.stb d c w b l) s = .next u ∧ s.Kept u none ∧ (u.core s.cur).stores = (s.core s.cur).stores ++ es
      ∧ (es.map fun (e : StoreEntry) => e.bytes).flatten = fieldWrites loc bit (l.toNat + 1) v run.2)
  ∧ (∀ (i : Instr) (f : VecMemForm) (s : State) (loc : Nat → Nat) (repl : Nat → Bool), vecStoreForm i = some f → s.mem.wf = true →
    s.Issues s.cur f.srcs [] → f.PassesAt s .store loc repl →
    let k := (s.afterReads s.cur f.srcs).core s.cur
    let elems := vecElems k.opNo ((k.regs.on f.mask).map fun j => (j, loc j, repl j)) f.bytes fun j => (k.regs.lane f.reg j).toNat
    ((vecBlocks elems ≤ 16 ∧ k.entries + vecBlocks elems ≤ 16) ∨ (16 < vecBlocks elems ∧ k.stores = [])) →
    ∃ u, exec i s = .next u ∧ s.Kept u none ∧ (u.core s.cur).stores = (s.core s.cur).stores ++ (if vecBlocks elems ≤ 16 then elems else []))
  ∧ (∀ (i : Instr) (f : AtomicForm) (s : State) (loc : Nat) (repl : Bool), atomicForm i = some f → f.Passes s loc repl → s.mem.wf = true →
    let t := s.afterReads s.cur f.srcs
    let k := t.core s.cur
    let space := (k.regs.readC f.base).space
    ((space = 1 → k.late = true ∨ k.stores = [] ∧ t.mayPerform s.cur (f.access s loc repl) = true ∧ t.atomicWaits (f.at_ s loc) = false ∧ t.mem.badIn loc f.check = false)
      ∧ (space ≠ 1 → k.loadsOut < 32)) →
    ∃ u, exec i s = .next u ∧ u.tours = s.tours ∧ (s.core s.cur).regs.SameBut (u.core s.cur).regs (some f.dest)
      ∧ (u.core s.cur).stores = (s.core s.cur).stores ∧ (∀ c, CoreId.key c ≠ CoreId.key s.cur → (u.core c).regs = (s.core c).regs)
      ∧ (((space ≠ 1 ∧ (repl = true ∨ homeDie loc = dieOf s.cur.cluster)) ∨ (space = 1 ∧ f.op (s.operands s.cur f.srcs) ≠ .addz)) → s.SameOutside u)
      ∧ (∀ a, (a < (s.core s.cur).curSlot.granule s.cur ∨ (s.core s.cur).curSlot.granule s.cur + 16 ≤ a) →
        (space = 1 → a < loc ∨ loc + f.bytes ≤ a) → u.mem.byte a = s.mem.byte a))
  ∧ (∀ (m : Memory) (e : StoreEntry), m.wf = true →
    (∀ loc bs, e.bytes = placed loc bs → (m.apply e).read loc bs.length = bs)
    ∧ ((e.bytes.map Prod.fst).Nodup → ∀ x ∈ e.bytes, (m.apply e).byte x.1 = ((m.byte x.1 &&& ~~~x.2.2) ||| (x.2.1 &&& x.2.2)))
    ∧ (∀ a, (∀ x ∈ e.bytes, x.1 ≠ a) → (m.apply e).byte a = m.byte a)
    ∧ (∀ a, (∀ l b, e.fullBit = some (l, b) → l / 8 ≠ a / 8) → (m.apply e).full a = m.full a)
    ∧ (∀ a, (∀ x ∈ e.tags, x.1 / 16 ≠ a / 16) → (m.apply e).tag a = m.tag a))
end

