-- ==== Sys2Proof/Laws/Encoding.lean ====
section
/-! SUPPORT. The encoder and the decoder agree: pieces that are put together are cut apart again. -/

namespace Sys2Proof

theorem joinFields_lt : ∀ l : List (Nat × Nat), (∀ p ∈ l, p.2 < 2 ^ p.1) → joinFields l < 2 ^ (l.map Prod.fst).sum
  | [], _ => by simp [joinFields]
  | (w, v) :: r, h => by
    have hv : v < 2 ^ w := h (w, v) (by simp)
    have ih := joinFields_lt r (fun p hp => h p (by simp [hp]))
    simp only [joinFields, List.map_cons, List.sum_cons, Nat.pow_add]
    calc v + 2 ^ w * joinFields r < 2 ^ w + 2 ^ w * joinFields r := by omega
      _ = 2 ^ w * (joinFields r + 1) := by rw [Nat.mul_add]; omega
      _ ≤ 2 ^ w * 2 ^ (r.map Prod.fst).sum := Nat.mul_le_mul_left _ ih

/-- Cutting what was put together gives the pieces back. -/
theorem splitFields_joinFields : ∀ l : List (Nat × Nat), (∀ p ∈ l, p.2 < 2 ^ p.1) →
    splitFields (l.map Prod.fst) (joinFields l) = l.map Prod.snd
  | [], _ => rfl
  | (w, v) :: r, h => by
    have hv : v < 2 ^ w := h (w, v) (by simp)
    have ih := splitFields_joinFields r (fun p hp => h p (by simp [hp]))
    have h1 : (v + 2 ^ w * joinFields r) % 2 ^ w = v := by
      rw [Nat.add_mul_mod_self_left, Nat.mod_eq_of_lt hv]
    have h2 : (v + 2 ^ w * joinFields r) / 2 ^ w = joinFields r := by
      rw [Nat.add_mul_div_left _ _ (Nat.two_pow_pos w), Nat.div_eq_of_lt hv, Nat.zero_add]
    simp only [splitFields, joinFields, List.map_cons, h1, h2, ih]

end Sys2Proof
end

