-- ==== Sys2Proof/Laws/State.lean ====
section
/-! SUPPORT. What each update of the state changes, and what it leaves: one lemma for each field, true by definition. -/

namespace Sys2Proof.Machine

@[simp] theorem State.setCore_mem (s : State) (c : CoreId) (k : Core) : (s.setCore c k).mem = s.mem := rfl
@[simp] theorem State.setCore_now (s : State) (c : CoreId) (k : Core) : (s.setCore c k).now = s.now := rfl
@[simp] theorem State.setCore_clusters (s : State) (c : CoreId) (k : Core) : (s.setCore c k).clusters = s.clusters := rfl
@[simp] theorem State.setCore_texts (s : State) (c : CoreId) (k : Core) : (s.setCore c k).texts = s.texts := rfl
@[simp] theorem State.setCore_tours (s : State) (c : CoreId) (k : Core) : (s.setCore c k).tours = s.tours := rfl
@[simp] theorem State.setCore_ropes (s : State) (c : CoreId) (k : Core) : (s.setCore c k).ropes = s.ropes := rfl
@[simp] theorem State.setCore_cables (s : State) (c : CoreId) (k : Core) : (s.setCore c k).cables = s.cables := rfl
@[simp] theorem State.setCore_vfs (s : State) (c : CoreId) (k : Core) : (s.setCore c k).vfs = s.vfs := rfl
@[simp] theorem State.setCore_parts (s : State) (c : CoreId) (k : Core) : (s.setCore c k).parts = s.parts := rfl
@[simp] theorem State.setCore_flying (s : State) (c : CoreId) (k : Core) : (s.setCore c k).flying = s.flying := rfl
@[simp] theorem State.setCore_sequencer (s : State) (c : CoreId) (k : Core) : (s.setCore c k).sequencer = s.sequencer := rfl
@[simp] theorem State.setCore_flight (s : State) (c : CoreId) (k : Core) : (s.setCore c k).flight = s.flight := rfl
@[simp] theorem State.setCore_answers (s : State) (c : CoreId) (k : Core) : (s.setCore c k).answers = s.answers := rfl
@[simp] theorem State.setCore_notices (s : State) (c : CoreId) (k : Core) : (s.setCore c k).notices = s.notices := rfl
@[simp] theorem State.setCore_heldTraps (s : State) (c : CoreId) (k : Core) : (s.setCore c k).heldTraps = s.heldTraps := rfl
@[simp] theorem State.setCore_sysReqs (s : State) (c : CoreId) (k : Core) : (s.setCore c k).sysReqs = s.sysReqs := rfl
@[simp] theorem State.setCore_transfers (s : State) (c : CoreId) (k : Core) : (s.setCore c k).transfers = s.transfers := rfl
@[simp] theorem State.setCore_routes (s : State) (c : CoreId) (k : Core) : (s.setCore c k).routes = s.routes := rfl
@[simp] theorem State.setCore_power (s : State) (c : CoreId) (k : Core) : (s.setCore c k).power = s.power := rfl
@[simp] theorem State.setCore_boot (s : State) (c : CoreId) (k : Core) : (s.setCore c k).boot = s.boot := rfl
@[simp] theorem State.setCore_dropped (s : State) (c : CoreId) (k : Core) : (s.setCore c k).dropped = s.dropped := rfl
@[simp] theorem State.setCore_contexts (s : State) (c : CoreId) (k : Core) : (s.setCore c k).contexts = s.contexts := rfl
@[simp] theorem State.setCore_corrected (s : State) (c : CoreId) (k : Core) : (s.setCore c k).corrected = s.corrected := rfl
@[simp] theorem State.setCore_hostOut (s : State) (c : CoreId) (k : Core) : (s.setCore c k).hostOut = s.hostOut := rfl
@[simp] theorem State.setCore_fresh (s : State) (c : CoreId) (k : Core) : (s.setCore c k).fresh = s.fresh := rfl
@[simp] theorem State.setCore_freeNo (s : State) (c : CoreId) (k : Core) : (s.setCore c k).freeNo = s.freeNo := rfl
@[simp] theorem State.setCore_cur (s : State) (c : CoreId) (k : Core) : (s.setCore c k).cur = s.cur := rfl
@[simp] theorem State.setCore_agenda (s : State) (c : CoreId) (k : Core) : (s.setCore c k).agenda = s.agenda := rfl
@[simp] theorem State.modCore_mem (s : State) (c : CoreId) (g : Core → Core) : (s.modCore c g).mem = s.mem := rfl
@[simp] theorem State.modCore_now (s : State) (c : CoreId) (g : Core → Core) : (s.modCore c g).now = s.now := rfl
@[simp] theorem State.modCore_clusters (s : State) (c : CoreId) (g : Core → Core) : (s.modCore c g).clusters = s.clusters := rfl
@[simp] theorem State.modCore_texts (s : State) (c : CoreId) (g : Core → Core) : (s.modCore c g).texts = s.texts := rfl
@[simp] theorem State.modCore_tours (s : State) (c : CoreId) (g : Core → Core) : (s.modCore c g).tours = s.tours := rfl
@[simp] theorem State.modCore_ropes (s : State) (c : CoreId) (g : Core → Core) : (s.modCore c g).ropes = s.ropes := rfl
@[simp] theorem State.modCore_cables (s : State) (c : CoreId) (g : Core → Core) : (s.modCore c g).cables = s.cables := rfl
@[simp] theorem State.modCore_vfs (s : State) (c : CoreId) (g : Core → Core) : (s.modCore c g).vfs = s.vfs := rfl
@[simp] theorem State.modCore_parts (s : State) (c : CoreId) (g : Core → Core) : (s.modCore c g).parts = s.parts := rfl
@[simp] theorem State.modCore_flying (s : State) (c : CoreId) (g : Core → Core) : (s.modCore c g).flying = s.flying := rfl
@[simp] theorem State.modCore_sequencer (s : State) (c : CoreId) (g : Core → Core) : (s.modCore c g).sequencer = s.sequencer := rfl
@[simp] theorem State.modCore_flight (s : State) (c : CoreId) (g : Core → Core) : (s.modCore c g).flight = s.flight := rfl
@[simp] theorem State.modCore_answers (s : State) (c : CoreId) (g : Core → Core) : (s.modCore c g).answers = s.answers := rfl
@[simp] theorem State.modCore_notices (s : State) (c : CoreId) (g : Core → Core) : (s.modCore c g).notices = s.notices := rfl
@[simp] theorem State.modCore_heldTraps (s : State) (c : CoreId) (g : Core → Core) : (s.modCore c g).heldTraps = s.heldTraps := rfl
@[simp] theorem State.modCore_sysReqs (s : State) (c : CoreId) (g : Core → Core) : (s.modCore c g).sysReqs = s.sysReqs := rfl
@[simp] theorem State.modCore_transfers (s : State) (c : CoreId) (g : Core → Core) : (s.modCore c g).transfers = s.transfers := rfl
@[simp] theorem State.modCore_routes (s : State) (c : CoreId) (g : Core → Core) : (s.modCore c g).routes = s.routes := rfl
@[simp] theorem State.modCore_power (s : State) (c : CoreId) (g : Core → Core) : (s.modCore c g).power = s.power := rfl
@[simp] theorem State.modCore_boot (s : State) (c : CoreId) (g : Core → Core) : (s.modCore c g).boot = s.boot := rfl
@[simp] theorem State.modCore_dropped (s : State) (c : CoreId) (g : Core → Core) : (s.modCore c g).dropped = s.dropped := rfl
@[simp] theorem State.modCore_contexts (s : State) (c : CoreId) (g : Core → Core) : (s.modCore c g).contexts = s.contexts := rfl
@[simp] theorem State.modCore_corrected (s : State) (c : CoreId) (g : Core → Core) : (s.modCore c g).corrected = s.corrected := rfl
@[simp] theorem State.modCore_hostOut (s : State) (c : CoreId) (g : Core → Core) : (s.modCore c g).hostOut = s.hostOut := rfl
@[simp] theorem State.modCore_fresh (s : State) (c : CoreId) (g : Core → Core) : (s.modCore c g).fresh = s.fresh := rfl
@[simp] theorem State.modCore_freeNo (s : State) (c : CoreId) (g : Core → Core) : (s.modCore c g).freeNo = s.freeNo := rfl
@[simp] theorem State.modCore_cur (s : State) (c : CoreId) (g : Core → Core) : (s.modCore c g).cur = s.cur := rfl
@[simp] theorem State.modCore_agenda (s : State) (c : CoreId) (g : Core → Core) : (s.modCore c g).agenda = s.agenda := rfl
@[simp] theorem State.modRegs_mem (s : State) (c : CoreId) (g : Regs → Regs) : (s.modRegs c g).mem = s.mem := rfl
@[simp] theorem State.modRegs_now (s : State) (c : CoreId) (g : Regs → Regs) : (s.modRegs c g).now = s.now := rfl
@[simp] theorem State.modRegs_clusters (s : State) (c : CoreId) (g : Regs → Regs) : (s.modRegs c g).clusters = s.clusters := rfl
@[simp] theorem State.modRegs_texts (s : State) (c : CoreId) (g : Regs → Regs) : (s.modRegs c g).texts = s.texts := rfl
@[simp] theorem State.modRegs_tours (s : State) (c : CoreId) (g : Regs → Regs) : (s.modRegs c g).tours = s.tours := rfl
@[simp] theorem State.modRegs_ropes (s : State) (c : CoreId) (g : Regs → Regs) : (s.modRegs c g).ropes = s.ropes := rfl
@[simp] theorem State.modRegs_cables (s : State) (c : CoreId) (g : Regs → Regs) : (s.modRegs c g).cables = s.cables := rfl
@[simp] theorem State.modRegs_vfs (s : State) (c : CoreId) (g : Regs → Regs) : (s.modRegs c g).vfs = s.vfs := rfl
@[simp] theorem State.modRegs_parts (s : State) (c : CoreId) (g : Regs → Regs) : (s.modRegs c g).parts = s.parts := rfl
@[simp] theorem State.modRegs_flying (s : State) (c : CoreId) (g : Regs → Regs) : (s.modRegs c g).flying = s.flying := rfl
@[simp] theorem State.modRegs_sequencer (s : State) (c : CoreId) (g : Regs → Regs) : (s.modRegs c g).sequencer = s.sequencer := rfl
@[simp] theorem State.modRegs_flight (s : State) (c : CoreId) (g : Regs → Regs) : (s.modRegs c g).flight = s.flight := rfl
@[simp] theorem State.modRegs_answers (s : State) (c : CoreId) (g : Regs → Regs) : (s.modRegs c g).answers = s.answers := rfl
@[simp] theorem State.modRegs_notices (s : State) (c : CoreId) (g : Regs → Regs) : (s.modRegs c g).notices = s.notices := rfl
@[simp] theorem State.modRegs_heldTraps (s : State) (c : CoreId) (g : Regs → Regs) : (s.modRegs c g).heldTraps = s.heldTraps := rfl
@[simp] theorem State.modRegs_sysReqs (s : State) (c : CoreId) (g : Regs → Regs) : (s.modRegs c g).sysReqs = s.sysReqs := rfl
@[simp] theorem State.modRegs_transfers (s : State) (c : CoreId) (g : Regs → Regs) : (s.modRegs c g).transfers = s.transfers := rfl
@[simp] theorem State.modRegs_routes (s : State) (c : CoreId) (g : Regs → Regs) : (s.modRegs c g).routes = s.routes := rfl
@[simp] theorem State.modRegs_power (s : State) (c : CoreId) (g : Regs → Regs) : (s.modRegs c g).power = s.power := rfl
@[simp] theorem State.modRegs_boot (s : State) (c : CoreId) (g : Regs → Regs) : (s.modRegs c g).boot = s.boot := rfl
@[simp] theorem State.modRegs_dropped (s : State) (c : CoreId) (g : Regs → Regs) : (s.modRegs c g).dropped = s.dropped := rfl
@[simp] theorem State.modRegs_contexts (s : State) (c : CoreId) (g : Regs → Regs) : (s.modRegs c g).contexts = s.contexts := rfl
@[simp] theorem State.modRegs_corrected (s : State) (c : CoreId) (g : Regs → Regs) : (s.modRegs c g).corrected = s.corrected := rfl
@[simp] theorem State.modRegs_hostOut (s : State) (c : CoreId) (g : Regs → Regs) : (s.modRegs c g).hostOut = s.hostOut := rfl
@[simp] theorem State.modRegs_fresh (s : State) (c : CoreId) (g : Regs → Regs) : (s.modRegs c g).fresh = s.fresh := rfl
@[simp] theorem State.modRegs_freeNo (s : State) (c : CoreId) (g : Regs → Regs) : (s.modRegs c g).freeNo = s.freeNo := rfl
@[simp] theorem State.modRegs_cur (s : State) (c : CoreId) (g : Regs → Regs) : (s.modRegs c g).cur = s.cur := rfl
@[simp] theorem State.modRegs_agenda (s : State) (c : CoreId) (g : Regs → Regs) : (s.modRegs c g).agenda = s.agenda := rfl
@[simp] theorem State.modSlot_mem (s : State) (c : CoreId) (i : Nat) (g : Slot → Slot) : (s.modSlot c i g).mem = s.mem := rfl
@[simp] theorem State.modSlot_now (s : State) (c : CoreId) (i : Nat) (g : Slot → Slot) : (s.modSlot c i g).now = s.now := rfl
@[simp] theorem State.modSlot_clusters (s : State) (c : CoreId) (i : Nat) (g : Slot → Slot) : (s.modSlot c i g).clusters = s.clusters := rfl
@[simp] theorem State.modSlot_texts (s : State) (c : CoreId) (i : Nat) (g : Slot → Slot) : (s.modSlot c i g).texts = s.texts := rfl
@[simp] theorem State.modSlot_tours (s : State) (c : CoreId) (i : Nat) (g : Slot → Slot) : (s.modSlot c i g).tours = s.tours := rfl
@[simp] theorem State.modSlot_ropes (s : State) (c : CoreId) (i : Nat) (g : Slot → Slot) : (s.modSlot c i g).ropes = s.ropes := rfl
@[simp] theorem State.modSlot_cables (s : State) (c : CoreId) (i : Nat) (g : Slot → Slot) : (s.modSlot c i g).cables = s.cables := rfl
@[simp] theorem State.modSlot_vfs (s : State) (c : CoreId) (i : Nat) (g : Slot → Slot) : (s.modSlot c i g).vfs = s.vfs := rfl
@[simp] theorem State.modSlot_parts (s : State) (c : CoreId) (i : Nat) (g : Slot → Slot) : (s.modSlot c i g).parts = s.parts := rfl
@[simp] theorem State.modSlot_flying (s : State) (c : CoreId) (i : Nat) (g : Slot → Slot) : (s.modSlot c i g).flying = s.flying := rfl
@[simp] theorem State.modSlot_sequencer (s : State) (c : CoreId) (i : Nat) (g : Slot → Slot) : (s.modSlot c i g).sequencer = s.sequencer := rfl
@[simp] theorem State.modSlot_flight (s : State) (c : CoreId) (i : Nat) (g : Slot → Slot) : (s.modSlot c i g).flight = s.flight := rfl
@[simp] theorem State.modSlot_answers (s : State) (c : CoreId) (i : Nat) (g : Slot → Slot) : (s.modSlot c i g).answers = s.answers := rfl
@[simp] theorem State.modSlot_notices (s : State) (c : CoreId) (i : Nat) (g : Slot → Slot) : (s.modSlot c i g).notices = s.notices := rfl
@[simp] theorem State.modSlot_heldTraps (s : State) (c : CoreId) (i : Nat) (g : Slot → Slot) : (s.modSlot c i g).heldTraps = s.heldTraps := rfl
@[simp] theorem State.modSlot_sysReqs (s : State) (c : CoreId) (i : Nat) (g : Slot → Slot) : (s.modSlot c i g).sysReqs = s.sysReqs := rfl
@[simp] theorem State.modSlot_transfers (s : State) (c : CoreId) (i : Nat) (g : Slot → Slot) : (s.modSlot c i g).transfers = s.transfers := rfl
@[simp] theorem State.modSlot_routes (s : State) (c : CoreId) (i : Nat) (g : Slot → Slot) : (s.modSlot c i g).routes = s.routes := rfl
@[simp] theorem State.modSlot_power (s : State) (c : CoreId) (i : Nat) (g : Slot → Slot) : (s.modSlot c i g).power = s.power := rfl
@[simp] theorem State.modSlot_boot (s : State) (c : CoreId) (i : Nat) (g : Slot → Slot) : (s.modSlot c i g).boot = s.boot := rfl
@[simp] theorem State.modSlot_dropped (s : State) (c : CoreId) (i : Nat) (g : Slot → Slot) : (s.modSlot c i g).dropped = s.dropped := rfl
@[simp] theorem State.modSlot_contexts (s : State) (c : CoreId) (i : Nat) (g : Slot → Slot) : (s.modSlot c i g).contexts = s.contexts := rfl
@[simp] theorem State.modSlot_corrected (s : State) (c : CoreId) (i : Nat) (g : Slot → Slot) : (s.modSlot c i g).corrected = s.corrected := rfl
@[simp] theorem State.modSlot_hostOut (s : State) (c : CoreId) (i : Nat) (g : Slot → Slot) : (s.modSlot c i g).hostOut = s.hostOut := rfl
@[simp] theorem State.modSlot_fresh (s : State) (c : CoreId) (i : Nat) (g : Slot → Slot) : (s.modSlot c i g).fresh = s.fresh := rfl
@[simp] theorem State.modSlot_freeNo (s : State) (c : CoreId) (i : Nat) (g : Slot → Slot) : (s.modSlot c i g).freeNo = s.freeNo := rfl
@[simp] theorem State.modSlot_cur (s : State) (c : CoreId) (i : Nat) (g : Slot → Slot) : (s.modSlot c i g).cur = s.cur := rfl
@[simp] theorem State.modSlot_agenda (s : State) (c : CoreId) (i : Nat) (g : Slot → Slot) : (s.modSlot c i g).agenda = s.agenda := rfl
@[simp] theorem State.jump_mem (s : State) (c : CoreId) (pc : Word64) : (s.jump c pc).mem = s.mem := rfl
@[simp] theorem State.jump_now (s : State) (c : CoreId) (pc : Word64) : (s.jump c pc).now = s.now := rfl
@[simp] theorem State.jump_clusters (s : State) (c : CoreId) (pc : Word64) : (s.jump c pc).clusters = s.clusters := rfl
@[simp] theorem State.jump_texts (s : State) (c : CoreId) (pc : Word64) : (s.jump c pc).texts = s.texts := rfl
@[simp] theorem State.jump_tours (s : State) (c : CoreId) (pc : Word64) : (s.jump c pc).tours = s.tours := rfl
@[simp] theorem State.jump_ropes (s : State) (c : CoreId) (pc : Word64) : (s.jump c pc).ropes = s.ropes := rfl
@[simp] theorem State.jump_cables (s : State) (c : CoreId) (pc : Word64) : (s.jump c pc).cables = s.cables := rfl
@[simp] theorem State.jump_vfs (s : State) (c : CoreId) (pc : Word64) : (s.jump c pc).vfs = s.vfs := rfl
@[simp] theorem State.jump_parts (s : State) (c : CoreId) (pc : Word64) : (s.jump c pc).parts = s.parts := rfl
@[simp] theorem State.jump_flying (s : State) (c : CoreId) (pc : Word64) : (s.jump c pc).flying = s.flying := rfl
@[simp] theorem State.jump_sequencer (s : State) (c : CoreId) (pc : Word64) : (s.jump c pc).sequencer = s.sequencer := rfl
@[simp] theorem State.jump_flight (s : State) (c : CoreId) (pc : Word64) : (s.jump c pc).flight = s.flight := rfl
@[simp] theorem State.jump_answers (s : State) (c : CoreId) (pc : Word64) : (s.jump c pc).answers = s.answers := rfl
@[simp] theorem State.jump_notices (s : State) (c : CoreId) (pc : Word64) : (s.jump c pc).notices = s.notices := rfl
@[simp] theorem State.jump_heldTraps (s : State) (c : CoreId) (pc : Word64) : (s.jump c pc).heldTraps = s.heldTraps := rfl
@[simp] theorem State.jump_sysReqs (s : State) (c : CoreId) (pc : Word64) : (s.jump c pc).sysReqs = s.sysReqs := rfl
@[simp] theorem State.jump_transfers (s : State) (c : CoreId) (pc : Word64) : (s.jump c pc).transfers = s.transfers := rfl
@[simp] theorem State.jump_routes (s : State) (c : CoreId) (pc : Word64) : (s.jump c pc).routes = s.routes := rfl
@[simp] theorem State.jump_power (s : State) (c : CoreId) (pc : Word64) : (s.jump c pc).power = s.power := rfl
@[simp] theorem State.jump_boot (s : State) (c : CoreId) (pc : Word64) : (s.jump c pc).boot = s.boot := rfl
@[simp] theorem State.jump_dropped (s : State) (c : CoreId) (pc : Word64) : (s.jump c pc).dropped = s.dropped := rfl
@[simp] theorem State.jump_contexts (s : State) (c : CoreId) (pc : Word64) : (s.jump c pc).contexts = s.contexts := rfl
@[simp] theorem State.jump_corrected (s : State) (c : CoreId) (pc : Word64) : (s.jump c pc).corrected = s.corrected := rfl
@[simp] theorem State.jump_hostOut (s : State) (c : CoreId) (pc : Word64) : (s.jump c pc).hostOut = s.hostOut := rfl
@[simp] theorem State.jump_fresh (s : State) (c : CoreId) (pc : Word64) : (s.jump c pc).fresh = s.fresh := rfl
@[simp] theorem State.jump_freeNo (s : State) (c : CoreId) (pc : Word64) : (s.jump c pc).freeNo = s.freeNo := rfl
@[simp] theorem State.jump_cur (s : State) (c : CoreId) (pc : Word64) : (s.jump c pc).cur = s.cur := rfl
@[simp] theorem State.jump_agenda (s : State) (c : CoreId) (pc : Word64) : (s.jump c pc).agenda = s.agenda := rfl
@[simp] theorem State.advance_mem (s : State) (c : CoreId) : (s.advance c).mem = s.mem := rfl
@[simp] theorem State.advance_now (s : State) (c : CoreId) : (s.advance c).now = s.now := rfl
@[simp] theorem State.advance_clusters (s : State) (c : CoreId) : (s.advance c).clusters = s.clusters := rfl
@[simp] theorem State.advance_texts (s : State) (c : CoreId) : (s.advance c).texts = s.texts := rfl
@[simp] theorem State.advance_tours (s : State) (c : CoreId) : (s.advance c).tours = s.tours := rfl
@[simp] theorem State.advance_ropes (s : State) (c : CoreId) : (s.advance c).ropes = s.ropes := rfl
@[simp] theorem State.advance_cables (s : State) (c : CoreId) : (s.advance c).cables = s.cables := rfl
@[simp] theorem State.advance_vfs (s : State) (c : CoreId) : (s.advance c).vfs = s.vfs := rfl
@[simp] theorem State.advance_parts (s : State) (c : CoreId) : (s.advance c).parts = s.parts := rfl
@[simp] theorem State.advance_flying (s : State) (c : CoreId) : (s.advance c).flying = s.flying := rfl
@[simp] theorem State.advance_sequencer (s : State) (c : CoreId) : (s.advance c).sequencer = s.sequencer := rfl
@[simp] theorem State.advance_flight (s : State) (c : CoreId) : (s.advance c).flight = s.flight := rfl
@[simp] theorem State.advance_answers (s : State) (c : CoreId) : (s.advance c).answers = s.answers := rfl
@[simp] theorem State.advance_notices (s : State) (c : CoreId) : (s.advance c).notices = s.notices := rfl
@[simp] theorem State.advance_heldTraps (s : State) (c : CoreId) : (s.advance c).heldTraps = s.heldTraps := rfl
@[simp] theorem State.advance_sysReqs (s : State) (c : CoreId) : (s.advance c).sysReqs = s.sysReqs := rfl
@[simp] theorem State.advance_transfers (s : State) (c : CoreId) : (s.advance c).transfers = s.transfers := rfl
@[simp] theorem State.advance_routes (s : State) (c : CoreId) : (s.advance c).routes = s.routes := rfl
@[simp] theorem State.advance_power (s : State) (c : CoreId) : (s.advance c).power = s.power := rfl
@[simp] theorem State.advance_boot (s : State) (c : CoreId) : (s.advance c).boot = s.boot := rfl
@[simp] theorem State.advance_dropped (s : State) (c : CoreId) : (s.advance c).dropped = s.dropped := rfl
@[simp] theorem State.advance_contexts (s : State) (c : CoreId) : (s.advance c).contexts = s.contexts := rfl
@[simp] theorem State.advance_corrected (s : State) (c : CoreId) : (s.advance c).corrected = s.corrected := rfl
@[simp] theorem State.advance_hostOut (s : State) (c : CoreId) : (s.advance c).hostOut = s.hostOut := rfl
@[simp] theorem State.advance_fresh (s : State) (c : CoreId) : (s.advance c).fresh = s.fresh := rfl
@[simp] theorem State.advance_freeNo (s : State) (c : CoreId) : (s.advance c).freeNo = s.freeNo := rfl
@[simp] theorem State.advance_cur (s : State) (c : CoreId) : (s.advance c).cur = s.cur := rfl
@[simp] theorem State.advance_agenda (s : State) (c : CoreId) : (s.advance c).agenda = s.agenda := rfl
@[simp] theorem State.stall_mem (s : State) (c : CoreId) : (s.stall c).mem = s.mem := rfl
@[simp] theorem State.stall_now (s : State) (c : CoreId) : (s.stall c).now = s.now := rfl
@[simp] theorem State.stall_clusters (s : State) (c : CoreId) : (s.stall c).clusters = s.clusters := rfl
@[simp] theorem State.stall_texts (s : State) (c : CoreId) : (s.stall c).texts = s.texts := rfl
@[simp] theorem State.stall_tours (s : State) (c : CoreId) : (s.stall c).tours = s.tours := rfl
@[simp] theorem State.stall_ropes (s : State) (c : CoreId) : (s.stall c).ropes = s.ropes := rfl
@[simp] theorem State.stall_cables (s : State) (c : CoreId) : (s.stall c).cables = s.cables := rfl
@[simp] theorem State.stall_vfs (s : State) (c : CoreId) : (s.stall c).vfs = s.vfs := rfl
@[simp] theorem State.stall_parts (s : State) (c : CoreId) : (s.stall c).parts = s.parts := rfl
@[simp] theorem State.stall_flying (s : State) (c : CoreId) : (s.stall c).flying = s.flying := rfl
@[simp] theorem State.stall_sequencer (s : State) (c : CoreId) : (s.stall c).sequencer = s.sequencer := rfl
@[simp] theorem State.stall_flight (s : State) (c : CoreId) : (s.stall c).flight = s.flight := rfl
@[simp] theorem State.stall_answers (s : State) (c : CoreId) : (s.stall c).answers = s.answers := rfl
@[simp] theorem State.stall_notices (s : State) (c : CoreId) : (s.stall c).notices = s.notices := rfl
@[simp] theorem State.stall_heldTraps (s : State) (c : CoreId) : (s.stall c).heldTraps = s.heldTraps := rfl
@[simp] theorem State.stall_sysReqs (s : State) (c : CoreId) : (s.stall c).sysReqs = s.sysReqs := rfl
@[simp] theorem State.stall_transfers (s : State) (c : CoreId) : (s.stall c).transfers = s.transfers := rfl
@[simp] theorem State.stall_routes (s : State) (c : CoreId) : (s.stall c).routes = s.routes := rfl
@[simp] theorem State.stall_power (s : State) (c : CoreId) : (s.stall c).power = s.power := rfl
@[simp] theorem State.stall_boot (s : State) (c : CoreId) : (s.stall c).boot = s.boot := rfl
@[simp] theorem State.stall_dropped (s : State) (c : CoreId) : (s.stall c).dropped = s.dropped := rfl
@[simp] theorem State.stall_contexts (s : State) (c : CoreId) : (s.stall c).contexts = s.contexts := rfl
@[simp] theorem State.stall_corrected (s : State) (c : CoreId) : (s.stall c).corrected = s.corrected := rfl
@[simp] theorem State.stall_hostOut (s : State) (c : CoreId) : (s.stall c).hostOut = s.hostOut := rfl
@[simp] theorem State.stall_fresh (s : State) (c : CoreId) : (s.stall c).fresh = s.fresh := rfl
@[simp] theorem State.stall_freeNo (s : State) (c : CoreId) : (s.stall c).freeNo = s.freeNo := rfl
@[simp] theorem State.stall_cur (s : State) (c : CoreId) : (s.stall c).cur = s.cur := rfl
@[simp] theorem State.stall_agenda (s : State) (c : CoreId) : (s.stall c).agenda = s.agenda := rfl
@[simp] theorem State.waitFor_mem (s : State) (c : CoreId) (w : Wait) : (s.waitFor c w).mem = s.mem := rfl
@[simp] theorem State.waitFor_now (s : State) (c : CoreId) (w : Wait) : (s.waitFor c w).now = s.now := rfl
@[simp] theorem State.waitFor_clusters (s : State) (c : CoreId) (w : Wait) : (s.waitFor c w).clusters = s.clusters := rfl
@[simp] theorem State.waitFor_texts (s : State) (c : CoreId) (w : Wait) : (s.waitFor c w).texts = s.texts := rfl
@[simp] theorem State.waitFor_tours (s : State) (c : CoreId) (w : Wait) : (s.waitFor c w).tours = s.tours := rfl
@[simp] theorem State.waitFor_ropes (s : State) (c : CoreId) (w : Wait) : (s.waitFor c w).ropes = s.ropes := rfl
@[simp] theorem State.waitFor_cables (s : State) (c : CoreId) (w : Wait) : (s.waitFor c w).cables = s.cables := rfl
@[simp] theorem State.waitFor_vfs (s : State) (c : CoreId) (w : Wait) : (s.waitFor c w).vfs = s.vfs := rfl
@[simp] theorem State.waitFor_parts (s : State) (c : CoreId) (w : Wait) : (s.waitFor c w).parts = s.parts := rfl
@[simp] theorem State.waitFor_flying (s : State) (c : CoreId) (w : Wait) : (s.waitFor c w).flying = s.flying := rfl
@[simp] theorem State.waitFor_sequencer (s : State) (c : CoreId) (w : Wait) : (s.waitFor c w).sequencer = s.sequencer := rfl
@[simp] theorem State.waitFor_flight (s : State) (c : CoreId) (w : Wait) : (s.waitFor c w).flight = s.flight := rfl
@[simp] theorem State.waitFor_answers (s : State) (c : CoreId) (w : Wait) : (s.waitFor c w).answers = s.answers := rfl
@[simp] theorem State.waitFor_notices (s : State) (c : CoreId) (w : Wait) : (s.waitFor c w).notices = s.notices := rfl
@[simp] theorem State.waitFor_heldTraps (s : State) (c : CoreId) (w : Wait) : (s.waitFor c w).heldTraps = s.heldTraps := rfl
@[simp] theorem State.waitFor_sysReqs (s : State) (c : CoreId) (w : Wait) : (s.waitFor c w).sysReqs = s.sysReqs := rfl
@[simp] theorem State.waitFor_transfers (s : State) (c : CoreId) (w : Wait) : (s.waitFor c w).transfers = s.transfers := rfl
@[simp] theorem State.waitFor_routes (s : State) (c : CoreId) (w : Wait) : (s.waitFor c w).routes = s.routes := rfl
@[simp] theorem State.waitFor_power (s : State) (c : CoreId) (w : Wait) : (s.waitFor c w).power = s.power := rfl
@[simp] theorem State.waitFor_boot (s : State) (c : CoreId) (w : Wait) : (s.waitFor c w).boot = s.boot := rfl
@[simp] theorem State.waitFor_dropped (s : State) (c : CoreId) (w : Wait) : (s.waitFor c w).dropped = s.dropped := rfl
@[simp] theorem State.waitFor_contexts (s : State) (c : CoreId) (w : Wait) : (s.waitFor c w).contexts = s.contexts := rfl
@[simp] theorem State.waitFor_corrected (s : State) (c : CoreId) (w : Wait) : (s.waitFor c w).corrected = s.corrected := rfl
@[simp] theorem State.waitFor_hostOut (s : State) (c : CoreId) (w : Wait) : (s.waitFor c w).hostOut = s.hostOut := rfl
@[simp] theorem State.waitFor_fresh (s : State) (c : CoreId) (w : Wait) : (s.waitFor c w).fresh = s.fresh := rfl
@[simp] theorem State.waitFor_freeNo (s : State) (c : CoreId) (w : Wait) : (s.waitFor c w).freeNo = s.freeNo := rfl
@[simp] theorem State.waitFor_cur (s : State) (c : CoreId) (w : Wait) : (s.waitFor c w).cur = s.cur := rfl
@[simp] theorem State.waitFor_agenda (s : State) (c : CoreId) (w : Wait) : (s.waitFor c w).agenda = s.agenda := rfl
@[simp] theorem State.endWait_mem (s : State) (c : CoreId) : (s.endWait c).mem = s.mem := rfl
@[simp] theorem State.endWait_now (s : State) (c : CoreId) : (s.endWait c).now = s.now := rfl
@[simp] theorem State.endWait_clusters (s : State) (c : CoreId) : (s.endWait c).clusters = s.clusters := rfl
@[simp] theorem State.endWait_texts (s : State) (c : CoreId) : (s.endWait c).texts = s.texts := rfl
@[simp] theorem State.endWait_tours (s : State) (c : CoreId) : (s.endWait c).tours = s.tours := rfl
@[simp] theorem State.endWait_ropes (s : State) (c : CoreId) : (s.endWait c).ropes = s.ropes := rfl
@[simp] theorem State.endWait_cables (s : State) (c : CoreId) : (s.endWait c).cables = s.cables := rfl
@[simp] theorem State.endWait_vfs (s : State) (c : CoreId) : (s.endWait c).vfs = s.vfs := rfl
@[simp] theorem State.endWait_parts (s : State) (c : CoreId) : (s.endWait c).parts = s.parts := rfl
@[simp] theorem State.endWait_flying (s : State) (c : CoreId) : (s.endWait c).flying = s.flying := rfl
@[simp] theorem State.endWait_sequencer (s : State) (c : CoreId) : (s.endWait c).sequencer = s.sequencer := rfl
@[simp] theorem State.endWait_flight (s : State) (c : CoreId) : (s.endWait c).flight = s.flight := rfl
@[simp] theorem State.endWait_answers (s : State) (c : CoreId) : (s.endWait c).answers = s.answers := rfl
@[simp] theorem State.endWait_notices (s : State) (c : CoreId) : (s.endWait c).notices = s.notices := rfl
@[simp] theorem State.endWait_heldTraps (s : State) (c : CoreId) : (s.endWait c).heldTraps = s.heldTraps := rfl
@[simp] theorem State.endWait_sysReqs (s : State) (c : CoreId) : (s.endWait c).sysReqs = s.sysReqs := rfl
@[simp] theorem State.endWait_transfers (s : State) (c : CoreId) : (s.endWait c).transfers = s.transfers := rfl
@[simp] theorem State.endWait_routes (s : State) (c : CoreId) : (s.endWait c).routes = s.routes := rfl
@[simp] theorem State.endWait_power (s : State) (c : CoreId) : (s.endWait c).power = s.power := rfl
@[simp] theorem State.endWait_boot (s : State) (c : CoreId) : (s.endWait c).boot = s.boot := rfl
@[simp] theorem State.endWait_dropped (s : State) (c : CoreId) : (s.endWait c).dropped = s.dropped := rfl
@[simp] theorem State.endWait_contexts (s : State) (c : CoreId) : (s.endWait c).contexts = s.contexts := rfl
@[simp] theorem State.endWait_corrected (s : State) (c : CoreId) : (s.endWait c).corrected = s.corrected := rfl
@[simp] theorem State.endWait_hostOut (s : State) (c : CoreId) : (s.endWait c).hostOut = s.hostOut := rfl
@[simp] theorem State.endWait_fresh (s : State) (c : CoreId) : (s.endWait c).fresh = s.fresh := rfl
@[simp] theorem State.endWait_freeNo (s : State) (c : CoreId) : (s.endWait c).freeNo = s.freeNo := rfl
@[simp] theorem State.endWait_cur (s : State) (c : CoreId) : (s.endWait c).cur = s.cur := rfl
@[simp] theorem State.endWait_agenda (s : State) (c : CoreId) : (s.endWait c).agenda = s.agenda := rfl
@[simp] theorem State.modCluster_mem (s : State) (cl : Nat) (g : Cluster → Cluster) : (s.modCluster cl g).mem = s.mem := rfl
@[simp] theorem State.modCluster_now (s : State) (cl : Nat) (g : Cluster → Cluster) : (s.modCluster cl g).now = s.now := rfl
@[simp] theorem State.modCluster_cores (s : State) (cl : Nat) (g : Cluster → Cluster) : (s.modCluster cl g).cores = s.cores := rfl
@[simp] theorem State.modCluster_texts (s : State) (cl : Nat) (g : Cluster → Cluster) : (s.modCluster cl g).texts = s.texts := rfl
@[simp] theorem State.modCluster_tours (s : State) (cl : Nat) (g : Cluster → Cluster) : (s.modCluster cl g).tours = s.tours := rfl
@[simp] theorem State.modCluster_ropes (s : State) (cl : Nat) (g : Cluster → Cluster) : (s.modCluster cl g).ropes = s.ropes := rfl
@[simp] theorem State.modCluster_cables (s : State) (cl : Nat) (g : Cluster → Cluster) : (s.modCluster cl g).cables = s.cables := rfl
@[simp] theorem State.modCluster_vfs (s : State) (cl : Nat) (g : Cluster → Cluster) : (s.modCluster cl g).vfs = s.vfs := rfl
@[simp] theorem State.modCluster_parts (s : State) (cl : Nat) (g : Cluster → Cluster) : (s.modCluster cl g).parts = s.parts := rfl
@[simp] theorem State.modCluster_flying (s : State) (cl : Nat) (g : Cluster → Cluster) : (s.modCluster cl g).flying = s.flying := rfl
@[simp] theorem State.modCluster_sequencer (s : State) (cl : Nat) (g : Cluster → Cluster) : (s.modCluster cl g).sequencer = s.sequencer := rfl
@[simp] theorem State.modCluster_flight (s : State) (cl : Nat) (g : Cluster → Cluster) : (s.modCluster cl g).flight = s.flight := rfl
@[simp] theorem State.modCluster_answers (s : State) (cl : Nat) (g : Cluster → Cluster) : (s.modCluster cl g).answers = s.answers := rfl
@[simp] theorem State.modCluster_notices (s : State) (cl : Nat) (g : Cluster → Cluster) : (s.modCluster cl g).notices = s.notices := rfl
@[simp] theorem State.modCluster_heldTraps (s : State) (cl : Nat) (g : Cluster → Cluster) : (s.modCluster cl g).heldTraps = s.heldTraps := rfl
@[simp] theorem State.modCluster_sysReqs (s : State) (cl : Nat) (g : Cluster → Cluster) : (s.modCluster cl g).sysReqs = s.sysReqs := rfl
@[simp] theorem State.modCluster_transfers (s : State) (cl : Nat) (g : Cluster → Cluster) : (s.modCluster cl g).transfers = s.transfers := rfl
@[simp] theorem State.modCluster_routes (s : State) (cl : Nat) (g : Cluster → Cluster) : (s.modCluster cl g).routes = s.routes := rfl
@[simp] theorem State.modCluster_power (s : State) (cl : Nat) (g : Cluster → Cluster) : (s.modCluster cl g).power = s.power := rfl
@[simp] theorem State.modCluster_boot (s : State) (cl : Nat) (g : Cluster → Cluster) : (s.modCluster cl g).boot = s.boot := rfl
@[simp] theorem State.modCluster_dropped (s : State) (cl : Nat) (g : Cluster → Cluster) : (s.modCluster cl g).dropped = s.dropped := rfl
@[simp] theorem State.modCluster_contexts (s : State) (cl : Nat) (g : Cluster → Cluster) : (s.modCluster cl g).contexts = s.contexts := rfl
@[simp] theorem State.modCluster_corrected (s : State) (cl : Nat) (g : Cluster → Cluster) : (s.modCluster cl g).corrected = s.corrected := rfl
@[simp] theorem State.modCluster_hostOut (s : State) (cl : Nat) (g : Cluster → Cluster) : (s.modCluster cl g).hostOut = s.hostOut := rfl
@[simp] theorem State.modCluster_fresh (s : State) (cl : Nat) (g : Cluster → Cluster) : (s.modCluster cl g).fresh = s.fresh := rfl
@[simp] theorem State.modCluster_freeNo (s : State) (cl : Nat) (g : Cluster → Cluster) : (s.modCluster cl g).freeNo = s.freeNo := rfl
@[simp] theorem State.modCluster_cur (s : State) (cl : Nat) (g : Cluster → Cluster) : (s.modCluster cl g).cur = s.cur := rfl
@[simp] theorem State.modCluster_agenda (s : State) (cl : Nat) (g : Cluster → Cluster) : (s.modCluster cl g).agenda = s.agenda := rfl
@[simp] theorem State.modJob_mem (s : State) (cl id : Nat) (g : Job → Job) : (s.modJob cl id g).mem = s.mem := rfl
@[simp] theorem State.modJob_now (s : State) (cl id : Nat) (g : Job → Job) : (s.modJob cl id g).now = s.now := rfl
@[simp] theorem State.modJob_cores (s : State) (cl id : Nat) (g : Job → Job) : (s.modJob cl id g).cores = s.cores := rfl
@[simp] theorem State.modJob_texts (s : State) (cl id : Nat) (g : Job → Job) : (s.modJob cl id g).texts = s.texts := rfl
@[simp] theorem State.modJob_tours (s : State) (cl id : Nat) (g : Job → Job) : (s.modJob cl id g).tours = s.tours := rfl
@[simp] theorem State.modJob_ropes (s : State) (cl id : Nat) (g : Job → Job) : (s.modJob cl id g).ropes = s.ropes := rfl
@[simp] theorem State.modJob_cables (s : State) (cl id : Nat) (g : Job → Job) : (s.modJob cl id g).cables = s.cables := rfl
@[simp] theorem State.modJob_vfs (s : State) (cl id : Nat) (g : Job → Job) : (s.modJob cl id g).vfs = s.vfs := rfl
@[simp] theorem State.modJob_parts (s : State) (cl id : Nat) (g : Job → Job) : (s.modJob cl id g).parts = s.parts := rfl
@[simp] theorem State.modJob_flying (s : State) (cl id : Nat) (g : Job → Job) : (s.modJob cl id g).flying = s.flying := rfl
@[simp] theorem State.modJob_sequencer (s : State) (cl id : Nat) (g : Job → Job) : (s.modJob cl id g).sequencer = s.sequencer := rfl
@[simp] theorem State.modJob_flight (s : State) (cl id : Nat) (g : Job → Job) : (s.modJob cl id g).flight = s.flight := rfl
@[simp] theorem State.modJob_answers (s : State) (cl id : Nat) (g : Job → Job) : (s.modJob cl id g).answers = s.answers := rfl
@[simp] theorem State.modJob_notices (s : State) (cl id : Nat) (g : Job → Job) : (s.modJob cl id g).notices = s.notices := rfl
@[simp] theorem State.modJob_heldTraps (s : State) (cl id : Nat) (g : Job → Job) : (s.modJob cl id g).heldTraps = s.heldTraps := rfl
@[simp] theorem State.modJob_sysReqs (s : State) (cl id : Nat) (g : Job → Job) : (s.modJob cl id g).sysReqs = s.sysReqs := rfl
@[simp] theorem State.modJob_transfers (s : State) (cl id : Nat) (g : Job → Job) : (s.modJob cl id g).transfers = s.transfers := rfl
@[simp] theorem State.modJob_routes (s : State) (cl id : Nat) (g : Job → Job) : (s.modJob cl id g).routes = s.routes := rfl
@[simp] theorem State.modJob_power (s : State) (cl id : Nat) (g : Job → Job) : (s.modJob cl id g).power = s.power := rfl
@[simp] theorem State.modJob_boot (s : State) (cl id : Nat) (g : Job → Job) : (s.modJob cl id g).boot = s.boot := rfl
@[simp] theorem State.modJob_dropped (s : State) (cl id : Nat) (g : Job → Job) : (s.modJob cl id g).dropped = s.dropped := rfl
@[simp] theorem State.modJob_contexts (s : State) (cl id : Nat) (g : Job → Job) : (s.modJob cl id g).contexts = s.contexts := rfl
@[simp] theorem State.modJob_corrected (s : State) (cl id : Nat) (g : Job → Job) : (s.modJob cl id g).corrected = s.corrected := rfl
@[simp] theorem State.modJob_hostOut (s : State) (cl id : Nat) (g : Job → Job) : (s.modJob cl id g).hostOut = s.hostOut := rfl
@[simp] theorem State.modJob_fresh (s : State) (cl id : Nat) (g : Job → Job) : (s.modJob cl id g).fresh = s.fresh := rfl
@[simp] theorem State.modJob_freeNo (s : State) (cl id : Nat) (g : Job → Job) : (s.modJob cl id g).freeNo = s.freeNo := rfl
@[simp] theorem State.modJob_cur (s : State) (cl id : Nat) (g : Job → Job) : (s.modJob cl id g).cur = s.cur := rfl
@[simp] theorem State.modJob_agenda (s : State) (cl id : Nat) (g : Job → Job) : (s.modJob cl id g).agenda = s.agenda := rfl
@[simp] theorem State.modMem_now (s : State) (o : Option CoreId) (loc n : Nat) (g : Memory → Memory) : (s.modMem o loc n g).now = s.now := rfl
@[simp] theorem State.modMem_clusters (s : State) (o : Option CoreId) (loc n : Nat) (g : Memory → Memory) : (s.modMem o loc n g).clusters = s.clusters := rfl
@[simp] theorem State.modMem_texts (s : State) (o : Option CoreId) (loc n : Nat) (g : Memory → Memory) : (s.modMem o loc n g).texts = s.texts := rfl
@[simp] theorem State.modMem_tours (s : State) (o : Option CoreId) (loc n : Nat) (g : Memory → Memory) : (s.modMem o loc n g).tours = s.tours := rfl
@[simp] theorem State.modMem_ropes (s : State) (o : Option CoreId) (loc n : Nat) (g : Memory → Memory) : (s.modMem o loc n g).ropes = s.ropes := rfl
@[simp] theorem State.modMem_cables (s : State) (o : Option CoreId) (loc n : Nat) (g : Memory → Memory) : (s.modMem o loc n g).cables = s.cables := rfl
@[simp] theorem State.modMem_vfs (s : State) (o : Option CoreId) (loc n : Nat) (g : Memory → Memory) : (s.modMem o loc n g).vfs = s.vfs := rfl
@[simp] theorem State.modMem_parts (s : State) (o : Option CoreId) (loc n : Nat) (g : Memory → Memory) : (s.modMem o loc n g).parts = s.parts := rfl
@[simp] theorem State.modMem_flying (s : State) (o : Option CoreId) (loc n : Nat) (g : Memory → Memory) : (s.modMem o loc n g).flying = s.flying := rfl
@[simp] theorem State.modMem_sequencer (s : State) (o : Option CoreId) (loc n : Nat) (g : Memory → Memory) : (s.modMem o loc n g).sequencer = s.sequencer := rfl
@[simp] theorem State.modMem_flight (s : State) (o : Option CoreId) (loc n : Nat) (g : Memory → Memory) : (s.modMem o loc n g).flight = s.flight := rfl
@[simp] theorem State.modMem_answers (s : State) (o : Option CoreId) (loc n : Nat) (g : Memory → Memory) : (s.modMem o loc n g).answers = s.answers := rfl
@[simp] theorem State.modMem_notices (s : State) (o : Option CoreId) (loc n : Nat) (g : Memory → Memory) : (s.modMem o loc n g).notices = s.notices := rfl
@[simp] theorem State.modMem_heldTraps (s : State) (o : Option CoreId) (loc n : Nat) (g : Memory → Memory) : (s.modMem o loc n g).heldTraps = s.heldTraps := rfl
@[simp] theorem State.modMem_sysReqs (s : State) (o : Option CoreId) (loc n : Nat) (g : Memory → Memory) : (s.modMem o loc n g).sysReqs = s.sysReqs := rfl
@[simp] theorem State.modMem_transfers (s : State) (o : Option CoreId) (loc n : Nat) (g : Memory → Memory) : (s.modMem o loc n g).transfers = s.transfers := rfl
@[simp] theorem State.modMem_routes (s : State) (o : Option CoreId) (loc n : Nat) (g : Memory → Memory) : (s.modMem o loc n g).routes = s.routes := rfl
@[simp] theorem State.modMem_power (s : State) (o : Option CoreId) (loc n : Nat) (g : Memory → Memory) : (s.modMem o loc n g).power = s.power := rfl
@[simp] theorem State.modMem_boot (s : State) (o : Option CoreId) (loc n : Nat) (g : Memory → Memory) : (s.modMem o loc n g).boot = s.boot := rfl
@[simp] theorem State.modMem_dropped (s : State) (o : Option CoreId) (loc n : Nat) (g : Memory → Memory) : (s.modMem o loc n g).dropped = s.dropped := rfl
@[simp] theorem State.modMem_contexts (s : State) (o : Option CoreId) (loc n : Nat) (g : Memory → Memory) : (s.modMem o loc n g).contexts = s.contexts := rfl
@[simp] theorem State.modMem_corrected (s : State) (o : Option CoreId) (loc n : Nat) (g : Memory → Memory) : (s.modMem o loc n g).corrected = s.corrected := rfl
@[simp] theorem State.modMem_hostOut (s : State) (o : Option CoreId) (loc n : Nat) (g : Memory → Memory) : (s.modMem o loc n g).hostOut = s.hostOut := rfl
@[simp] theorem State.modMem_fresh (s : State) (o : Option CoreId) (loc n : Nat) (g : Memory → Memory) : (s.modMem o loc n g).fresh = s.fresh := rfl
@[simp] theorem State.modMem_freeNo (s : State) (o : Option CoreId) (loc n : Nat) (g : Memory → Memory) : (s.modMem o loc n g).freeNo = s.freeNo := rfl
@[simp] theorem State.modMem_cur (s : State) (o : Option CoreId) (loc n : Nat) (g : Memory → Memory) : (s.modMem o loc n g).cur = s.cur := rfl
@[simp] theorem State.modMem_agenda (s : State) (o : Option CoreId) (loc n : Nat) (g : Memory → Memory) : (s.modMem o loc n g).agenda = s.agenda := rfl
@[simp] theorem State.wake_mem (s : State) (o : Option CoreId) (loc n : Nat) : (s.wake o loc n).mem = s.mem := rfl
@[simp] theorem State.wake_now (s : State) (o : Option CoreId) (loc n : Nat) : (s.wake o loc n).now = s.now := rfl
@[simp] theorem State.wake_clusters (s : State) (o : Option CoreId) (loc n : Nat) : (s.wake o loc n).clusters = s.clusters := rfl
@[simp] theorem State.wake_texts (s : State) (o : Option CoreId) (loc n : Nat) : (s.wake o loc n).texts = s.texts := rfl
@[simp] theorem State.wake_tours (s : State) (o : Option CoreId) (loc n : Nat) : (s.wake o loc n).tours = s.tours := rfl
@[simp] theorem State.wake_ropes (s : State) (o : Option CoreId) (loc n : Nat) : (s.wake o loc n).ropes = s.ropes := rfl
@[simp] theorem State.wake_cables (s : State) (o : Option CoreId) (loc n : Nat) : (s.wake o loc n).cables = s.cables := rfl
@[simp] theorem State.wake_vfs (s : State) (o : Option CoreId) (loc n : Nat) : (s.wake o loc n).vfs = s.vfs := rfl
@[simp] theorem State.wake_parts (s : State) (o : Option CoreId) (loc n : Nat) : (s.wake o loc n).parts = s.parts := rfl
@[simp] theorem State.wake_flying (s : State) (o : Option CoreId) (loc n : Nat) : (s.wake o loc n).flying = s.flying := rfl
@[simp] theorem State.wake_sequencer (s : State) (o : Option CoreId) (loc n : Nat) : (s.wake o loc n).sequencer = s.sequencer := rfl
@[simp] theorem State.wake_flight (s : State) (o : Option CoreId) (loc n : Nat) : (s.wake o loc n).flight = s.flight := rfl
@[simp] theorem State.wake_answers (s : State) (o : Option CoreId) (loc n : Nat) : (s.wake o loc n).answers = s.answers := rfl
@[simp] theorem State.wake_notices (s : State) (o : Option CoreId) (loc n : Nat) : (s.wake o loc n).notices = s.notices := rfl
@[simp] theorem State.wake_heldTraps (s : State) (o : Option CoreId) (loc n : Nat) : (s.wake o loc n).heldTraps = s.heldTraps := rfl
@[simp] theorem State.wake_sysReqs (s : State) (o : Option CoreId) (loc n : Nat) : (s.wake o loc n).sysReqs = s.sysReqs := rfl
@[simp] theorem State.wake_transfers (s : State) (o : Option CoreId) (loc n : Nat) : (s.wake o loc n).transfers = s.transfers := rfl
@[simp] theorem State.wake_routes (s : State) (o : Option CoreId) (loc n : Nat) : (s.wake o loc n).routes = s.routes := rfl
@[simp] theorem State.wake_power (s : State) (o : Option CoreId) (loc n : Nat) : (s.wake o loc n).power = s.power := rfl
@[simp] theorem State.wake_boot (s : State) (o : Option CoreId) (loc n : Nat) : (s.wake o loc n).boot = s.boot := rfl
@[simp] theorem State.wake_dropped (s : State) (o : Option CoreId) (loc n : Nat) : (s.wake o loc n).dropped = s.dropped := rfl
@[simp] theorem State.wake_contexts (s : State) (o : Option CoreId) (loc n : Nat) : (s.wake o loc n).contexts = s.contexts := rfl
@[simp] theorem State.wake_corrected (s : State) (o : Option CoreId) (loc n : Nat) : (s.wake o loc n).corrected = s.corrected := rfl
@[simp] theorem State.wake_hostOut (s : State) (o : Option CoreId) (loc n : Nat) : (s.wake o loc n).hostOut = s.hostOut := rfl
@[simp] theorem State.wake_fresh (s : State) (o : Option CoreId) (loc n : Nat) : (s.wake o loc n).fresh = s.fresh := rfl
@[simp] theorem State.wake_freeNo (s : State) (o : Option CoreId) (loc n : Nat) : (s.wake o loc n).freeNo = s.freeNo := rfl
@[simp] theorem State.wake_cur (s : State) (o : Option CoreId) (loc n : Nat) : (s.wake o loc n).cur = s.cur := rfl
@[simp] theorem State.wake_agenda (s : State) (o : Option CoreId) (loc n : Nat) : (s.wake o loc n).agenda = s.agenda := rfl
@[simp] theorem State.modHeld_mem (s : State) (c : CoreId) (g : Tour → Tour) : (s.modHeld c g).mem = s.mem := rfl
@[simp] theorem State.modHeld_now (s : State) (c : CoreId) (g : Tour → Tour) : (s.modHeld c g).now = s.now := rfl
@[simp] theorem State.modHeld_cores (s : State) (c : CoreId) (g : Tour → Tour) : (s.modHeld c g).cores = s.cores := rfl
@[simp] theorem State.modHeld_clusters (s : State) (c : CoreId) (g : Tour → Tour) : (s.modHeld c g).clusters = s.clusters := rfl
@[simp] theorem State.modHeld_texts (s : State) (c : CoreId) (g : Tour → Tour) : (s.modHeld c g).texts = s.texts := rfl
@[simp] theorem State.modHeld_ropes (s : State) (c : CoreId) (g : Tour → Tour) : (s.modHeld c g).ropes = s.ropes := rfl
@[simp] theorem State.modHeld_cables (s : State) (c : CoreId) (g : Tour → Tour) : (s.modHeld c g).cables = s.cables := rfl
@[simp] theorem State.modHeld_vfs (s : State) (c : CoreId) (g : Tour → Tour) : (s.modHeld c g).vfs = s.vfs := rfl
@[simp] theorem State.modHeld_parts (s : State) (c : CoreId) (g : Tour → Tour) : (s.modHeld c g).parts = s.parts := rfl
@[simp] theorem State.modHeld_flying (s : State) (c : CoreId) (g : Tour → Tour) : (s.modHeld c g).flying = s.flying := rfl
@[simp] theorem State.modHeld_sequencer (s : State) (c : CoreId) (g : Tour → Tour) : (s.modHeld c g).sequencer = s.sequencer := rfl
@[simp] theorem State.modHeld_flight (s : State) (c : CoreId) (g : Tour → Tour) : (s.modHeld c g).flight = s.flight := rfl
@[simp] theorem State.modHeld_answers (s : State) (c : CoreId) (g : Tour → Tour) : (s.modHeld c g).answers = s.answers := rfl
@[simp] theorem State.modHeld_notices (s : State) (c : CoreId) (g : Tour → Tour) : (s.modHeld c g).notices = s.notices := rfl
@[simp] theorem State.modHeld_heldTraps (s : State) (c : CoreId) (g : Tour → Tour) : (s.modHeld c g).heldTraps = s.heldTraps := rfl
@[simp] theorem State.modHeld_sysReqs (s : State) (c : CoreId) (g : Tour → Tour) : (s.modHeld c g).sysReqs = s.sysReqs := rfl
@[simp] theorem State.modHeld_transfers (s : State) (c : CoreId) (g : Tour → Tour) : (s.modHeld c g).transfers = s.transfers := rfl
@[simp] theorem State.modHeld_routes (s : State) (c : CoreId) (g : Tour → Tour) : (s.modHeld c g).routes = s.routes := rfl
@[simp] theorem State.modHeld_power (s : State) (c : CoreId) (g : Tour → Tour) : (s.modHeld c g).power = s.power := rfl
@[simp] theorem State.modHeld_boot (s : State) (c : CoreId) (g : Tour → Tour) : (s.modHeld c g).boot = s.boot := rfl
@[simp] theorem State.modHeld_dropped (s : State) (c : CoreId) (g : Tour → Tour) : (s.modHeld c g).dropped = s.dropped := rfl
@[simp] theorem State.modHeld_contexts (s : State) (c : CoreId) (g : Tour → Tour) : (s.modHeld c g).contexts = s.contexts := rfl
@[simp] theorem State.modHeld_corrected (s : State) (c : CoreId) (g : Tour → Tour) : (s.modHeld c g).corrected = s.corrected := rfl
@[simp] theorem State.modHeld_hostOut (s : State) (c : CoreId) (g : Tour → Tour) : (s.modHeld c g).hostOut = s.hostOut := rfl
@[simp] theorem State.modHeld_fresh (s : State) (c : CoreId) (g : Tour → Tour) : (s.modHeld c g).fresh = s.fresh := rfl
@[simp] theorem State.modHeld_freeNo (s : State) (c : CoreId) (g : Tour → Tour) : (s.modHeld c g).freeNo = s.freeNo := rfl
@[simp] theorem State.modHeld_cur (s : State) (c : CoreId) (g : Tour → Tour) : (s.modHeld c g).cur = s.cur := rfl
@[simp] theorem State.modHeld_agenda (s : State) (c : CoreId) (g : Tour → Tour) : (s.modHeld c g).agenda = s.agenda := rfl
@[simp] theorem State.castAll_mem (s : State) (c : CoreId) : (s.castAll c).mem = s.mem := rfl
@[simp] theorem State.castAll_now (s : State) (c : CoreId) : (s.castAll c).now = s.now := rfl
@[simp] theorem State.castAll_cores (s : State) (c : CoreId) : (s.castAll c).cores = s.cores := rfl
@[simp] theorem State.castAll_clusters (s : State) (c : CoreId) : (s.castAll c).clusters = s.clusters := rfl
@[simp] theorem State.castAll_texts (s : State) (c : CoreId) : (s.castAll c).texts = s.texts := rfl
@[simp] theorem State.castAll_ropes (s : State) (c : CoreId) : (s.castAll c).ropes = s.ropes := rfl
@[simp] theorem State.castAll_cables (s : State) (c : CoreId) : (s.castAll c).cables = s.cables := rfl
@[simp] theorem State.castAll_vfs (s : State) (c : CoreId) : (s.castAll c).vfs = s.vfs := rfl
@[simp] theorem State.castAll_parts (s : State) (c : CoreId) : (s.castAll c).parts = s.parts := rfl
@[simp] theorem State.castAll_flying (s : State) (c : CoreId) : (s.castAll c).flying = s.flying := rfl
@[simp] theorem State.castAll_sequencer (s : State) (c : CoreId) : (s.castAll c).sequencer = s.sequencer := rfl
@[simp] theorem State.castAll_flight (s : State) (c : CoreId) : (s.castAll c).flight = s.flight := rfl
@[simp] theorem State.castAll_answers (s : State) (c : CoreId) : (s.castAll c).answers = s.answers := rfl
@[simp] theorem State.castAll_notices (s : State) (c : CoreId) : (s.castAll c).notices = s.notices := rfl
@[simp] theorem State.castAll_heldTraps (s : State) (c : CoreId) : (s.castAll c).heldTraps = s.heldTraps := rfl
@[simp] theorem State.castAll_sysReqs (s : State) (c : CoreId) : (s.castAll c).sysReqs = s.sysReqs := rfl
@[simp] theorem State.castAll_transfers (s : State) (c : CoreId) : (s.castAll c).transfers = s.transfers := rfl
@[simp] theorem State.castAll_routes (s : State) (c : CoreId) : (s.castAll c).routes = s.routes := rfl
@[simp] theorem State.castAll_power (s : State) (c : CoreId) : (s.castAll c).power = s.power := rfl
@[simp] theorem State.castAll_boot (s : State) (c : CoreId) : (s.castAll c).boot = s.boot := rfl
@[simp] theorem State.castAll_dropped (s : State) (c : CoreId) : (s.castAll c).dropped = s.dropped := rfl
@[simp] theorem State.castAll_contexts (s : State) (c : CoreId) : (s.castAll c).contexts = s.contexts := rfl
@[simp] theorem State.castAll_corrected (s : State) (c : CoreId) : (s.castAll c).corrected = s.corrected := rfl
@[simp] theorem State.castAll_hostOut (s : State) (c : CoreId) : (s.castAll c).hostOut = s.hostOut := rfl
@[simp] theorem State.castAll_fresh (s : State) (c : CoreId) : (s.castAll c).fresh = s.fresh := rfl
@[simp] theorem State.castAll_freeNo (s : State) (c : CoreId) : (s.castAll c).freeNo = s.freeNo := rfl
@[simp] theorem State.castAll_cur (s : State) (c : CoreId) : (s.castAll c).cur = s.cur := rfl
@[simp] theorem State.castAll_agenda (s : State) (c : CoreId) : (s.castAll c).agenda = s.agenda := rfl
@[simp] theorem State.seatTours_mem (s : State) (cl : Nat) : (s.seatTours cl).mem = s.mem := rfl
@[simp] theorem State.seatTours_now (s : State) (cl : Nat) : (s.seatTours cl).now = s.now := rfl
@[simp] theorem State.seatTours_cores (s : State) (cl : Nat) : (s.seatTours cl).cores = s.cores := rfl
@[simp] theorem State.seatTours_texts (s : State) (cl : Nat) : (s.seatTours cl).texts = s.texts := rfl
@[simp] theorem State.seatTours_ropes (s : State) (cl : Nat) : (s.seatTours cl).ropes = s.ropes := rfl
@[simp] theorem State.seatTours_cables (s : State) (cl : Nat) : (s.seatTours cl).cables = s.cables := rfl
@[simp] theorem State.seatTours_vfs (s : State) (cl : Nat) : (s.seatTours cl).vfs = s.vfs := rfl
@[simp] theorem State.seatTours_parts (s : State) (cl : Nat) : (s.seatTours cl).parts = s.parts := rfl
@[simp] theorem State.seatTours_flying (s : State) (cl : Nat) : (s.seatTours cl).flying = s.flying := rfl
@[simp] theorem State.seatTours_sequencer (s : State) (cl : Nat) : (s.seatTours cl).sequencer = s.sequencer := rfl
@[simp] theorem State.seatTours_flight (s : State) (cl : Nat) : (s.seatTours cl).flight = s.flight := rfl
@[simp] theorem State.seatTours_answers (s : State) (cl : Nat) : (s.seatTours cl).answers = s.answers := rfl
@[simp] theorem State.seatTours_notices (s : State) (cl : Nat) : (s.seatTours cl).notices = s.notices := rfl
@[simp] theorem State.seatTours_heldTraps (s : State) (cl : Nat) : (s.seatTours cl).heldTraps = s.heldTraps := rfl
@[simp] theorem State.seatTours_sysReqs (s : State) (cl : Nat) : (s.seatTours cl).sysReqs = s.sysReqs := rfl
@[simp] theorem State.seatTours_transfers (s : State) (cl : Nat) : (s.seatTours cl).transfers = s.transfers := rfl
@[simp] theorem State.seatTours_routes (s : State) (cl : Nat) : (s.seatTours cl).routes = s.routes := rfl
@[simp] theorem State.seatTours_power (s : State) (cl : Nat) : (s.seatTours cl).power = s.power := rfl
@[simp] theorem State.seatTours_boot (s : State) (cl : Nat) : (s.seatTours cl).boot = s.boot := rfl
@[simp] theorem State.seatTours_dropped (s : State) (cl : Nat) : (s.seatTours cl).dropped = s.dropped := rfl
@[simp] theorem State.seatTours_contexts (s : State) (cl : Nat) : (s.seatTours cl).contexts = s.contexts := rfl
@[simp] theorem State.seatTours_corrected (s : State) (cl : Nat) : (s.seatTours cl).corrected = s.corrected := rfl
@[simp] theorem State.seatTours_hostOut (s : State) (cl : Nat) : (s.seatTours cl).hostOut = s.hostOut := rfl
@[simp] theorem State.seatTours_fresh (s : State) (cl : Nat) : (s.seatTours cl).fresh = s.fresh := rfl
@[simp] theorem State.seatTours_freeNo (s : State) (cl : Nat) : (s.seatTours cl).freeNo = s.freeNo := rfl
@[simp] theorem State.seatTours_cur (s : State) (cl : Nat) : (s.seatTours cl).cur = s.cur := rfl
@[simp] theorem State.seatTours_agenda (s : State) (cl : Nat) : (s.seatTours cl).agenda = s.agenda := rfl
@[simp] theorem State.seatTours_tours (s : State) (cl : Nat) : (s.seatTours cl).tours = s.tours := rfl
@[simp] theorem State.send_mem (s : State) (c : CoreId) (k : Nat) (w : List Word64) : (s.send c k w).mem = s.mem := rfl
@[simp] theorem State.send_now (s : State) (c : CoreId) (k : Nat) (w : List Word64) : (s.send c k w).now = s.now := rfl
@[simp] theorem State.send_clusters (s : State) (c : CoreId) (k : Nat) (w : List Word64) : (s.send c k w).clusters = s.clusters := rfl
@[simp] theorem State.send_texts (s : State) (c : CoreId) (k : Nat) (w : List Word64) : (s.send c k w).texts = s.texts := rfl
@[simp] theorem State.send_tours (s : State) (c : CoreId) (k : Nat) (w : List Word64) : (s.send c k w).tours = s.tours := rfl
@[simp] theorem State.send_ropes (s : State) (c : CoreId) (k : Nat) (w : List Word64) : (s.send c k w).ropes = s.ropes := rfl
@[simp] theorem State.send_cables (s : State) (c : CoreId) (k : Nat) (w : List Word64) : (s.send c k w).cables = s.cables := rfl
@[simp] theorem State.send_vfs (s : State) (c : CoreId) (k : Nat) (w : List Word64) : (s.send c k w).vfs = s.vfs := rfl
@[simp] theorem State.send_parts (s : State) (c : CoreId) (k : Nat) (w : List Word64) : (s.send c k w).parts = s.parts := rfl
@[simp] theorem State.send_flying (s : State) (c : CoreId) (k : Nat) (w : List Word64) : (s.send c k w).flying = s.flying := rfl
@[simp] theorem State.send_sequencer (s : State) (c : CoreId) (k : Nat) (w : List Word64) : (s.send c k w).sequencer = s.sequencer := rfl
@[simp] theorem State.send_flight (s : State) (c : CoreId) (k : Nat) (w : List Word64) : (s.send c k w).flight = s.flight := rfl
@[simp] theorem State.send_answers (s : State) (c : CoreId) (k : Nat) (w : List Word64) : (s.send c k w).answers = s.answers := rfl
@[simp] theorem State.send_notices (s : State) (c : CoreId) (k : Nat) (w : List Word64) : (s.send c k w).notices = s.notices := rfl
@[simp] theorem State.send_heldTraps (s : State) (c : CoreId) (k : Nat) (w : List Word64) : (s.send c k w).heldTraps = s.heldTraps := rfl
@[simp] theorem State.send_sysReqs (s : State) (c : CoreId) (k : Nat) (w : List Word64) : (s.send c k w).sysReqs = s.sysReqs := rfl
@[simp] theorem State.send_transfers (s : State) (c : CoreId) (k : Nat) (w : List Word64) : (s.send c k w).transfers = s.transfers := rfl
@[simp] theorem State.send_routes (s : State) (c : CoreId) (k : Nat) (w : List Word64) : (s.send c k w).routes = s.routes := rfl
@[simp] theorem State.send_power (s : State) (c : CoreId) (k : Nat) (w : List Word64) : (s.send c k w).power = s.power := rfl
@[simp] theorem State.send_boot (s : State) (c : CoreId) (k : Nat) (w : List Word64) : (s.send c k w).boot = s.boot := rfl
@[simp] theorem State.send_dropped (s : State) (c : CoreId) (k : Nat) (w : List Word64) : (s.send c k w).dropped = s.dropped := rfl
@[simp] theorem State.send_contexts (s : State) (c : CoreId) (k : Nat) (w : List Word64) : (s.send c k w).contexts = s.contexts := rfl
@[simp] theorem State.send_corrected (s : State) (c : CoreId) (k : Nat) (w : List Word64) : (s.send c k w).corrected = s.corrected := rfl
@[simp] theorem State.send_hostOut (s : State) (c : CoreId) (k : Nat) (w : List Word64) : (s.send c k w).hostOut = s.hostOut := rfl
@[simp] theorem State.send_fresh (s : State) (c : CoreId) (k : Nat) (w : List Word64) : (s.send c k w).fresh = s.fresh := rfl
@[simp] theorem State.send_freeNo (s : State) (c : CoreId) (k : Nat) (w : List Word64) : (s.send c k w).freeNo = s.freeNo := rfl
@[simp] theorem State.send_cur (s : State) (c : CoreId) (k : Nat) (w : List Word64) : (s.send c k w).cur = s.cur := rfl
@[simp] theorem State.send_agenda (s : State) (c : CoreId) (k : Nat) (w : List Word64) : (s.send c k w).agenda = s.agenda := rfl
@[simp] theorem State.reply_mem (s : State) (o : HostOut) : (s.reply o).mem = s.mem := rfl
@[simp] theorem State.reply_now (s : State) (o : HostOut) : (s.reply o).now = s.now := rfl
@[simp] theorem State.reply_cores (s : State) (o : HostOut) : (s.reply o).cores = s.cores := rfl
@[simp] theorem State.reply_clusters (s : State) (o : HostOut) : (s.reply o).clusters = s.clusters := rfl
@[simp] theorem State.reply_texts (s : State) (o : HostOut) : (s.reply o).texts = s.texts := rfl
@[simp] theorem State.reply_tours (s : State) (o : HostOut) : (s.reply o).tours = s.tours := rfl
@[simp] theorem State.reply_ropes (s : State) (o : HostOut) : (s.reply o).ropes = s.ropes := rfl
@[simp] theorem State.reply_cables (s : State) (o : HostOut) : (s.reply o).cables = s.cables := rfl
@[simp] theorem State.reply_vfs (s : State) (o : HostOut) : (s.reply o).vfs = s.vfs := rfl
@[simp] theorem State.reply_parts (s : State) (o : HostOut) : (s.reply o).parts = s.parts := rfl
@[simp] theorem State.reply_flying (s : State) (o : HostOut) : (s.reply o).flying = s.flying := rfl
@[simp] theorem State.reply_sequencer (s : State) (o : HostOut) : (s.reply o).sequencer = s.sequencer := rfl
@[simp] theorem State.reply_flight (s : State) (o : HostOut) : (s.reply o).flight = s.flight := rfl
@[simp] theorem State.reply_answers (s : State) (o : HostOut) : (s.reply o).answers = s.answers := rfl
@[simp] theorem State.reply_notices (s : State) (o : HostOut) : (s.reply o).notices = s.notices := rfl
@[simp] theorem State.reply_heldTraps (s : State) (o : HostOut) : (s.reply o).heldTraps = s.heldTraps := rfl
@[simp] theorem State.reply_sysReqs (s : State) (o : HostOut) : (s.reply o).sysReqs = s.sysReqs := rfl
@[simp] theorem State.reply_transfers (s : State) (o : HostOut) : (s.reply o).transfers = s.transfers := rfl
@[simp] theorem State.reply_routes (s : State) (o : HostOut) : (s.reply o).routes = s.routes := rfl
@[simp] theorem State.reply_power (s : State) (o : HostOut) : (s.reply o).power = s.power := rfl
@[simp] theorem State.reply_boot (s : State) (o : HostOut) : (s.reply o).boot = s.boot := rfl
@[simp] theorem State.reply_dropped (s : State) (o : HostOut) : (s.reply o).dropped = s.dropped := rfl
@[simp] theorem State.reply_contexts (s : State) (o : HostOut) : (s.reply o).contexts = s.contexts := rfl
@[simp] theorem State.reply_corrected (s : State) (o : HostOut) : (s.reply o).corrected = s.corrected := rfl
@[simp] theorem State.reply_fresh (s : State) (o : HostOut) : (s.reply o).fresh = s.fresh := rfl
@[simp] theorem State.reply_freeNo (s : State) (o : HostOut) : (s.reply o).freeNo = s.freeNo := rfl
@[simp] theorem State.reply_cur (s : State) (o : HostOut) : (s.reply o).cur = s.cur := rfl
@[simp] theorem State.reply_agenda (s : State) (o : HostOut) : (s.reply o).agenda = s.agenda := rfl
@[simp] theorem State.modPower_mem (s : State) (g : Power → Power) : (s.modPower g).mem = s.mem := rfl
@[simp] theorem State.modPower_now (s : State) (g : Power → Power) : (s.modPower g).now = s.now := rfl
@[simp] theorem State.modPower_cores (s : State) (g : Power → Power) : (s.modPower g).cores = s.cores := rfl
@[simp] theorem State.modPower_clusters (s : State) (g : Power → Power) : (s.modPower g).clusters = s.clusters := rfl
@[simp] theorem State.modPower_texts (s : State) (g : Power → Power) : (s.modPower g).texts = s.texts := rfl
@[simp] theorem State.modPower_tours (s : State) (g : Power → Power) : (s.modPower g).tours = s.tours := rfl
@[simp] theorem State.modPower_ropes (s : State) (g : Power → Power) : (s.modPower g).ropes = s.ropes := rfl
@[simp] theorem State.modPower_cables (s : State) (g : Power → Power) : (s.modPower g).cables = s.cables := rfl
@[simp] theorem State.modPower_vfs (s : State) (g : Power → Power) : (s.modPower g).vfs = s.vfs := rfl
@[simp] theorem State.modPower_parts (s : State) (g : Power → Power) : (s.modPower g).parts = s.parts := rfl
@[simp] theorem State.modPower_flying (s : State) (g : Power → Power) : (s.modPower g).flying = s.flying := rfl
@[simp] theorem State.modPower_sequencer (s : State) (g : Power → Power) : (s.modPower g).sequencer = s.sequencer := rfl
@[simp] theorem State.modPower_flight (s : State) (g : Power → Power) : (s.modPower g).flight = s.flight := rfl
@[simp] theorem State.modPower_answers (s : State) (g : Power → Power) : (s.modPower g).answers = s.answers := rfl
@[simp] theorem State.modPower_notices (s : State) (g : Power → Power) : (s.modPower g).notices = s.notices := rfl
@[simp] theorem State.modPower_heldTraps (s : State) (g : Power → Power) : (s.modPower g).heldTraps = s.heldTraps := rfl
@[simp] theorem State.modPower_sysReqs (s : State) (g : Power → Power) : (s.modPower g).sysReqs = s.sysReqs := rfl
@[simp] theorem State.modPower_transfers (s : State) (g : Power → Power) : (s.modPower g).transfers = s.transfers := rfl
@[simp] theorem State.modPower_routes (s : State) (g : Power → Power) : (s.modPower g).routes = s.routes := rfl
@[simp] theorem State.modPower_boot (s : State) (g : Power → Power) : (s.modPower g).boot = s.boot := rfl
@[simp] theorem State.modPower_dropped (s : State) (g : Power → Power) : (s.modPower g).dropped = s.dropped := rfl
@[simp] theorem State.modPower_contexts (s : State) (g : Power → Power) : (s.modPower g).contexts = s.contexts := rfl
@[simp] theorem State.modPower_corrected (s : State) (g : Power → Power) : (s.modPower g).corrected = s.corrected := rfl
@[simp] theorem State.modPower_hostOut (s : State) (g : Power → Power) : (s.modPower g).hostOut = s.hostOut := rfl
@[simp] theorem State.modPower_fresh (s : State) (g : Power → Power) : (s.modPower g).fresh = s.fresh := rfl
@[simp] theorem State.modPower_freeNo (s : State) (g : Power → Power) : (s.modPower g).freeNo = s.freeNo := rfl
@[simp] theorem State.modPower_cur (s : State) (g : Power → Power) : (s.modPower g).cur = s.cur := rfl
@[simp] theorem State.modPower_agenda (s : State) (g : Power → Power) : (s.modPower g).agenda = s.agenda := rfl
@[simp] theorem State.inject_mem (s : State) (x : Sender) (vf cl : Nat) (d : Word64) (m : Msg) (q : BitVec 16) (o : Option (Nat × Nat)) : (s.inject x vf cl d m q o).mem = s.mem := rfl
@[simp] theorem State.inject_now (s : State) (x : Sender) (vf cl : Nat) (d : Word64) (m : Msg) (q : BitVec 16) (o : Option (Nat × Nat)) : (s.inject x vf cl d m q o).now = s.now := rfl
@[simp] theorem State.inject_cores (s : State) (x : Sender) (vf cl : Nat) (d : Word64) (m : Msg) (q : BitVec 16) (o : Option (Nat × Nat)) : (s.inject x vf cl d m q o).cores = s.cores := rfl
@[simp] theorem State.inject_clusters (s : State) (x : Sender) (vf cl : Nat) (d : Word64) (m : Msg) (q : BitVec 16) (o : Option (Nat × Nat)) : (s.inject x vf cl d m q o).clusters = s.clusters := rfl
@[simp] theorem State.inject_texts (s : State) (x : Sender) (vf cl : Nat) (d : Word64) (m : Msg) (q : BitVec 16) (o : Option (Nat × Nat)) : (s.inject x vf cl d m q o).texts = s.texts := rfl
@[simp] theorem State.inject_tours (s : State) (x : Sender) (vf cl : Nat) (d : Word64) (m : Msg) (q : BitVec 16) (o : Option (Nat × Nat)) : (s.inject x vf cl d m q o).tours = s.tours := rfl
@[simp] theorem State.inject_ropes (s : State) (x : Sender) (vf cl : Nat) (d : Word64) (m : Msg) (q : BitVec 16) (o : Option (Nat × Nat)) : (s.inject x vf cl d m q o).ropes = s.ropes := rfl
@[simp] theorem State.inject_cables (s : State) (x : Sender) (vf cl : Nat) (d : Word64) (m : Msg) (q : BitVec 16) (o : Option (Nat × Nat)) : (s.inject x vf cl d m q o).cables = s.cables := rfl
@[simp] theorem State.inject_vfs (s : State) (x : Sender) (vf cl : Nat) (d : Word64) (m : Msg) (q : BitVec 16) (o : Option (Nat × Nat)) : (s.inject x vf cl d m q o).vfs = s.vfs := rfl
@[simp] theorem State.inject_parts (s : State) (x : Sender) (vf cl : Nat) (d : Word64) (m : Msg) (q : BitVec 16) (o : Option (Nat × Nat)) : (s.inject x vf cl d m q o).parts = s.parts := rfl
@[simp] theorem State.inject_flying (s : State) (x : Sender) (vf cl : Nat) (d : Word64) (m : Msg) (q : BitVec 16) (o : Option (Nat × Nat)) : (s.inject x vf cl d m q o).flying = s.flying := rfl
@[simp] theorem State.inject_sequencer (s : State) (x : Sender) (vf cl : Nat) (d : Word64) (m : Msg) (q : BitVec 16) (o : Option (Nat × Nat)) : (s.inject x vf cl d m q o).sequencer = s.sequencer := rfl
@[simp] theorem State.inject_answers (s : State) (x : Sender) (vf cl : Nat) (d : Word64) (m : Msg) (q : BitVec 16) (o : Option (Nat × Nat)) : (s.inject x vf cl d m q o).answers = s.answers := rfl
@[simp] theorem State.inject_notices (s : State) (x : Sender) (vf cl : Nat) (d : Word64) (m : Msg) (q : BitVec 16) (o : Option (Nat × Nat)) : (s.inject x vf cl d m q o).notices = s.notices := rfl
@[simp] theorem State.inject_heldTraps (s : State) (x : Sender) (vf cl : Nat) (d : Word64) (m : Msg) (q : BitVec 16) (o : Option (Nat × Nat)) : (s.inject x vf cl d m q o).heldTraps = s.heldTraps := rfl
@[simp] theorem State.inject_sysReqs (s : State) (x : Sender) (vf cl : Nat) (d : Word64) (m : Msg) (q : BitVec 16) (o : Option (Nat × Nat)) : (s.inject x vf cl d m q o).sysReqs = s.sysReqs := rfl
@[simp] theorem State.inject_transfers (s : State) (x : Sender) (vf cl : Nat) (d : Word64) (m : Msg) (q : BitVec 16) (o : Option (Nat × Nat)) : (s.inject x vf cl d m q o).transfers = s.transfers := rfl
@[simp] theorem State.inject_routes (s : State) (x : Sender) (vf cl : Nat) (d : Word64) (m : Msg) (q : BitVec 16) (o : Option (Nat × Nat)) : (s.inject x vf cl d m q o).routes = s.routes := rfl
@[simp] theorem State.inject_power (s : State) (x : Sender) (vf cl : Nat) (d : Word64) (m : Msg) (q : BitVec 16) (o : Option (Nat × Nat)) : (s.inject x vf cl d m q o).power = s.power := rfl
@[simp] theorem State.inject_boot (s : State) (x : Sender) (vf cl : Nat) (d : Word64) (m : Msg) (q : BitVec 16) (o : Option (Nat × Nat)) : (s.inject x vf cl d m q o).boot = s.boot := rfl
@[simp] theorem State.inject_dropped (s : State) (x : Sender) (vf cl : Nat) (d : Word64) (m : Msg) (q : BitVec 16) (o : Option (Nat × Nat)) : (s.inject x vf cl d m q o).dropped = s.dropped := rfl
@[simp] theorem State.inject_contexts (s : State) (x : Sender) (vf cl : Nat) (d : Word64) (m : Msg) (q : BitVec 16) (o : Option (Nat × Nat)) : (s.inject x vf cl d m q o).contexts = s.contexts := rfl
@[simp] theorem State.inject_corrected (s : State) (x : Sender) (vf cl : Nat) (d : Word64) (m : Msg) (q : BitVec 16) (o : Option (Nat × Nat)) : (s.inject x vf cl d m q o).corrected = s.corrected := rfl
@[simp] theorem State.inject_hostOut (s : State) (x : Sender) (vf cl : Nat) (d : Word64) (m : Msg) (q : BitVec 16) (o : Option (Nat × Nat)) : (s.inject x vf cl d m q o).hostOut = s.hostOut := rfl
@[simp] theorem State.inject_freeNo (s : State) (x : Sender) (vf cl : Nat) (d : Word64) (m : Msg) (q : BitVec 16) (o : Option (Nat × Nat)) : (s.inject x vf cl d m q o).freeNo = s.freeNo := rfl
@[simp] theorem State.inject_cur (s : State) (x : Sender) (vf cl : Nat) (d : Word64) (m : Msg) (q : BitVec 16) (o : Option (Nat × Nat)) : (s.inject x vf cl d m q o).cur = s.cur := rfl
@[simp] theorem State.inject_agenda (s : State) (x : Sender) (vf cl : Nat) (d : Word64) (m : Msg) (q : BitVec 16) (o : Option (Nat × Nat)) : (s.inject x vf cl d m q o).agenda = s.agenda := rfl

@[simp] theorem State.modMem_mem (s : State) (o : Option CoreId) (loc n : Nat) (g : Memory → Memory) : (s.modMem o loc n g).mem = g s.mem := rfl

/-- A table gives back what was put into it. -/
theorem Table.get_set_self {α : Type} (t : Table α) (n : Nat) (v : α) : (t.set n v).get n = some v := by
  induction t with
  | nil => simp [Table.set, Table.get]
  | cons e r ih =>
    obtain ⟨k, w⟩ := e
    by_cases h : k = n <;> simp [Table.set, Table.get, h, ih]

/-- Other keys keep what they had. -/
theorem Table.get_set_ne {α : Type} (t : Table α) (n m : Nat) (v : α) (h : n ≠ m) : (t.set n v).get m = t.get m := by
  induction t with
  | nil => simp [Table.set, Table.get, h]
  | cons e r ih =>
    obtain ⟨k, w⟩ := e
    by_cases h1 : k = n
    · subst h1; simp [Table.set, Table.get, h]
    · by_cases h2 : k = m
      · subst h2; simp [Table.set, Table.get, h1]
      · simp [Table.set, Table.get, h1, h2, ih]

/-- A core that was put back is there. -/
@[simp] theorem State.core_setCore (s : State) (c : CoreId) (k : Core) : (s.setCore c k).core c = k := by
  simp [State.core, State.setCore, Table.get_set_self]

/-- Other cores stand as they were. -/
theorem State.core_setCore_ne (s : State) (c e : CoreId) (k : Core) (h : CoreId.key c ≠ CoreId.key e) : (s.setCore c k).core e = s.core e := by
  simp [State.core, State.setCore, Table.get_set_ne _ _ _ _ h]

@[simp] theorem State.core_modCore (s : State) (c : CoreId) (g : Core → Core) : (s.modCore c g).core c = g (s.core c) := by
  simp [State.modCore]

theorem State.core_modCore_ne (s : State) (c e : CoreId) (g : Core → Core) (h : CoreId.key c ≠ CoreId.key e) : (s.modCore c g).core e = s.core e := by
  simp [State.modCore, State.core_setCore_ne _ _ _ _ h]

@[simp] theorem State.core_modRegs (s : State) (c : CoreId) (g : Regs → Regs) :
    (s.modRegs c g).core c = { s.core c with regs := g (s.core c).regs } := by simp [State.modRegs]

@[simp] theorem Core.tick_regs (k : Core) : k.tick.regs = k.regs := rfl
@[simp] theorem Core.tick_slots (k : Core) : k.tick.slots = k.slots := rfl
@[simp] theorem Core.tick_prods (k : Core) : k.tick.prods = k.prods := rfl
@[simp] theorem Core.tick_stores (k : Core) : k.tick.stores = k.stores := rfl

@[simp] theorem State.core_jump (s : State) (c : CoreId) (pc : Word64) :
    (s.jump c pc).core c = { (s.core c).tick with emul := [], regs := { (s.core c).tick.regs with pc := pc } } := by
  simp [State.jump]

@[simp] theorem State.core_advance (s : State) (c : CoreId) :
    (s.advance c).core c = { (s.core c).tick with emul := [], regs := { (s.core c).tick.regs with pc := (s.core c).regs.pc + 4 } } := by
  simp [State.advance]

/-- Another cluster stands as it was. -/
theorem State.cluster_modCluster_ne (s : State) (a b : Nat) (g : Cluster → Cluster) (h : a ≠ b) : (s.modCluster a g).cluster b = s.cluster b := by
  simp [State.cluster, State.modCluster, Table.get_set_ne _ _ _ _ h]

@[simp] theorem State.cluster_modCluster (s : State) (a : Nat) (g : Cluster → Cluster) : (s.modCluster a g).cluster a = g (s.cluster a) := by
  simp [State.cluster, State.modCluster, Table.get_set_self]

end Sys2Proof.Machine
end

