-- ==== Sys2Proof/Laws/Issue.lean ====
section
/-! SUPPORT. What the shared operations of the issue of an instruction do. -/

namespace Sys2Proof.Machine

theorem Test.first_go : ∀ l : List Test, (∀ t ∈ l, t = .go) → Test.first l = .go
  | [], _ => rfl
  | t :: r, h => by
    rw [h t (by simp)]
    exact Test.first_go r fun x hx => h x (by simp [hx])

/-- An instruction that executes normally passes every test at issue. -/
theorem issueTest_go {s : State} {c : CoreId} {srcs : List Src} {dests : List Reg} (h : s.Issues c srcs dests) :
    s.issueTest c srcs dests = .go := by
  unfold State.issueTest
  rw [if_neg (by simp [h.running, h.going])]
  apply Test.first_go
  intro t ht
  simp only [List.mem_append, List.mem_map] at ht
  rcases ht with ((⟨q, hq, rfl⟩ | ⟨q, hq, rfl⟩) | ⟨q, hq, rfl⟩) | ⟨g, hg, rfl⟩
  · simp [State.emptyTest, h.full q hq]
  · simp [State.portTest, h.full q hq]
  · simp [State.fullTest, h.full q hq, h.scaled q hq, h.settled q hq, h.granule q hq]
  · exact h.room g hg

theorem badSource_false {s : State} {c : CoreId} {srcs : List Src} {dests : List Reg} (h : s.Issues c srcs dests) : s.badSource c srcs = false := by
  simpa [State.badSource] using h.sound

/-- An instruction that executes normally does its own part. -/
theorem issue_go {s : State} {c : CoreId} {srcs : List Src} {dests : List Reg} (h : s.Issues c srcs dests) (k : State → Act) :
    s.issue c srcs dests k = (k s).out c s := by
  simp only [State.issue, issueTest_go h, badSource_false h]
  cases k s <;> simp [Act.out]

@[simp] theorem Act.out_done (c : CoreId) (s t : State) : (Act.done t).out c s = .next t := rfl
@[simp] theorem Act.out_stall (c : CoreId) (s : State) : Act.stall.out c s = .next (s.stall c) := rfl
@[simp] theorem Act.out_trap (c : CoreId) (s t : State) (code : TrapCode) (d : Word64) :
    (Act.trap t code d).out c s = .next (t.trapHere c code d) := rfl
@[simp] theorem Act.out_miss (c : CoreId) (s : State) (va : BitVec 52) (w : Bool) (g : Option Reg) :
    (Act.miss va w g).out c s = .next (s.parkForTranslation c va w g) := rfl

@[simp] theorem receiveCap_cur (s : State) (c : CoreId) (m : Msg) : (s.receiveCap c m).cur = s.cur := rfl

/-- Reading a source leaves the turn where it is. -/
@[simp] theorem takeX_cur (s : State) (c : CoreId) (n : BitVec 5) : (s.takeX c n).2.cur = s.cur := by
  unfold State.takeX
  dsimp only
  split
  · split
    · split
      · split <;> simp
      · rfl
    · rfl
  · simp
  · rfl

@[simp] theorem putX_cur (s : State) (c : CoreId) (n : BitVec 5) (v : Word64) : (s.putX c n v).cur = s.cur := by
  unfold State.putX
  dsimp only
  split
  · simp
  · split
    · split <;> simp
    · rfl
  · rfl

@[simp] theorem takeAll_nil (s : State) (c : CoreId) : s.takeAll c [] = ([], s) := rfl
@[simp] theorem takeAll_x (s : State) (c : CoreId) (n : BitVec 5) (w : Bool) (r : List Src) :
    s.takeAll c (⟨.x n, w⟩ :: r) = ((s.takeX c n).1 :: ((s.takeX c n).2.takeAll c r).1, ((s.takeX c n).2.takeAll c r).2) := rfl
@[simp] theorem takeAll_f (s : State) (c : CoreId) (n : BitVec 5) (w : Bool) (r : List Src) :
    s.takeAll c (⟨.f n, w⟩ :: r) = s.takeAll c r := rfl
@[simp] theorem takeAll_c (s : State) (c : CoreId) (n : BitVec 5) (w : Bool) (r : List Src) :
    s.takeAll c (⟨.c n, w⟩ :: r) = s.takeAll c r := rfl
@[simp] theorem takeAll_m (s : State) (c : CoreId) (n : BitVec 3) (w : Bool) (r : List Src) :
    s.takeAll c (⟨.m n, w⟩ :: r) = s.takeAll c r := rfl
@[simp] theorem takeAll_ce (s : State) (c : CoreId) (n : BitVec 4) (w : Bool) (r : List Src) :
    s.takeAll c (⟨.ce n, w⟩ :: r) = s.takeAll c r := rfl
@[simp] theorem takeAll_me (s : State) (c : CoreId) (n : BitVec 4) (w : Bool) (r : List Src) :
    s.takeAll c (⟨.me n, w⟩ :: r) = s.takeAll c r := rfl
@[simp] theorem takeAll_v (s : State) (c : CoreId) (n : BitVec 5) (w : Bool) (r : List Src) :
    s.takeAll c (⟨.v n, w⟩ :: r) = s.takeAll c r := rfl

@[simp] theorem putReg_x (s : State) (c : CoreId) (n : BitVec 5) (w : Word64) : s.putReg c (.x n) (.word w) = s.putX c n w := rfl
@[simp] theorem putReg_f (s : State) (c : CoreId) (n : BitVec 5) (w : Word64) :
    s.putReg c (.f n) (.word w) = s.modRegs c fun r => r.putF n w := rfl
@[simp] theorem putReg_c (s : State) (c : CoreId) (n : BitVec 5) (k : Cap) :
    s.putReg c (.c n) (.cap k) = s.modRegs c fun r => r.putC n k := rfl

end Sys2Proof.Machine
end

