-- ==== Sys2Proof/Laws/Memory.lean ====
section
/-! SUPPORT. Memory: what is read after a write, and that every operation keeps the canonical form. -/

namespace Sys2Proof.Machine

/-! ## Cells -/

theorem cellsFrom_mono {lo hi : Nat} : ∀ {l : List Host.Cell}, lo ≤ hi → cellsFrom hi l = true → cellsFrom lo l = true
  | [], _, _ => rfl
  | (a, v) :: r, h, hl => by
    simp only [cellsFrom, Bool.and_eq_true, decide_eq_true_eq] at hl ⊢
    exact ⟨⟨by omega, hl.1.2⟩, hl.2⟩

/-- Nothing is listed below the bound. -/
theorem cellAt_below {a : Nat} : ∀ {lo : Nat} {l : List Host.Cell}, cellsFrom lo l = true → a < lo → cellAt a l = 0
  | _, [], _, _ => rfl
  | lo, (b, v) :: r, hl, h => by
    simp only [cellsFrom, Bool.and_eq_true, decide_eq_true_eq] at hl
    rw [cellAt, if_pos (by omega)]

theorem setCell_wf (a : Nat) (v : Byte) : ∀ {lo : Nat} {l : List Host.Cell}, lo ≤ a → cellsFrom lo l = true → cellsFrom lo (setCell a v l) = true
  | lo, [], h, _ => by
    unfold setCell
    split
    · rfl
    · simp only [cellsFrom, Bool.and_eq_true, decide_eq_true_eq, and_true]
      exact ⟨h, ‹_›⟩
  | lo, (b, w) :: r, h, hl => by
    have hl' := hl
    simp only [cellsFrom, Bool.and_eq_true, decide_eq_true_eq] at hl
    unfold setCell
    split
    · split
      · exact hl'
      · simp only [cellsFrom, Bool.and_eq_true, decide_eq_true_eq]
        exact ⟨⟨h, ‹_›⟩, ⟨by omega, hl.1.2⟩, hl.2⟩
    · split
      · split
        · exact cellsFrom_mono (by omega) hl.2
        · next h2 h3 =>
          subst h2
          simp only [cellsFrom, Bool.and_eq_true, decide_eq_true_eq]
          exact ⟨⟨h, h3⟩, hl.2⟩
      · simp only [cellsFrom, Bool.and_eq_true, decide_eq_true_eq]
        exact ⟨hl.1, setCell_wf a v (by omega) hl.2⟩

theorem cellAt_setCell_self (a : Nat) (v : Byte) : ∀ {lo : Nat} {l : List Host.Cell}, cellsFrom lo l = true → cellAt a (setCell a v l) = v
  | _, [], _ => by
    unfold setCell
    split <;> simp [cellAt, *]
  | lo, (b, w) :: r, hl => by
    simp only [cellsFrom, Bool.and_eq_true, decide_eq_true_eq] at hl
    unfold setCell
    split
    · split <;> simp [cellAt, *]
    · split
      · split
        · next h => rw [cellAt_below hl.2 (by omega), h]
        · simp [cellAt]
      · rw [cellAt, if_neg (by omega), if_neg (by omega), cellAt_setCell_self a v hl.2]

theorem cellAt_setCell_ne {a b : Nat} (v : Byte) (h : b ≠ a) :
    ∀ {lo : Nat} {l : List Host.Cell}, cellsFrom lo l = true → cellAt b (setCell a v l) = cellAt b l
  | _, [], _ => by
    unfold setCell
    split
    · rfl
    · simp only [cellAt]
      rw [if_neg h, ite_self]
  | lo, (c, w) :: r, hl => by
    simp only [cellsFrom, Bool.and_eq_true, decide_eq_true_eq] at hl
    unfold setCell
    split
    · split
      · rfl
      · simp only [cellAt]
        by_cases h1 : b < a
        · rw [if_pos h1, if_pos (by omega)]
        · rw [if_neg h1, if_neg (by omega)]
    · split
      · next h2 =>
        subst h2
        split
        · rw [cellAt]
          by_cases h1 : b < a
          · rw [if_pos h1, cellAt_below hl.2 (by omega)]
          · rw [if_neg h1, if_neg (by omega)]
        · simp only [cellAt]
          rw [if_neg h, if_neg h]
      · simp only [cellAt]
        rw [cellAt_setCell_ne v h hl.2]

theorem filter_cells_wf (p : Host.Cell → Bool) : ∀ {lo : Nat} {l : List Host.Cell}, cellsFrom lo l = true → cellsFrom lo (l.filter p) = true
  | _, [], _ => rfl
  | lo, (a, v) :: r, hl => by
    simp only [cellsFrom, Bool.and_eq_true, decide_eq_true_eq] at hl
    rw [List.filter_cons]
    split
    · simp only [cellsFrom, Bool.and_eq_true, decide_eq_true_eq]
      exact ⟨hl.1, filter_cells_wf p hl.2⟩
    · exact cellsFrom_mono (by omega) (filter_cells_wf p hl.2)

theorem cellAt_filter (p : Nat → Bool) {a : Nat} : ∀ {lo : Nat} {l : List Host.Cell}, cellsFrom lo l = true →
    cellAt a (l.filter fun c => p c.1) = if p a then cellAt a l else 0
  | _, [], _ => by simp [cellAt]
  | lo, (b, v) :: r, hl => by
    simp only [cellsFrom, Bool.and_eq_true, decide_eq_true_eq] at hl
    have ih := cellAt_filter p (a := a) hl.2
    rw [List.filter_cons]
    by_cases hb : p b = true
    · simp only [hb, if_true, cellAt]
      by_cases h1 : a < b
      · simp [h1]
      · by_cases h2 : a = b
        · subst h2; simp [hb]
        · rw [if_neg h1, if_neg h2, ih, if_neg h1, if_neg h2]
    · simp only [Bool.not_eq_true] at hb
      simp only [hb, Bool.false_eq_true, if_false, cellAt]
      rw [ih]
      by_cases h1 : a < b
      · rw [if_pos h1, cellAt_below hl.2 (by omega)]
      · by_cases h2 : a = b
        · subst h2; simp [hb]
        · rw [if_neg h1, if_neg h2]

/-! ## Rising lists -/

theorem risingFrom_mono {lo hi : Nat} : ∀ {l : List Nat}, lo ≤ hi → risingFrom hi l = true → risingFrom lo l = true
  | [], _, _ => rfl
  | a :: r, h, hl => by
    simp only [risingFrom, Bool.and_eq_true, decide_eq_true_eq] at hl ⊢
    exact ⟨by omega, hl.2⟩

theorem risingFrom_le {a : Nat} : ∀ {lo : Nat} {l : List Nat}, risingFrom lo l = true → a ∈ l → lo ≤ a
  | lo, b :: r, hl, h => by
    simp only [risingFrom, Bool.and_eq_true, decide_eq_true_eq] at hl
    rcases List.mem_cons.1 h with rfl | h
    · exact hl.1
    · have := risingFrom_le hl.2 h
      omega

theorem insertNat_wf (a : Nat) : ∀ {lo : Nat} {l : List Nat}, lo ≤ a → risingFrom lo l = true → risingFrom lo (insertNat a l) = true
  | lo, [], h, _ => by simp [insertNat, risingFrom, h]
  | lo, b :: r, h, hl => by
    simp only [risingFrom, Bool.and_eq_true, decide_eq_true_eq] at hl
    unfold insertNat
    split
    · simp [risingFrom, hl, h]
      omega
    · split
      · simp [risingFrom, hl]
      · simp only [risingFrom, Bool.and_eq_true, decide_eq_true_eq]
        exact ⟨hl.1, insertNat_wf a (by omega) hl.2⟩

@[simp] theorem mem_insertNat {a b : Nat} : ∀ {l : List Nat}, b ∈ insertNat a l ↔ b = a ∨ b ∈ l
  | [] => by simp [insertNat]
  | c :: r => by
    unfold insertNat
    split
    · simp
    · split
      · next h => subst h; simp
      · simp only [List.mem_cons, mem_insertNat (l := r)]
        constructor <;> rintro (h | h | h) <;> simp [h]

theorem eraseNat_wf (a : Nat) : ∀ {lo : Nat} {l : List Nat}, risingFrom lo l = true → risingFrom lo (eraseNat a l) = true
  | lo, [], _ => rfl
  | lo, b :: r, hl => by
    simp only [risingFrom, Bool.and_eq_true, decide_eq_true_eq] at hl
    unfold eraseNat
    split
    · simp [risingFrom, hl]
    · split
      · exact risingFrom_mono (by omega) hl.2
      · simp only [risingFrom, Bool.and_eq_true, decide_eq_true_eq]
        exact ⟨hl.1, eraseNat_wf a hl.2⟩

theorem mem_eraseNat {a b : Nat} : ∀ {lo : Nat} {l : List Nat}, risingFrom lo l = true → (b ∈ eraseNat a l ↔ b ≠ a ∧ b ∈ l)
  | _, [], _ => by simp [eraseNat]
  | lo, c :: r, hl => by
    simp only [risingFrom, Bool.and_eq_true, decide_eq_true_eq] at hl
    unfold eraseNat
    split
    · constructor
      · intro h
        refine ⟨?_, h⟩
        rcases List.mem_cons.1 h with rfl | h
        · omega
        · have := risingFrom_le hl.2 h
          omega
      · exact fun h => h.2
    · split
      · next h =>
        subst h
        constructor
        · intro h
          have := risingFrom_le hl.2 h
          exact ⟨by omega, by simp [h]⟩
        · rintro ⟨h1, h2⟩
          rcases List.mem_cons.1 h2 with rfl | h2
          · exact absurd rfl h1
          · exact h2
      · simp only [List.mem_cons, mem_eraseNat hl.2]
        constructor
        · rintro (rfl | ⟨h1, h2⟩)
          · exact ⟨by omega, .inl rfl⟩
          · exact ⟨h1, .inr h2⟩
        · rintro ⟨h1, rfl | h2⟩
          · exact .inl rfl
          · exact .inr ⟨h1, h2⟩

theorem filter_rising_wf (p : Nat → Bool) : ∀ {lo : Nat} {l : List Nat}, risingFrom lo l = true → risingFrom lo (l.filter p) = true
  | _, [], _ => rfl
  | lo, a :: r, hl => by
    simp only [risingFrom, Bool.and_eq_true, decide_eq_true_eq] at hl
    rw [List.filter_cons]
    split
    · simp only [risingFrom, Bool.and_eq_true, decide_eq_true_eq]
      exact ⟨hl.1, filter_rising_wf p hl.2⟩
    · exact risingFrom_mono (by omega) (filter_rising_wf p hl.2)

/-! ## Memory -/

theorem Memory.wf_iff (m : Memory) : m.wf = true ↔
    cellsFrom 0 m.bytes = true ∧ risingFrom 0 m.empties = true ∧ risingFrom 0 m.tags = true ∧ risingFrom 0 m.bad = true := by
  simp [Memory.wf, and_assoc]

theorem Memory.wf_setByte {m : Memory} (loc : Nat) (v : Byte) (h : m.wf = true) : (m.setByte loc v).wf = true := by
  rw [wf_iff] at h ⊢
  exact ⟨setCell_wf loc v (Nat.zero_le _) h.1, h.2⟩

theorem Memory.wf_putByte {m : Memory} (loc : Nat) (v mask : Byte) (h : m.wf = true) : (m.putByte loc v mask).wf = true := wf_setByte _ _ h

theorem Memory.wf_write : ∀ (bs : List Byte) {m : Memory} (loc : Nat), m.wf = true → (m.write loc bs).wf = true
  | [], _, _, h => h
  | _ :: r, _, _, h => Memory.wf_write r _ (wf_setByte _ _ h)

theorem Memory.wf_setFull {m : Memory} (loc : Nat) (b : Bool) (h : m.wf = true) : (m.setFull loc b).wf = true := by
  rw [wf_iff] at h
  cases b
  · exact (wf_iff _).2 ⟨h.1, insertNat_wf _ (Nat.zero_le _) h.2.1, h.2.2⟩
  · exact (wf_iff _).2 ⟨h.1, eraseNat_wf _ h.2.1, h.2.2⟩

theorem Memory.wf_setTag {m : Memory} (loc : Nat) (b : Bool) (h : m.wf = true) : (m.setTag loc b).wf = true := by
  rw [wf_iff] at h
  cases b
  · exact (wf_iff _).2 ⟨h.1, h.2.1, eraseNat_wf _ h.2.2.1, h.2.2.2⟩
  · exact (wf_iff _).2 ⟨h.1, h.2.1, insertNat_wf _ (Nat.zero_le _) h.2.2.1, h.2.2.2⟩

theorem Memory.wf_setBad {m : Memory} (loc : Nat) (h : m.wf = true) : (m.setBad loc).wf = true := by
  rw [wf_iff] at h
  exact (wf_iff _).2 ⟨h.1, h.2.1, h.2.2.1, insertNat_wf _ (Nat.zero_le _) h.2.2.2⟩

theorem Memory.wf_clearBad {m : Memory} (loc : Nat) (h : m.wf = true) : (m.clearBad loc).wf = true := by
  rw [wf_iff] at h
  exact (wf_iff _).2 ⟨h.1, h.2.1, h.2.2.1, eraseNat_wf _ h.2.2.2⟩

theorem Memory.wf_engineWord {m : Memory} (loc : Nat) (bs : List Byte) (h : m.wf = true) : (m.engineWord loc bs).wf = true := by
  have h1 := wf_setTag loc false (wf_write bs loc h)
  unfold Memory.engineWord
  dsimp only
  split
  · exact wf_clearBad _ h1
  · exact wf_clearBad _ (wf_setFull _ _ h1)

theorem Memory.wf_scrub {m : Memory} (loc n : Nat) (h : m.wf = true) : (m.scrub loc n).wf = true := by
  rw [wf_iff] at h
  exact (wf_iff _).2 ⟨filter_cells_wf _ h.1, filter_rising_wf _ h.2.1, filter_rising_wf _ h.2.2.1, filter_rising_wf _ h.2.2.2⟩

theorem Memory.wf_restrict {m : Memory} (loc n : Nat) (h : m.wf = true) : (m.restrict loc n).wf = true := by
  rw [wf_iff] at h
  exact (wf_iff _).2 ⟨filter_cells_wf _ h.1, filter_rising_wf _ h.2.1, filter_rising_wf _ h.2.2.1, filter_rising_wf _ h.2.2.2⟩

theorem foldl_setCell_wf : ∀ (k : List Host.Cell) {l : List Host.Cell}, cellsFrom 0 l = true →
    cellsFrom 0 (k.foldl (fun b c => setCell c.1 c.2 b) l) = true
  | [], _, h => h
  | _ :: r, _, h => foldl_setCell_wf r (setCell_wf _ _ (Nat.zero_le _) h)

theorem foldl_insertNat_wf : ∀ (k : List Nat) {l : List Nat}, risingFrom 0 l = true → risingFrom 0 (k.foldl (fun l w => insertNat w l) l) = true
  | [], _, h => h
  | _ :: r, _, h => foldl_insertNat_wf r (insertNat_wf _ (Nat.zero_le _) h)

theorem Memory.wf_merge {m : Memory} (k : Memory) (h : m.wf = true) : (m.merge k).wf = true := by
  rw [wf_iff] at h
  exact (wf_iff _).2 ⟨foldl_setCell_wf _ h.1, foldl_insertNat_wf _ h.2.1, foldl_insertNat_wf _ h.2.2.1, foldl_insertNat_wf _ h.2.2.2⟩

theorem Memory.wf_copyWords : ∀ (n : Nat) {m : Memory} (src dst : Nat), m.wf = true → (m.copyWords src dst n).wf = true
  | 0, _, _, _, h => h
  | n + 1, _, _, _, h => Memory.wf_copyWords n _ _ (wf_engineWord _ _ h)

theorem Memory.wf_foldl {α : Type} (f : Memory → α → Memory) (hf : ∀ m x, m.wf = true → (f m x).wf = true) :
    ∀ (l : List α) {m : Memory}, m.wf = true → (l.foldl f m).wf = true
  | [], _, h => h
  | x :: r, _, h => Memory.wf_foldl f hf r (hf _ x h)

theorem Memory.wf_apply {m : Memory} (e : StoreEntry) (h : m.wf = true) : (m.apply e).wf = true := by
  unfold Memory.apply
  dsimp only
  refine wf_foldl _ (fun _ _ h => wf_clearBad _ h) _ (wf_foldl _ (fun _ _ h => wf_setTag _ _ h) _ ?_)
  have h1 := wf_foldl (fun (m : Memory) (b : Nat × Byte × Byte) => m.putByte b.1 b.2.1 b.2.2) (fun _ _ h => wf_putByte _ _ _ h) e.bytes h
  split
  · split
    · exact h1
    · exact wf_setFull _ _ h1
  · exact h1

/-! ## Reading after writing -/

theorem Memory.byte_setByte_self {m : Memory} (loc : Nat) (v : Byte) (h : m.wf = true) : (m.setByte loc v).byte loc = v :=
  cellAt_setCell_self loc v ((wf_iff m).1 h).1

theorem Memory.byte_setByte_ne {m : Memory} {loc a : Nat} (v : Byte) (h : m.wf = true) (ha : a ≠ loc) : (m.setByte loc v).byte a = m.byte a :=
  cellAt_setCell_ne v ha ((wf_iff m).1 h).1

@[simp] theorem Memory.byte_setFull (m : Memory) (loc : Nat) (b : Bool) (a : Nat) : (m.setFull loc b).byte a = m.byte a := by cases b <;> rfl
@[simp] theorem Memory.byte_setTag (m : Memory) (loc : Nat) (b : Bool) (a : Nat) : (m.setTag loc b).byte a = m.byte a := by cases b <;> rfl
@[simp] theorem Memory.byte_setBad (m : Memory) (loc a : Nat) : (m.setBad loc).byte a = m.byte a := rfl
@[simp] theorem Memory.byte_clearBad (m : Memory) (loc a : Nat) : (m.clearBad loc).byte a = m.byte a := rfl
@[simp] theorem Memory.full_setTag (m : Memory) (loc : Nat) (b : Bool) (a : Nat) : (m.setTag loc b).full a = m.full a := by cases b <;> rfl
@[simp] theorem Memory.full_clearBad (m : Memory) (loc a : Nat) : (m.clearBad loc).full a = m.full a := rfl
@[simp] theorem Memory.full_setByte (m : Memory) (loc : Nat) (v : Byte) (a : Nat) : (m.setByte loc v).full a = m.full a := rfl
@[simp] theorem Memory.tag_setFull (m : Memory) (loc : Nat) (b : Bool) (a : Nat) : (m.setFull loc b).tag a = m.tag a := by cases b <;> rfl
@[simp] theorem Memory.tag_clearBad (m : Memory) (loc a : Nat) : (m.clearBad loc).tag a = m.tag a := rfl
@[simp] theorem Memory.tag_setByte (m : Memory) (loc : Nat) (v : Byte) (a : Nat) : (m.setByte loc v).tag a = m.tag a := rfl

theorem Memory.full_setFull {m : Memory} (loc : Nat) (b : Bool) (a : Nat) (h : m.wf = true) :
    (m.setFull loc b).full a = if a / 8 = loc / 8 then b else m.full a := by
  have he := ((wf_iff m).1 h).2.1
  cases b
  · simp only [setFull, Memory.full, Bool.false_eq_true, if_false, List.contains_eq_mem, mem_insertNat]
    split <;> simp [*]
  · simp only [setFull, Memory.full, if_true, List.contains_eq_mem, mem_eraseNat he]
    split <;> simp [*]

theorem Memory.tag_setTag {m : Memory} (loc : Nat) (b : Bool) (a : Nat) (h : m.wf = true) :
    (m.setTag loc b).tag a = if a / 16 = loc / 16 then b else m.tag a := by
  have he := ((wf_iff m).1 h).2.2.1
  cases b
  · simp only [setTag, Memory.tag, Bool.false_eq_true, if_false, List.contains_eq_mem, mem_eraseNat he]
    split <;> simp [*]
  · simp only [setTag, Memory.tag, if_true, List.contains_eq_mem, mem_insertNat]
    split <;> simp [*]

theorem Memory.byte_write_out : ∀ (bs : List Byte) {m : Memory} {loc a : Nat}, m.wf = true → (a < loc ∨ loc + bs.length ≤ a) →
    (m.write loc bs).byte a = m.byte a
  | [], _, _, _, _, _ => rfl
  | b :: r, m, loc, a, h, ha => by
    simp only [List.length_cons] at ha
    rw [Memory.write, Memory.byte_write_out r (wf_setByte _ _ h) (by omega), byte_setByte_ne _ h (by omega)]

theorem Memory.byte_write_in : ∀ (bs : List Byte) {m : Memory} {loc i : Nat}, m.wf = true → (hi : i < bs.length) →
    (m.write loc bs).byte (loc + i) = bs[i]
  | b :: r, m, loc, 0, h, _ => by
    rw [Memory.write, byte_write_out r (wf_setByte _ _ h) (by omega)]
    simp [byte_setByte_self _ _ h]
  | b :: r, m, loc, i + 1, h, hi => by
    simp only [List.length_cons] at hi
    have := Memory.byte_write_in r (loc := loc + 1) (i := i) (wf_setByte loc b h) (by omega)
    rw [Memory.write, show loc + (i + 1) = loc + 1 + i by omega, this]
    simp

/-- A read after a write to the same place gives what was written. -/
theorem Memory.read_write (bs : List Byte) {m : Memory} (loc : Nat) (h : m.wf = true) : (m.write loc bs).read loc bs.length = bs := by
  apply List.ext_getElem
  · simp [Memory.read]
  · intro i h1 h2
    simp [Memory.read, byte_write_in bs h h2]

@[simp] theorem Memory.full_write : ∀ (bs : List Byte) (m : Memory) (loc a : Nat), (m.write loc bs).full a = m.full a
  | [], _, _, _ => rfl
  | b :: r, m, loc, a => by rw [Memory.write, Memory.full_write r]; rfl

@[simp] theorem Memory.tag_write : ∀ (bs : List Byte) (m : Memory) (loc a : Nat), (m.write loc bs).tag a = m.tag a
  | [], _, _, _ => rfl
  | b :: r, m, loc, a => by rw [Memory.write, Memory.tag_write r]; rfl

theorem leBytes_length : ∀ n v : Nat, (leBytes n v).length = n
  | 0, _ => rfl
  | n + 1, v => by simp [leBytes, leBytes_length n]

/-- The bytes of a number make the number again, as far as they reach. -/
theorem leNat_leBytes : ∀ n v : Nat, leNat (leBytes n v) = v % 2 ^ (8 * n)
  | 0, v => by simp [leBytes, leNat, Nat.mod_one]
  | n + 1, v => by
    rw [leBytes, leNat, leNat_leBytes n, BitVec.toNat_ofNat, show 8 * (n + 1) = 8 + 8 * n by omega, Nat.pow_add, Nat.mod_mul]

end Sys2Proof.Machine
end

