-- ==== Sys2Proof/Laws/Ops.lean ====
section
/-! SUPPORT. What the shared operations leave as it was: memory, and its canonical form. -/

namespace Sys2Proof.Machine

/-! ## Memory stands -/

@[simp] theorem modRope_mem (s : State) (r : Nat) (f : Rope → Rope) : (s.modRope r f).mem = s.mem := by unfold State.modRope; split <;> rfl
@[simp] theorem modCable_mem (s : State) (n : Nat) (f : Cable → Cable) : (s.modCable n f).mem = s.mem := by unfold State.modCable; split <;> rfl
@[simp] theorem modVf_mem (s : State) (n : Nat) (f : Vf → Vf) : (s.modVf n f).mem = s.mem := by unfold State.modVf; split <;> rfl
@[simp] theorem modTour_mem (s : State) (n : Nat) (f : Tour → Tour) : (s.modTour n f).mem = s.mem := by unfold State.modTour; split <;> rfl
@[simp] theorem modPart_mem (s : State) (p : Nat) (f : Part → Part) : (s.modPart p f).mem = s.mem := by unfold State.modPart; split <;> rfl
@[simp] theorem returnLanes_mem (s : State) (c : CoreId) (n : Nat) : (s.returnLanes c n).mem = s.mem := rfl
@[simp] theorem dropMonitor_mem (s : State) (c : CoreId) : (s.dropMonitor c).mem = s.mem := rfl
@[simp] theorem wakeDelay_mem (s : State) (c : CoreId) : (s.wakeDelay c).mem = s.mem := by unfold State.wakeDelay; split <;> (try split) <;> rfl
@[simp] theorem dropRedgets_mem (s : State) (c : CoreId) : (s.dropRedgets c).mem = s.mem := rfl
@[simp] theorem release_mem (s : State) (c : CoreId) : (s.release c).mem = s.mem := rfl
@[simp] theorem unpark_mem (s : State) (c : CoreId) : (s.unpark c).mem = s.mem := rfl
@[simp] theorem loseNotice_mem (s : State) (r : Nat) : (s.loseNotice r).mem = s.mem := by simp [State.loseNotice]
@[simp] theorem castTour_mem (s : State) (n : Nat) : (s.castTour n).mem = s.mem := by simp [State.castTour]
@[simp] theorem noteBoundary_mem (s : State) (c : CoreId) : (s.noteBoundary c).mem = s.mem := by simp [State.noteBoundary]

@[simp] theorem withdraw_mem (s : State) (c : CoreId) : (s.withdraw c).mem = s.mem := by
  unfold State.withdraw; dsimp only; split <;> simp

@[simp] theorem endEffects_mem (s : State) (c : CoreId) : (s.endEffects c).mem = s.mem := by
  unfold State.endEffects; dsimp only; split <;> simp

@[simp] theorem finish_mem (s : State) (c : CoreId) : (s.finish c).mem = s.mem := by simp [State.finish]

@[simp] theorem abort_mem (s : State) (c : CoreId) : (s.abort c).mem = s.mem := by simp [State.abort]

@[simp] theorem sendTrap_mem (s : State) (c : CoreId) (rope n : Nat) (x : Sender) (vf cl : Nat) (d : Word64) (m : Msg) :
    (s.sendTrap c rope n x vf cl d m).mem = s.mem := by unfold State.sendTrap; split <;> rfl

/-- Taking a trap leaves memory as it was. -/
@[simp] theorem takeTrap_mem (s : State) (c : CoreId) (code : TrapCode) (d pc : Word64) (n : Option Word64) :
    (s.takeTrap c code d pc n).mem = s.mem := by
  unfold State.takeTrap
  dsimp only
  split <;> (split <;> (try split) <;> (try split) <;> simp)

@[simp] theorem trapHere_mem (s : State) (c : CoreId) (code : TrapCode) (d : Word64) : (s.trapHere c code d).mem = s.mem := by
  simp [State.trapHere]

@[simp] theorem settleShed_mem (s : State) : s.settleShed.mem = s.mem := by
  unfold State.settleShed; split <;> (try split) <;> rfl

@[simp] theorem putX_mem (s : State) (c : CoreId) (n : BitVec 5) (v : Word64) : (s.putX c n v).mem = s.mem := by
  unfold State.putX
  dsimp only
  split
  · rfl
  · split <;> (try split) <;> rfl
  · rfl

@[simp] theorem putReg_mem (s : State) (c : CoreId) (g : Reg) (v : Value) : (s.putReg c g v).mem = s.mem := by
  unfold State.putReg; split <;> simp

@[simp] theorem markEmpty_mem (s : State) (c : CoreId) (g : Reg) : (s.markEmpty c g).mem = s.mem := by
  unfold State.markEmpty
  split
  · split <;> (try split) <;> rfl
  · split <;> rfl
  · rfl

@[simp] theorem produce_mem (s : State) (c : CoreId) (g : Option Reg) (d : Word64) (p : Pending) : (s.produce c g d p).mem = s.mem := by
  unfold State.produce State.addProducer State.markDest; split <;> simp

@[simp] theorem parkForTranslation_mem (s : State) (c : CoreId) (va : BitVec 52) (w : Bool) (g : Option Reg) :
    (s.parkForTranslation c va w g).mem = s.mem := by
  unfold State.parkForTranslation State.markDest; dsimp only; split <;> simp

theorem foldl_mem {α : Type} (f : State → α → State) (hf : ∀ s x, (f s x).mem = s.mem) : ∀ (l : List α) (s : State), (l.foldl f s).mem = s.mem
  | [], _ => rfl
  | x :: r, s => by rw [List.foldl_cons, foldl_mem f hf r, hf]

@[simp] theorem dropPartial_mem (s : State) (c : CoreId) (g : List Reg) : (s.dropPartial c g).mem = s.mem := by
  unfold State.dropPartial
  apply foldl_mem
  intro s g
  split
  · split
    · split <;> rfl
    · rfl
  · rfl

/-! ## Past a wait -/

@[simp] theorem pastWait_prods (k : Core) : k.pastWait.prods = k.prods := by unfold Core.pastWait; split <;> rfl
@[simp] theorem pastWait_stores (k : Core) : k.pastWait.stores = k.stores := by unfold Core.pastWait; split <;> rfl
@[simp] theorem pastWait_slots (k : Core) : k.pastWait.slots = k.slots := by unfold Core.pastWait; split <;> rfl
@[simp] theorem pastWait_running (k : Core) : k.pastWait.running = k.running := by unfold Core.pastWait; split <;> rfl
@[simp] theorem pastWait_after (k : Core) : k.pastWait.after = k.after.tail := by unfold Core.pastWait; split <;> simp_all

/-! ## The canonical form stands -/

theorem foldl_wf {α : Type} (f : State → α → State) (hf : ∀ s x, s.mem.wf = true → (f s x).mem.wf = true) :
    ∀ (l : List α) (s : State), s.mem.wf = true → (l.foldl f s).mem.wf = true
  | [], _, h => h
  | x :: r, s, h => foldl_wf f hf r _ (hf s x h)

theorem receiveCap_wf {s : State} (c : CoreId) (m : Msg) (h : s.mem.wf = true) : (s.receiveCap c m).mem.wf = true := by
  simpa [State.receiveCap] using Memory.wf_clearBad _ (Memory.wf_clearBad _ (Memory.wf_setTag _ _ (Memory.wf_write _ _ h)))

/-- Reading a source keeps memory in its canonical form: the most that it writes is a received capability. -/
theorem takeX_wf {s : State} (c : CoreId) (n : BitVec 5) (h : s.mem.wf = true) : (s.takeX c n).2.mem.wf = true := by
  unfold State.takeX
  dsimp only
  split
  · split
    · split
      · simp only [State.modCore_mem]
        split
        · exact receiveCap_wf _ _ h
        · exact h
      · exact h
    · exact h
  · exact h
  · exact h

theorem takeAll_wf {s : State} (c : CoreId) (h : s.mem.wf = true) : ∀ l : List Src, (s.takeAll c l).2.mem.wf = true := by
  intro l
  induction l generalizing s with
  | nil => exact h
  | cons q r ih =>
    obtain ⟨g, w⟩ := q
    cases g with
    | x n => exact ih (takeX_wf c n h)
    | f n => exact ih h
    | c n => exact ih h
    | v n => exact ih h
    | m n => exact ih h
    | ce n => exact ih h
    | me n => exact ih h

/-- What an act leads to has memory in its canonical form, if the act's own state has. -/
def Act.Wf : Act → Prop
  | .done t => t.mem.wf = true
  | .trap t _ _ => t.mem.wf = true
  | .stall => True
  | .miss .. => True

/-- An outcome with memory in its canonical form. -/
def OutWf (o : Out) : Prop := ∀ t, o = .next t → t.mem.wf = true

theorem OutWf.next {t : State} (h : t.mem.wf = true) : OutWf (.next t) := by
  intro u hu
  cases hu
  exact h

theorem Act.out_wf {a : Act} {c : CoreId} {s : State} (h : s.mem.wf = true) (ha : a.Wf) : OutWf (a.out c s) := by
  cases a with
  | done t => exact .next ha
  | trap t code d => exact .next (by simpa [Act.Wf] using ha)
  | stall => exact .next (by simpa using h)
  | miss va w => exact .next (by simpa using h)

/-- Issuing an instruction keeps memory in its canonical form, if the instruction's own part does. -/
theorem issue_wf {s : State} {c : CoreId} {srcs : List Src} {dests : List Reg} {k : State → Act} (h : s.mem.wf = true) (hk : (k s).Wf) :
    OutWf (s.issue c srcs dests k) := by
  unfold State.issue
  split
  · split
    · next t ht =>
      split
      · exact .next (by simpa using h)
      · exact .next (by simpa [ht, Act.Wf] using hk)
    · next ht =>
      split
      · exact .next (by simpa using h)
      · exact ht ▸ Act.out_wf h hk
    · exact Act.out_wf h hk
  · exact .next (by simpa using h)
  · exact .next (by simp only [trapHere_mem]; split <;> simpa using h)

end Sys2Proof.Machine
end

