-- ==== Sys2Proof/Laws/PerInstr.lean ====
section
/-! SUPPORT. One statement for every constructor: the layout of an instruction fits its word and names the instruction again. -/

namespace Sys2Proof.Laws.Layout

/-- Every piece of a layout is within its width. -/
def Fits (l : List (Nat × Nat)) : Prop := ∀ p ∈ l, p.2 < 2 ^ p.1

theorem Fits.nil : Fits [] := by simp [Fits]
theorem Fits.num {w n : Nat} {l : List (Nat × Nat)} (h : n < 2 ^ w) (hl : Fits l) : Fits ((w, n) :: l) :=
  List.forall_mem_cons.2 ⟨h, hl⟩
theorem Fits.bv {w : Nat} {v : BitVec w} {l : List (Nat × Nat)} (hl : Fits l) : Fits ((w, v.toNat) :: l) := .num v.isLt hl
theorem Fits.bool {b : Bool} {l : List (Nat × Nat)} (hl : Fits l) : Fits ((1, b.toNat) :: l) := .num b.toNat_lt hl

@[simp] theorem bit_toNat (b : Bool) : bit b.toNat = b := by cases b <;> rfl

/-- The layout of an instruction has 26 bits of pieces, of the widths of its major opcode, each piece within its width, and the decoder reads the instruction
back from them; an event of the machine has no layout, and no word. -/
def Statement (i : Instr) : Prop :=
  match i.layout with
  | some (op, l) => Fits l ∧ l.map Prod.fst = widthsOf op ∧ (l.map Prod.fst).sum = 26 ∧ assignedMajors.contains op = true ∧ 0 < op ∧ op < 64
    ∧ decodePieces op (l.map Prod.snd) = some i
  | none => encode i = none

theorem add (d : BitVec 5) (a : BitVec 5) (b : BitVec 5) (u : Bool) (v : Bool) : Statement (.add d a b u v) :=
  ⟨.num (by decide) (.bool (.bool (.bv (.bv (.bv .nil))))), rfl, rfl, rfl, by decide, by decide, show decAlu [0, v.toNat, u.toNat, b.toNat, a.toNat, d.toNat] = _ by simp [decAlu]⟩
theorem sub (d : BitVec 5) (a : BitVec 5) (b : BitVec 5) (u : Bool) (v : Bool) : Statement (.sub d a b u v) :=
  ⟨.num (by decide) (.bool (.bool (.bv (.bv (.bv .nil))))), rfl, rfl, rfl, by decide, by decide, show decAlu [1, v.toNat, u.toNat, b.toNat, a.toNat, d.toNat] = _ by simp [decAlu]⟩
theorem mul (d : BitVec 5) (a : BitVec 5) (b : BitVec 5) (u : Bool) (v : Bool) : Statement (.mul d a b u v) :=
  ⟨.num (by decide) (.bool (.bool (.bv (.bv (.bv .nil))))), rfl, rfl, rfl, by decide, by decide, show decAlu [2, v.toNat, u.toNat, b.toNat, a.toNat, d.toNat] = _ by simp [decAlu]⟩
theorem mulh (d : BitVec 5) (a : BitVec 5) (b : BitVec 5) (u : Bool) (v : Bool) : Statement (.mulh d a b u v) :=
  ⟨.num (by decide) (.bool (.bool (.bv (.bv (.bv .nil))))), rfl, rfl, rfl, by decide, by decide, show decAlu [3, v.toNat, u.toNat, b.toNat, a.toNat, d.toNat] = _ by simp [decAlu]⟩
theorem mulhn (d : BitVec 5) (a : BitVec 5) (b : BitVec 5) (u : Bool) (v : Bool) : Statement (.mulhn d a b u v) :=
  ⟨.num (by decide) (.bool (.bool (.bv (.bv (.bv .nil))))), rfl, rfl, rfl, by decide, by decide, show decAlu [4, v.toNat, u.toNat, b.toNat, a.toNat, d.toNat] = _ by simp [decAlu]⟩
theorem div (d : BitVec 5) (a : BitVec 5) (b : BitVec 5) (u : Bool) (v : Bool) : Statement (.div d a b u v) :=
  ⟨.num (by decide) (.bool (.bool (.bv (.bv (.bv .nil))))), rfl, rfl, rfl, by decide, by decide, show decAlu [5, v.toNat, u.toNat, b.toNat, a.toNat, d.toNat] = _ by simp [decAlu]⟩
theorem divn (d : BitVec 5) (a : BitVec 5) (b : BitVec 5) (u : Bool) (v : Bool) : Statement (.divn d a b u v) :=
  ⟨.num (by decide) (.bool (.bool (.bv (.bv (.bv .nil))))), rfl, rfl, rfl, by decide, by decide, show decAlu [6, v.toNat, u.toNat, b.toNat, a.toNat, d.toNat] = _ by simp [decAlu]⟩
theorem rem (d : BitVec 5) (a : BitVec 5) (b : BitVec 5) (u : Bool) (v : Bool) : Statement (.rem d a b u v) :=
  ⟨.num (by decide) (.bool (.bool (.bv (.bv (.bv .nil))))), rfl, rfl, rfl, by decide, by decide, show decAlu [7, v.toNat, u.toNat, b.toNat, a.toNat, d.toNat] = _ by simp [decAlu]⟩
theorem remn (d : BitVec 5) (a : BitVec 5) (b : BitVec 5) (u : Bool) (v : Bool) : Statement (.remn d a b u v) :=
  ⟨.num (by decide) (.bool (.bool (.bv (.bv (.bv .nil))))), rfl, rfl, rfl, by decide, by decide, show decAlu [8, v.toNat, u.toNat, b.toNat, a.toNat, d.toNat] = _ by simp [decAlu]⟩
theorem and (d : BitVec 5) (a : BitVec 5) (b : BitVec 5) (u : Bool) (v : Bool) : Statement (.and d a b u v) :=
  ⟨.num (by decide) (.bool (.bool (.bv (.bv (.bv .nil))))), rfl, rfl, rfl, by decide, by decide, show decAlu [9, v.toNat, u.toNat, b.toNat, a.toNat, d.toNat] = _ by simp [decAlu]⟩
theorem or (d : BitVec 5) (a : BitVec 5) (b : BitVec 5) (u : Bool) (v : Bool) : Statement (.or d a b u v) :=
  ⟨.num (by decide) (.bool (.bool (.bv (.bv (.bv .nil))))), rfl, rfl, rfl, by decide, by decide, show decAlu [10, v.toNat, u.toNat, b.toNat, a.toNat, d.toNat] = _ by simp [decAlu]⟩
theorem xor (d : BitVec 5) (a : BitVec 5) (b : BitVec 5) (u : Bool) (v : Bool) : Statement (.xor d a b u v) :=
  ⟨.num (by decide) (.bool (.bool (.bv (.bv (.bv .nil))))), rfl, rfl, rfl, by decide, by decide, show decAlu [11, v.toNat, u.toNat, b.toNat, a.toNat, d.toNat] = _ by simp [decAlu]⟩
theorem andn (d : BitVec 5) (a : BitVec 5) (b : BitVec 5) (u : Bool) (v : Bool) : Statement (.andn d a b u v) :=
  ⟨.num (by decide) (.bool (.bool (.bv (.bv (.bv .nil))))), rfl, rfl, rfl, by decide, by decide, show decAlu [12, v.toNat, u.toNat, b.toNat, a.toNat, d.toNat] = _ by simp [decAlu]⟩
theorem shl (d : BitVec 5) (a : BitVec 5) (b : BitVec 5) (u : Bool) (v : Bool) : Statement (.shl d a b u v) :=
  ⟨.num (by decide) (.bool (.bool (.bv (.bv (.bv .nil))))), rfl, rfl, rfl, by decide, by decide, show decAlu [13, v.toNat, u.toNat, b.toNat, a.toNat, d.toNat] = _ by simp [decAlu]⟩
theorem shr (d : BitVec 5) (a : BitVec 5) (b : BitVec 5) (u : Bool) (v : Bool) : Statement (.shr d a b u v) :=
  ⟨.num (by decide) (.bool (.bool (.bv (.bv (.bv .nil))))), rfl, rfl, rfl, by decide, by decide, show decAlu [14, v.toNat, u.toNat, b.toNat, a.toNat, d.toNat] = _ by simp [decAlu]⟩
theorem sra (d : BitVec 5) (a : BitVec 5) (b : BitVec 5) (u : Bool) (v : Bool) : Statement (.sra d a b u v) :=
  ⟨.num (by decide) (.bool (.bool (.bv (.bv (.bv .nil))))), rfl, rfl, rfl, by decide, by decide, show decAlu [15, v.toNat, u.toNat, b.toNat, a.toNat, d.toNat] = _ by simp [decAlu]⟩
theorem rot (d : BitVec 5) (a : BitVec 5) (b : BitVec 5) (u : Bool) (v : Bool) : Statement (.rot d a b u v) :=
  ⟨.num (by decide) (.bool (.bool (.bv (.bv (.bv .nil))))), rfl, rfl, rfl, by decide, by decide, show decAlu [16, v.toNat, u.toNat, b.toNat, a.toNat, d.toNat] = _ by simp [decAlu]⟩
theorem slt (d : BitVec 5) (a : BitVec 5) (b : BitVec 5) (u : Bool) (v : Bool) : Statement (.slt d a b u v) :=
  ⟨.num (by decide) (.bool (.bool (.bv (.bv (.bv .nil))))), rfl, rfl, rfl, by decide, by decide, show decAlu [17, v.toNat, u.toNat, b.toNat, a.toNat, d.toNat] = _ by simp [decAlu]⟩
theorem sltn (d : BitVec 5) (a : BitVec 5) (b : BitVec 5) (u : Bool) (v : Bool) : Statement (.sltn d a b u v) :=
  ⟨.num (by decide) (.bool (.bool (.bv (.bv (.bv .nil))))), rfl, rfl, rfl, by decide, by decide, show decAlu [18, v.toNat, u.toNat, b.toNat, a.toNat, d.toNat] = _ by simp [decAlu]⟩
theorem min (d : BitVec 5) (a : BitVec 5) (b : BitVec 5) (u : Bool) (v : Bool) : Statement (.min d a b u v) :=
  ⟨.num (by decide) (.bool (.bool (.bv (.bv (.bv .nil))))), rfl, rfl, rfl, by decide, by decide, show decAlu [19, v.toNat, u.toNat, b.toNat, a.toNat, d.toNat] = _ by simp [decAlu]⟩
theorem max (d : BitVec 5) (a : BitVec 5) (b : BitVec 5) (u : Bool) (v : Bool) : Statement (.max d a b u v) :=
  ⟨.num (by decide) (.bool (.bool (.bv (.bv (.bv .nil))))), rfl, rfl, rfl, by decide, by decide, show decAlu [20, v.toNat, u.toNat, b.toNat, a.toNat, d.toNat] = _ by simp [decAlu]⟩
theorem minn (d : BitVec 5) (a : BitVec 5) (b : BitVec 5) (u : Bool) (v : Bool) : Statement (.minn d a b u v) :=
  ⟨.num (by decide) (.bool (.bool (.bv (.bv (.bv .nil))))), rfl, rfl, rfl, by decide, by decide, show decAlu [21, v.toNat, u.toNat, b.toNat, a.toNat, d.toNat] = _ by simp [decAlu]⟩
theorem maxn (d : BitVec 5) (a : BitVec 5) (b : BitVec 5) (u : Bool) (v : Bool) : Statement (.maxn d a b u v) :=
  ⟨.num (by decide) (.bool (.bool (.bv (.bv (.bv .nil))))), rfl, rfl, rfl, by decide, by decide, show decAlu [22, v.toNat, u.toNat, b.toNat, a.toNat, d.toNat] = _ by simp [decAlu]⟩
theorem clz (d : BitVec 5) (a : BitVec 5) (u : Bool) : Statement (.clz d a u) :=
  ⟨.num (by decide) (.num (by decide) (.bool (.num (by decide) (.bv (.bv .nil))))), rfl, rfl, rfl, by decide, by decide, show decAlu [23, 0, u.toNat, 0, a.toNat, d.toNat] = _ by simp [decAlu]⟩
theorem ctz (d : BitVec 5) (a : BitVec 5) (u : Bool) : Statement (.ctz d a u) :=
  ⟨.num (by decide) (.num (by decide) (.bool (.num (by decide) (.bv (.bv .nil))))), rfl, rfl, rfl, by decide, by decide, show decAlu [24, 0, u.toNat, 0, a.toNat, d.toNat] = _ by simp [decAlu]⟩
theorem popc (d : BitVec 5) (a : BitVec 5) (u : Bool) : Statement (.popc d a u) :=
  ⟨.num (by decide) (.num (by decide) (.bool (.num (by decide) (.bv (.bv .nil))))), rfl, rfl, rfl, by decide, by decide, show decAlu [25, 0, u.toNat, 0, a.toNat, d.toNat] = _ by simp [decAlu]⟩
theorem bswap (d : BitVec 5) (a : BitVec 5) (u : Bool) : Statement (.bswap d a u) :=
  ⟨.num (by decide) (.num (by decide) (.bool (.num (by decide) (.bv (.bv .nil))))), rfl, rfl, rfl, by decide, by decide, show decAlu [26, 0, u.toNat, 0, a.toNat, d.toNat] = _ by simp [decAlu]⟩
theorem bfx (d : BitVec 5) (a : BitVec 5) (b : BitVec 5) (u : Bool) (v : Bool) : Statement (.bfx d a b u v) :=
  ⟨.num (by decide) (.bool (.bool (.bv (.bv (.bv .nil))))), rfl, rfl, rfl, by decide, by decide, show decAlu [27, v.toNat, u.toNat, b.toNat, a.toNat, d.toNat] = _ by simp [decAlu]⟩
theorem bfi (d : BitVec 5) (a : BitVec 5) (b : BitVec 5) (u : Bool) (v : Bool) : Statement (.bfi d a b u v) :=
  ⟨.num (by decide) (.bool (.bool (.bv (.bv (.bv .nil))))), rfl, rfl, rfl, by decide, by decide, show decAlu [28, v.toNat, u.toNat, b.toNat, a.toNat, d.toNat] = _ by simp [decAlu]⟩
theorem addi (d : BitVec 5) (a : BitVec 5) (u : Bool) (imm : BitVec 15) : Statement (.addi d a u imm) :=
  ⟨.bv (.bool (.bv (.bv .nil))), rfl, rfl, rfl, by decide, by decide, show decAddi [imm.toNat, u.toNat, a.toNat, d.toNat] = _ by simp [decAddi]⟩
theorem andi (d : BitVec 5) (a : BitVec 5) (u : Bool) (imm : BitVec 15) : Statement (.andi d a u imm) :=
  ⟨.bv (.bool (.bv (.bv .nil))), rfl, rfl, rfl, by decide, by decide, show decAndi [imm.toNat, u.toNat, a.toNat, d.toNat] = _ by simp [decAndi]⟩
theorem ori (d : BitVec 5) (a : BitVec 5) (u : Bool) (imm : BitVec 15) : Statement (.ori d a u imm) :=
  ⟨.bv (.bool (.bv (.bv .nil))), rfl, rfl, rfl, by decide, by decide, show decOri [imm.toNat, u.toNat, a.toNat, d.toNat] = _ by simp [decOri]⟩
theorem xori (d : BitVec 5) (a : BitVec 5) (u : Bool) (imm : BitVec 15) : Statement (.xori d a u imm) :=
  ⟨.bv (.bool (.bv (.bv .nil))), rfl, rfl, rfl, by decide, by decide, show decXori [imm.toNat, u.toNat, a.toNat, d.toNat] = _ by simp [decXori]⟩
theorem slti (d : BitVec 5) (a : BitVec 5) (u : Bool) (imm : BitVec 14) : Statement (.slti d a u imm) :=
  ⟨.bv (.num (by decide) (.bool (.bv (.bv .nil)))), rfl, rfl, rfl, by decide, by decide, show decCompareImm [imm.toNat, 0, u.toNat, a.toNat, d.toNat] = _ by simp [decCompareImm]⟩
theorem sltni (d : BitVec 5) (a : BitVec 5) (u : Bool) (imm : BitVec 14) : Statement (.sltni d a u imm) :=
  ⟨.bv (.num (by decide) (.bool (.bv (.bv .nil)))), rfl, rfl, rfl, by decide, by decide, show decCompareImm [imm.toNat, 1, u.toNat, a.toNat, d.toNat] = _ by simp [decCompareImm]⟩
theorem shli (d : BitVec 5) (a : BitVec 5) (u : Bool) (sz : BitVec 6) : Statement (.shli d a u sz) :=
  ⟨.bv (.num (by decide) (.num (by decide) (.bool (.bv (.bv .nil))))), rfl, rfl, rfl, by decide, by decide, show decShiftImm [sz.toNat, 0, 0, u.toNat, a.toNat, d.toNat] = _ by simp [decShiftImm]⟩
theorem shri (d : BitVec 5) (a : BitVec 5) (u : Bool) (sz : BitVec 6) : Statement (.shri d a u sz) :=
  ⟨.bv (.num (by decide) (.num (by decide) (.bool (.bv (.bv .nil))))), rfl, rfl, rfl, by decide, by decide, show decShiftImm [sz.toNat, 1, 0, u.toNat, a.toNat, d.toNat] = _ by simp [decShiftImm]⟩
theorem srai (d : BitVec 5) (a : BitVec 5) (u : Bool) (sz : BitVec 6) : Statement (.srai d a u sz) :=
  ⟨.bv (.num (by decide) (.num (by decide) (.bool (.bv (.bv .nil))))), rfl, rfl, rfl, by decide, by decide, show decShiftImm [sz.toNat, 2, 0, u.toNat, a.toNat, d.toNat] = _ by simp [decShiftImm]⟩
theorem roti (d : BitVec 5) (a : BitVec 5) (u : Bool) (sz : BitVec 6) : Statement (.roti d a u sz) :=
  ⟨.bv (.num (by decide) (.num (by decide) (.bool (.bv (.bv .nil))))), rfl, rfl, rfl, by decide, by decide, show decShiftImm [sz.toNat, 3, 0, u.toNat, a.toNat, d.toNat] = _ by simp [decShiftImm]⟩
theorem lih (d : BitVec 5) (imm : BitVec 21) : Statement (.lih d imm) :=
  ⟨.bv (.bv .nil), rfl, rfl, rfl, by decide, by decide, show decLih [imm.toNat, d.toNat] = _ by simp [decLih]⟩
theorem ld (d : BitVec 5) (c : BitVec 5) (w : Bool) (sz : BitVec 3) (imm : BitVec 12) : Statement (.ld d c w sz imm) :=
  ⟨.bv (.bv (.bool (.bv (.bv .nil)))), rfl, rfl, rfl, by decide, by decide, show decLd [imm.toNat, sz.toNat, w.toNat, c.toNat, d.toNat] = _ by simp [decLd]⟩
theorem st (d : BitVec 5) (c : BitVec 5) (w : Bool) (sz : BitVec 2) (imm : BitVec 12) : Statement (.st d c w sz imm) :=
  ⟨.bv (.num (Nat.lt_of_lt_of_le sz.isLt (by decide)) (.bool (.bv (.bv .nil)))), rfl, rfl, rfl, by decide, by decide, show decSt [imm.toNat, sz.toNat, w.toNat, c.toNat, d.toNat] = _ by simp [decSt]; exact sz.isLt⟩
theorem ldc (d : BitVec 5) (c : BitVec 5) (w : Bool) (imm : BitVec 12) : Statement (.ldc d c w imm) :=
  ⟨.bv (.num (by decide) (.bool (.bv (.bv .nil)))), rfl, rfl, rfl, by decide, by decide, show decLdc [imm.toNat, 0, w.toNat, c.toNat, d.toNat] = _ by simp [decLdc]⟩
theorem stc (d : BitVec 5) (c : BitVec 5) (w : Bool) (imm : BitVec 12) : Statement (.stc d c w imm) :=
  ⟨.bv (.num (by decide) (.bool (.bv (.bv .nil)))), rfl, rfl, rfl, by decide, by decide, show decStc [imm.toNat, 0, w.toNat, c.toNat, d.toNat] = _ by simp [decStc]⟩
theorem ldw (d : BitVec 5) (c : BitVec 5) (w : Bool) (sz : BitVec 3) (imm : BitVec 12) : Statement (.ldw d c w sz imm) :=
  ⟨.bv (.bv (.bool (.bv (.bv .nil)))), rfl, rfl, rfl, by decide, by decide, show decLdw [imm.toNat, sz.toNat, w.toNat, c.toNat, d.toNat] = _ by simp [decLdw]⟩
theorem stf (d : BitVec 5) (c : BitVec 5) (w : Bool) (imm : BitVec 12) : Statement (.stf d c w imm) :=
  ⟨.bv (.num (by decide) (.bool (.bv (.bv .nil)))), rfl, rfl, rfl, by decide, by decide, show decStf [imm.toNat, 3, w.toNat, c.toNat, d.toNat] = _ by simp [decStf]⟩
theorem clrf (c : BitVec 5) (w : Bool) (imm : BitVec 12) : Statement (.clrf c w imm) :=
  ⟨.bv (.num (by decide) (.bool (.bv (.num (by decide) .nil)))), rfl, rfl, rfl, by decide, by decide, show decStf [imm.toNat, 7, w.toNat, c.toNat, 0] = _ by simp [decStf]⟩
theorem ldb (d : BitVec 5) (c : BitVec 5) (w : Bool) (b : BitVec 5) (l : BitVec 5) : Statement (.ldb d c w b l) :=
  ⟨.num (by decide) (.bv (.bv (.num (by decide) (.bool (.bv (.bv .nil)))))), rfl, rfl, rfl, by decide, by decide, show decBits [0, l.toNat, b.toNat, 0, w.toNat, c.toNat, d.toNat] = _ by simp [decBits]⟩
theorem ldbx (d : BitVec 5) (c : BitVec 5) (w : Bool) (b : BitVec 5) (l : BitVec 5) : Statement (.ldbx d c w b l) :=
  ⟨.num (by decide) (.bv (.bv (.num (by decide) (.bool (.bv (.bv .nil)))))), rfl, rfl, rfl, by decide, by decide, show decBits [0, l.toNat, b.toNat, 1, w.toNat, c.toNat, d.toNat] = _ by simp [decBits]⟩
theorem stb (d : BitVec 5) (c : BitVec 5) (w : Bool) (b : BitVec 5) (l : BitVec 5) : Statement (.stb d c w b l) :=
  ⟨.num (by decide) (.bv (.bv (.num (by decide) (.bool (.bv (.bv .nil)))))), rfl, rfl, rfl, by decide, by decide, show decBits [0, l.toNat, b.toNat, 2, w.toNat, c.toNat, d.toNat] = _ by simp [decBits]⟩
theorem fld (d : BitVec 5) (c : BitVec 5) (w : Bool) (sz : BitVec 2) (imm : BitVec 12) : Statement (.fld d c w sz imm) :=
  ⟨.bv (.num (Nat.lt_of_lt_of_le sz.isLt (by decide)) (.bool (.bv (.bv .nil)))), rfl, rfl, rfl, by decide, by decide, show decFld [imm.toNat, sz.toNat, w.toNat, c.toNat, d.toNat] = _ by simp [decFld]; exact sz.isLt⟩
theorem fst (d : BitVec 5) (c : BitVec 5) (w : Bool) (sz : BitVec 2) (imm : BitVec 12) : Statement (.fst d c w sz imm) :=
  ⟨.bv (.num (Nat.lt_of_lt_of_le sz.isLt (by decide)) (.bool (.bv (.bv .nil)))), rfl, rfl, rfl, by decide, by decide, show decFst [imm.toNat, sz.toNat, w.toNat, c.toNat, d.toNat] = _ by simp [decFst]; exact sz.isLt⟩
theorem aadd (d : BitVec 5) (c : BitVec 5) (b : BitVec 5) (u : Bool) (v : Bool) (o : BitVec 2) (sz : BitVec 3) : Statement (.aadd d c b u v o sz) :=
  ⟨.bv (.bv (.num (by decide) (.bool (.bool (.bv (.bv (.bv .nil))))))), rfl, rfl, rfl, by decide, by decide, show decAtomic [sz.toNat, o.toNat, 0, v.toNat, u.toNat, b.toNat, c.toNat, d.toNat] = _ by simp [decAtomic]⟩
theorem aand (d : BitVec 5) (c : BitVec 5) (b : BitVec 5) (u : Bool) (v : Bool) (o : BitVec 2) (sz : BitVec 3) : Statement (.aand d c b u v o sz) :=
  ⟨.bv (.bv (.num (by decide) (.bool (.bool (.bv (.bv (.bv .nil))))))), rfl, rfl, rfl, by decide, by decide, show decAtomic [sz.toNat, o.toNat, 1, v.toNat, u.toNat, b.toNat, c.toNat, d.toNat] = _ by simp [decAtomic]⟩
theorem aor (d : BitVec 5) (c : BitVec 5) (b : BitVec 5) (u : Bool) (v : Bool) (o : BitVec 2) (sz : BitVec 3) : Statement (.aor d c b u v o sz) :=
  ⟨.bv (.bv (.num (by decide) (.bool (.bool (.bv (.bv (.bv .nil))))))), rfl, rfl, rfl, by decide, by decide, show decAtomic [sz.toNat, o.toNat, 2, v.toNat, u.toNat, b.toNat, c.toNat, d.toNat] = _ by simp [decAtomic]⟩
theorem axor (d : BitVec 5) (c : BitVec 5) (b : BitVec 5) (u : Bool) (v : Bool) (o : BitVec 2) (sz : BitVec 3) : Statement (.axor d c b u v o sz) :=
  ⟨.bv (.bv (.num (by decide) (.bool (.bool (.bv (.bv (.bv .nil))))))), rfl, rfl, rfl, by decide, by decide, show decAtomic [sz.toNat, o.toNat, 3, v.toNat, u.toNat, b.toNat, c.toNat, d.toNat] = _ by simp [decAtomic]⟩
theorem amin (d : BitVec 5) (c : BitVec 5) (b : BitVec 5) (u : Bool) (v : Bool) (o : BitVec 2) (sz : BitVec 3) : Statement (.amin d c b u v o sz) :=
  ⟨.bv (.bv (.num (by decide) (.bool (.bool (.bv (.bv (.bv .nil))))))), rfl, rfl, rfl, by decide, by decide, show decAtomic [sz.toNat, o.toNat, 4, v.toNat, u.toNat, b.toNat, c.toNat, d.toNat] = _ by simp [decAtomic]⟩
theorem amax (d : BitVec 5) (c : BitVec 5) (b : BitVec 5) (u : Bool) (v : Bool) (o : BitVec 2) (sz : BitVec 3) : Statement (.amax d c b u v o sz) :=
  ⟨.bv (.bv (.num (by decide) (.bool (.bool (.bv (.bv (.bv .nil))))))), rfl, rfl, rfl, by decide, by decide, show decAtomic [sz.toNat, o.toNat, 5, v.toNat, u.toNat, b.toNat, c.toNat, d.toNat] = _ by simp [decAtomic]⟩
theorem aminn (d : BitVec 5) (c : BitVec 5) (b : BitVec 5) (u : Bool) (v : Bool) (o : BitVec 2) (sz : BitVec 3) : Statement (.aminn d c b u v o sz) :=
  ⟨.bv (.bv (.num (by decide) (.bool (.bool (.bv (.bv (.bv .nil))))))), rfl, rfl, rfl, by decide, by decide, show decAtomic [sz.toNat, o.toNat, 6, v.toNat, u.toNat, b.toNat, c.toNat, d.toNat] = _ by simp [decAtomic]⟩
theorem amaxn (d : BitVec 5) (c : BitVec 5) (b : BitVec 5) (u : Bool) (v : Bool) (o : BitVec 2) (sz : BitVec 3) : Statement (.amaxn d c b u v o sz) :=
  ⟨.bv (.bv (.num (by decide) (.bool (.bool (.bv (.bv (.bv .nil))))))), rfl, rfl, rfl, by decide, by decide, show decAtomic [sz.toNat, o.toNat, 7, v.toNat, u.toNat, b.toNat, c.toNat, d.toNat] = _ by simp [decAtomic]⟩
theorem aswap (d : BitVec 5) (c : BitVec 5) (b : BitVec 5) (u : Bool) (v : Bool) (o : BitVec 2) (sz : BitVec 3) : Statement (.aswap d c b u v o sz) :=
  ⟨.bv (.bv (.num (by decide) (.bool (.bool (.bv (.bv (.bv .nil))))))), rfl, rfl, rfl, by decide, by decide, show decAtomic [sz.toNat, o.toNat, 8, v.toNat, u.toNat, b.toNat, c.toNat, d.toNat] = _ by simp [decAtomic]⟩
theorem aaddz (d : BitVec 5) (c : BitVec 5) (b : BitVec 5) (u : Bool) (v : Bool) (o : BitVec 2) (sz : BitVec 3) : Statement (.aaddz d c b u v o sz) :=
  ⟨.bv (.bv (.num (by decide) (.bool (.bool (.bv (.bv (.bv .nil))))))), rfl, rfl, rfl, by decide, by decide, show decAtomic [sz.toNat, o.toNat, 9, v.toNat, u.toNat, b.toNat, c.toNat, d.toNat] = _ by simp [decAtomic]⟩
theorem afadd (d : BitVec 5) (c : BitVec 5) (b : BitVec 5) (u : Bool) (v : Bool) (t : Bool) (o : BitVec 2) (sz : BitVec 3) : Statement (.afadd d c b u v t o sz) :=
  ⟨.bv (.bv (.num (by decide) (.bool (.bool (.bool (.bv (.bv (.bv .nil)))))))), rfl, rfl, rfl, by decide, by decide, show decAtomicFloat [sz.toNat, o.toNat, 0, t.toNat, v.toNat, u.toNat, b.toNat, c.toNat, d.toNat] = _ by simp [decAtomicFloat]⟩
theorem afmin (d : BitVec 5) (c : BitVec 5) (b : BitVec 5) (u : Bool) (v : Bool) (t : Bool) (o : BitVec 2) (sz : BitVec 3) : Statement (.afmin d c b u v t o sz) :=
  ⟨.bv (.bv (.num (by decide) (.bool (.bool (.bool (.bv (.bv (.bv .nil)))))))), rfl, rfl, rfl, by decide, by decide, show decAtomicFloat [sz.toNat, o.toNat, 1, t.toNat, v.toNat, u.toNat, b.toNat, c.toNat, d.toNat] = _ by simp [decAtomicFloat]⟩
theorem afmax (d : BitVec 5) (c : BitVec 5) (b : BitVec 5) (u : Bool) (v : Bool) (t : Bool) (o : BitVec 2) (sz : BitVec 3) : Statement (.afmax d c b u v t o sz) :=
  ⟨.bv (.bv (.num (by decide) (.bool (.bool (.bool (.bv (.bv (.bv .nil)))))))), rfl, rfl, rfl, by decide, by decide, show decAtomicFloat [sz.toNat, o.toNat, 2, t.toNat, v.toNat, u.toNat, b.toNat, c.toNat, d.toNat] = _ by simp [decAtomicFloat]⟩
theorem afminn (d : BitVec 5) (c : BitVec 5) (b : BitVec 5) (u : Bool) (v : Bool) (t : Bool) (o : BitVec 2) (sz : BitVec 3) : Statement (.afminn d c b u v t o sz) :=
  ⟨.bv (.bv (.num (by decide) (.bool (.bool (.bool (.bv (.bv (.bv .nil)))))))), rfl, rfl, rfl, by decide, by decide, show decAtomicFloat [sz.toNat, o.toNat, 3, t.toNat, v.toNat, u.toNat, b.toNat, c.toNat, d.toNat] = _ by simp [decAtomicFloat]⟩
theorem afmaxn (d : BitVec 5) (c : BitVec 5) (b : BitVec 5) (u : Bool) (v : Bool) (t : Bool) (o : BitVec 2) (sz : BitVec 3) : Statement (.afmaxn d c b u v t o sz) :=
  ⟨.bv (.bv (.num (by decide) (.bool (.bool (.bool (.bv (.bv (.bv .nil)))))))), rfl, rfl, rfl, by decide, by decide, show decAtomicFloat [sz.toNat, o.toNat, 4, t.toNat, v.toNat, u.toNat, b.toNat, c.toNat, d.toNat] = _ by simp [decAtomicFloat]⟩
theorem cas (d : BitVec 5) (c : BitVec 5) (b : BitVec 5) (u : Bool) (v : Bool) (o : BitVec 2) (sz : BitVec 3) : Statement (.cas d c b u v o sz) :=
  ⟨.bv (.bv (.num (by decide) (.bool (.bool (.bv (.bv (.bv .nil))))))), rfl, rfl, rfl, by decide, by decide, show decCas [sz.toNat, o.toNat, 0, v.toNat, u.toNat, b.toNat, c.toNat, d.toNat] = _ by simp [decCas]⟩
theorem beq (a : BitVec 5) (b : BitVec 5) (u : Bool) (v : Bool) (o : BitVec 11) : Statement (.beq a b u v o) :=
  ⟨.bv (.num (by decide) (.bool (.bool (.bv (.bv .nil))))), rfl, rfl, rfl, by decide, by decide, show decBranch [o.toNat, 0, v.toNat, u.toNat, b.toNat, a.toNat] = _ by simp [decBranch]⟩
theorem bne (a : BitVec 5) (b : BitVec 5) (u : Bool) (v : Bool) (o : BitVec 11) : Statement (.bne a b u v o) :=
  ⟨.bv (.num (by decide) (.bool (.bool (.bv (.bv .nil))))), rfl, rfl, rfl, by decide, by decide, show decBranch [o.toNat, 1, v.toNat, u.toNat, b.toNat, a.toNat] = _ by simp [decBranch]⟩
theorem blt (a : BitVec 5) (b : BitVec 5) (u : Bool) (v : Bool) (o : BitVec 11) : Statement (.blt a b u v o) :=
  ⟨.bv (.num (by decide) (.bool (.bool (.bv (.bv .nil))))), rfl, rfl, rfl, by decide, by decide, show decBranch [o.toNat, 2, v.toNat, u.toNat, b.toNat, a.toNat] = _ by simp [decBranch]⟩
theorem bge (a : BitVec 5) (b : BitVec 5) (u : Bool) (v : Bool) (o : BitVec 11) : Statement (.bge a b u v o) :=
  ⟨.bv (.num (by decide) (.bool (.bool (.bv (.bv .nil))))), rfl, rfl, rfl, by decide, by decide, show decBranch [o.toNat, 3, v.toNat, u.toNat, b.toNat, a.toNat] = _ by simp [decBranch]⟩
theorem bltn (a : BitVec 5) (b : BitVec 5) (u : Bool) (v : Bool) (o : BitVec 11) : Statement (.bltn a b u v o) :=
  ⟨.bv (.num (by decide) (.bool (.bool (.bv (.bv .nil))))), rfl, rfl, rfl, by decide, by decide, show decBranch [o.toNat, 4, v.toNat, u.toNat, b.toNat, a.toNat] = _ by simp [decBranch]⟩
theorem bgen (a : BitVec 5) (b : BitVec 5) (u : Bool) (v : Bool) (o : BitVec 11) : Statement (.bgen a b u v o) :=
  ⟨.bv (.num (by decide) (.bool (.bool (.bv (.bv .nil))))), rfl, rfl, rfl, by decide, by decide, show decBranch [o.toNat, 5, v.toNat, u.toNat, b.toNat, a.toNat] = _ by simp [decBranch]⟩
theorem jal (d : BitVec 5) (imm : BitVec 21) : Statement (.jal d imm) :=
  ⟨.bv (.bv .nil), rfl, rfl, rfl, by decide, by decide, show decJal [imm.toNat, d.toNat] = _ by simp [decJal]⟩
theorem jalr (d : BitVec 5) (a : BitVec 5) (u : Bool) (imm : BitVec 15) : Statement (.jalr d a u imm) :=
  ⟨.bv (.bool (.bv (.bv .nil))), rfl, rfl, rfl, by decide, by decide, show decJalr [imm.toNat, u.toNat, a.toNat, d.toNat] = _ by simp [decJalr]⟩
theorem delay (a : BitVec 5) (u : Bool) : Statement (.delay a u) :=
  ⟨.num (by decide) (.num (by decide) (.bool (.num (by decide) (.bv (.num (by decide) .nil))))), rfl, rfl, rfl, by decide, by decide, show decFlow [2, 0, u.toNat, 0, a.toNat, 0] = _ by simp [decFlow]⟩
theorem fence (o : BitVec 2) (sz : BitVec 3) : Statement (.fence o sz) :=
  ⟨.bv (.bv (.num (by decide) (.num (by decide) (.num (by decide) (.num (by decide) (.num (by decide) (.num (by decide) .nil))))))), rfl, rfl, rfl, by decide, by decide, show decSync [sz.toNat, o.toNat, 0, 0, 0, 0, 0, 0] = _ by simp [decSync]⟩
theorem waita (d : BitVec 5) (c : BitVec 5) (b : BitVec 5) (u : Bool) (v : Bool) : Statement (.waita d c b u v) :=
  ⟨.num (by decide) (.num (by decide) (.num (by decide) (.bool (.bool (.bv (.bv (.bv .nil))))))), rfl, rfl, rfl, by decide, by decide, show decSync [0, 0, 1, v.toNat, u.toNat, b.toNat, c.toNat, d.toNat] = _ by simp [decSync]⟩
theorem bmin (d : BitVec 5) (a : BitVec 5) (u : Bool) : Statement (.bmin d a u) :=
  ⟨.num (by decide) (.num (by decide) (.num (by decide) (.num (by decide) (.bool (.num (by decide) (.bv (.bv .nil))))))), rfl, rfl, rfl, by decide, by decide, show decSync [0, 0, 4, 0, u.toNat, 0, a.toNat, d.toNat] = _ by simp [decSync]⟩
theorem pbindRecv (d : BitVec 5) (k : BitVec 3) : Statement (.pbindRecv d k) :=
  ⟨.bv (.num (by decide) (.num (by decide) (.num (by decide) (.num (by decide) (.num (by decide) (.num (by decide) (.bv .nil))))))), rfl, rfl, rfl, by decide, by decide, show decMessage [k.toNat, 0, 0, 0, 0, 0, 0, d.toNat] = _ by simp [decMessage]⟩
theorem pbindStream (d : BitVec 5) (a : BitVec 5) (u : Bool) : Statement (.pbindStream d a u) :=
  ⟨.num (by decide) (.num (by decide) (.num (by decide) (.num (by decide) (.bool (.num (by decide) (.bv (.bv .nil))))))), rfl, rfl, rfl, by decide, by decide, show decMessage [0, 1, 0, 0, u.toNat, 0, a.toNat, d.toNat] = _ by simp [decMessage]⟩
theorem pbindSend (d : BitVec 5) (k : BitVec 3) : Statement (.pbindSend d k) :=
  ⟨.bv (.num (by decide) (.num (by decide) (.num (by decide) (.num (by decide) (.num (by decide) (.num (by decide) (.bv .nil))))))), rfl, rfl, rfl, by decide, by decide, show decMessage [k.toNat, 2, 0, 0, 0, 0, 0, d.toNat] = _ by simp [decMessage]⟩
theorem punbind (d : BitVec 5) : Statement (.punbind d) :=
  ⟨.num (by decide) (.num (by decide) (.num (by decide) (.num (by decide) (.num (by decide) (.num (by decide) (.num (by decide) (.bv .nil))))))), rfl, rfl, rfl, by decide, by decide, show decMessage [0, 0, 1, 0, 0, 0, 0, d.toNat] = _ by simp [decMessage]⟩
theorem msend (a : BitVec 5) (b : BitVec 5) (u : Bool) (v : Bool) (k : BitVec 3) : Statement (.msend a b u v k) :=
  ⟨.bv (.num (by decide) (.num (by decide) (.bool (.bool (.bv (.bv (.num (by decide) .nil))))))), rfl, rfl, rfl, by decide, by decide, show decMessage [k.toNat, 0, 2, v.toNat, u.toNat, b.toNat, a.toNat, 0] = _ by simp [decMessage]⟩
theorem mcount (d : BitVec 5) (k : BitVec 3) : Statement (.mcount d k) :=
  ⟨.bv (.num (by decide) (.num (by decide) (.num (by decide) (.num (by decide) (.num (by decide) (.num (by decide) (.bv .nil))))))), rfl, rfl, rfl, by decide, by decide, show decMessage [k.toNat, 0, 3, 0, 0, 0, 0, d.toNat] = _ by simp [decMessage]⟩
theorem mstat (d : BitVec 5) (k : BitVec 3) : Statement (.mstat d k) :=
  ⟨.bv (.num (by decide) (.num (by decide) (.num (by decide) (.num (by decide) (.num (by decide) (.num (by decide) (.bv .nil))))))), rfl, rfl, rfl, by decide, by decide, show decMessage [k.toNat, 0, 4, 0, 0, 0, 0, d.toNat] = _ by simp [decMessage]⟩
theorem mbind (a : BitVec 5) (u : Bool) (k : BitVec 3) : Statement (.mbind a u k) :=
  ⟨.bv (.num (by decide) (.num (by decide) (.num (by decide) (.bool (.num (by decide) (.bv (.num (by decide) .nil))))))), rfl, rfl, rfl, by decide, by decide, show decMessage [k.toNat, 0, 5, 0, u.toNat, 0, a.toNat, 0] = _ by simp [decMessage]⟩
theorem tour (d : BitVec 5) (a : BitVec 5) (c : BitVec 5) (u : Bool) (v : Bool) : Statement (.tour d a c u v) :=
  ⟨.num (by decide) (.bool (.bool (.bv (.bv (.bv .nil))))), rfl, rfl, rfl, by decide, by decide, show decTour [0, v.toNat, u.toNat, c.toNat, a.toNat, d.toNat] = _ by simp [decTour]⟩
theorem cast (a : BitVec 5) (u : Bool) : Statement (.cast a u) :=
  ⟨.num (by decide) (.num (by decide) (.bool (.num (by decide) (.bv (.num (by decide) .nil))))), rfl, rfl, rfl, by decide, by decide, show decTour [1, 0, u.toNat, 0, a.toNat, 0] = _ by simp [decTour]⟩
theorem tstat (d : BitVec 5) (a : BitVec 5) (u : Bool) : Statement (.tstat d a u) :=
  ⟨.num (by decide) (.num (by decide) (.bool (.num (by decide) (.bv (.bv .nil))))), rfl, rfl, rfl, by decide, by decide, show decTour [2, 0, u.toNat, 0, a.toNat, d.toNat] = _ by simp [decTour]⟩
theorem tslot (d : BitVec 5) (a : BitVec 5) (u : Bool) : Statement (.tslot d a u) :=
  ⟨.num (by decide) (.num (by decide) (.bool (.num (by decide) (.bv (.bv .nil))))), rfl, rfl, rfl, by decide, by decide, show decTour [3, 0, u.toNat, 0, a.toNat, d.toNat] = _ by simp [decTour]⟩
theorem cmov (d : BitVec 5) (c : BitVec 5) (u : Bool) : Statement (.cmov d c u) :=
  ⟨.num (by decide) (.num (by decide) (.bool (.num (by decide) (.bv (.bv .nil))))), rfl, rfl, rfl, by decide, by decide, show decCapability [0, 0, u.toNat, 0, c.toNat, d.toNat] = _ by simp [decCapability]⟩
theorem cbnd (d : BitVec 5) (c : BitVec 5) (b : BitVec 5) (u : Bool) (v : Bool) : Statement (.cbnd d c b u v) :=
  ⟨.num (by decide) (.bool (.bool (.bv (.bv (.bv .nil))))), rfl, rfl, rfl, by decide, by decide, show decCapability [1, v.toNat, u.toNat, b.toNat, c.toNat, d.toNat] = _ by simp [decCapability]⟩
theorem cadd (d : BitVec 5) (c : BitVec 5) (b : BitVec 5) (u : Bool) (v : Bool) : Statement (.cadd d c b u v) :=
  ⟨.num (by decide) (.bool (.bool (.bv (.bv (.bv .nil))))), rfl, rfl, rfl, by decide, by decide, show decCapability [2, v.toNat, u.toNat, b.toNat, c.toNat, d.toNat] = _ by simp [decCapability]⟩
theorem cset (d : BitVec 5) (c : BitVec 5) (b : BitVec 5) (u : Bool) (v : Bool) : Statement (.cset d c b u v) :=
  ⟨.num (by decide) (.bool (.bool (.bv (.bv (.bv .nil))))), rfl, rfl, rfl, by decide, by decide, show decCapability [3, v.toNat, u.toNat, b.toNat, c.toNat, d.toNat] = _ by simp [decCapability]⟩
theorem cperm (d : BitVec 5) (c : BitVec 5) (b : BitVec 5) (u : Bool) (v : Bool) : Statement (.cperm d c b u v) :=
  ⟨.num (by decide) (.bool (.bool (.bv (.bv (.bv .nil))))), rfl, rfl, rfl, by decide, by decide, show decCapability [4, v.toNat, u.toNat, b.toNat, c.toNat, d.toNat] = _ by simp [decCapability]⟩
theorem cbase (d : BitVec 5) (c : BitVec 5) (u : Bool) : Statement (.cbase d c u) :=
  ⟨.num (by decide) (.num (by decide) (.bool (.num (by decide) (.bv (.bv .nil))))), rfl, rfl, rfl, by decide, by decide, show decCapability [5, 0, u.toNat, 0, c.toNat, d.toNat] = _ by simp [decCapability]⟩
theorem clen (d : BitVec 5) (c : BitVec 5) (u : Bool) : Statement (.clen d c u) :=
  ⟨.num (by decide) (.num (by decide) (.bool (.num (by decide) (.bv (.bv .nil))))), rfl, rfl, rfl, by decide, by decide, show decCapability [6, 0, u.toNat, 0, c.toNat, d.toNat] = _ by simp [decCapability]⟩
theorem ccur (d : BitVec 5) (c : BitVec 5) (u : Bool) : Statement (.ccur d c u) :=
  ⟨.num (by decide) (.num (by decide) (.bool (.num (by decide) (.bv (.bv .nil))))), rfl, rfl, rfl, by decide, by decide, show decCapability [7, 0, u.toNat, 0, c.toNat, d.toNat] = _ by simp [decCapability]⟩
theorem cprm (d : BitVec 5) (c : BitVec 5) (u : Bool) : Statement (.cprm d c u) :=
  ⟨.num (by decide) (.num (by decide) (.bool (.num (by decide) (.bv (.bv .nil))))), rfl, rfl, rfl, by decide, by decide, show decCapability [8, 0, u.toNat, 0, c.toNat, d.toNat] = _ by simp [decCapability]⟩
theorem ctag (d : BitVec 5) (c : BitVec 5) (u : Bool) : Statement (.ctag d c u) :=
  ⟨.num (by decide) (.num (by decide) (.bool (.num (by decide) (.bv (.bv .nil))))), rfl, rfl, rfl, by decide, by decide, show decCapability [9, 0, u.toNat, 0, c.toNat, d.toNat] = _ by simp [decCapability]⟩
theorem cclr (d : BitVec 5) (c : BitVec 5) (u : Bool) : Statement (.cclr d c u) :=
  ⟨.num (by decide) (.num (by decide) (.bool (.num (by decide) (.bv (.bv .nil))))), rfl, rfl, rfl, by decide, by decide, show decCapability [10, 0, u.toNat, 0, c.toNat, d.toNat] = _ by simp [decCapability]⟩
theorem rds (d : BitVec 5) (n : BitVec 12) : Statement (.rds d n) :=
  ⟨.bv (.num (by decide) (.num (by decide) (.num (by decide) (.bv .nil)))), rfl, rfl, rfl, by decide, by decide, show decSystem [n.toNat, 0, 0, 0, d.toNat] = _ by simp [decSystem]⟩
theorem wrs (a : BitVec 5) (u : Bool) (n : BitVec 12) : Statement (.wrs a u n) :=
  ⟨.bv (.num (by decide) (.bool (.bv (.num (by decide) .nil)))), rfl, rfl, rfl, by decide, by decide, show decSystem [n.toNat, 1, u.toNat, a.toNat, 0] = _ by simp [decSystem]⟩
theorem trap (c : BitVec 12) : Statement (.trap c) :=
  ⟨.bv (.num (by decide) (.num (by decide) (.num (by decide) (.num (by decide) .nil)))), rfl, rfl, rfl, by decide, by decide, show decSystem [c.toNat, 2, 0, 0, 0] = _ by simp [decSystem]⟩
theorem time (d : BitVec 5) : Statement (.time d) :=
  ⟨.num (by decide) (.num (by decide) (.num (by decide) (.num (by decide) (.bv .nil)))), rfl, rfl, rfl, by decide, by decide, show decSystem [0, 4, 0, 0, d.toNat] = _ by simp [decSystem]⟩
theorem tlbw (d : BitVec 5) (a : BitVec 5) (u : Bool) : Statement (.tlbw d a u) :=
  ⟨.num (by decide) (.num (by decide) (.bool (.bv (.bv .nil)))), rfl, rfl, rfl, by decide, by decide, show decSystem [0, 5, u.toNat, a.toNat, d.toNat] = _ by simp [decSystem]⟩
theorem tlbinv (a : BitVec 5) (u : Bool) : Statement (.tlbinv a u) :=
  ⟨.num (by decide) (.num (by decide) (.bool (.bv (.num (by decide) .nil)))), rfl, rfl, rfl, by decide, by decide, show decSystem [0, 6, u.toNat, a.toNat, 0] = _ by simp [decSystem]⟩
theorem fadd (d : BitVec 5) (a : BitVec 5) (b : BitVec 5) (u : Bool) (v : Bool) (t : BitVec 2) : Statement (.fadd d a b u v t) :=
  ⟨.bv (.num (by decide) (.bool (.bool (.bv (.bv (.bv .nil)))))), rfl, rfl, rfl, by decide, by decide, show decFloat [t.toNat, 0, v.toNat, u.toNat, b.toNat, a.toNat, d.toNat] = _ by simp [decFloat]⟩
theorem fsub (d : BitVec 5) (a : BitVec 5) (b : BitVec 5) (u : Bool) (v : Bool) (t : BitVec 2) : Statement (.fsub d a b u v t) :=
  ⟨.bv (.num (by decide) (.bool (.bool (.bv (.bv (.bv .nil)))))), rfl, rfl, rfl, by decide, by decide, show decFloat [t.toNat, 1, v.toNat, u.toNat, b.toNat, a.toNat, d.toNat] = _ by simp [decFloat]⟩
theorem fmul (d : BitVec 5) (a : BitVec 5) (b : BitVec 5) (u : Bool) (v : Bool) (t : BitVec 2) : Statement (.fmul d a b u v t) :=
  ⟨.bv (.num (by decide) (.bool (.bool (.bv (.bv (.bv .nil)))))), rfl, rfl, rfl, by decide, by decide, show decFloat [t.toNat, 2, v.toNat, u.toNat, b.toNat, a.toNat, d.toNat] = _ by simp [decFloat]⟩
theorem fdiv (d : BitVec 5) (a : BitVec 5) (b : BitVec 5) (u : Bool) (v : Bool) (t : BitVec 2) : Statement (.fdiv d a b u v t) :=
  ⟨.bv (.num (by decide) (.bool (.bool (.bv (.bv (.bv .nil)))))), rfl, rfl, rfl, by decide, by decide, show decFloat [t.toNat, 3, v.toNat, u.toNat, b.toNat, a.toNat, d.toNat] = _ by simp [decFloat]⟩
theorem fsqrt (d : BitVec 5) (a : BitVec 5) (u : Bool) (t : BitVec 2) : Statement (.fsqrt d a u t) :=
  ⟨.bv (.num (by decide) (.num (by decide) (.bool (.num (by decide) (.bv (.bv .nil)))))), rfl, rfl, rfl, by decide, by decide, show decFloat [t.toNat, 4, 0, u.toNat, 0, a.toNat, d.toNat] = _ by simp [decFloat]⟩
theorem fmin (d : BitVec 5) (a : BitVec 5) (b : BitVec 5) (u : Bool) (v : Bool) (t : BitVec 2) : Statement (.fmin d a b u v t) :=
  ⟨.bv (.num (by decide) (.bool (.bool (.bv (.bv (.bv .nil)))))), rfl, rfl, rfl, by decide, by decide, show decFloat [t.toNat, 5, v.toNat, u.toNat, b.toNat, a.toNat, d.toNat] = _ by simp [decFloat]⟩
theorem fmax (d : BitVec 5) (a : BitVec 5) (b : BitVec 5) (u : Bool) (v : Bool) (t : BitVec 2) : Statement (.fmax d a b u v t) :=
  ⟨.bv (.num (by decide) (.bool (.bool (.bv (.bv (.bv .nil)))))), rfl, rfl, rfl, by decide, by decide, show decFloat [t.toNat, 6, v.toNat, u.toNat, b.toNat, a.toNat, d.toNat] = _ by simp [decFloat]⟩
theorem fminn (d : BitVec 5) (a : BitVec 5) (b : BitVec 5) (u : Bool) (v : Bool) (t : BitVec 2) : Statement (.fminn d a b u v t) :=
  ⟨.bv (.num (by decide) (.bool (.bool (.bv (.bv (.bv .nil)))))), rfl, rfl, rfl, by decide, by decide, show decFloat [t.toNat, 7, v.toNat, u.toNat, b.toNat, a.toNat, d.toNat] = _ by simp [decFloat]⟩
theorem fmaxn (d : BitVec 5) (a : BitVec 5) (b : BitVec 5) (u : Bool) (v : Bool) (t : BitVec 2) : Statement (.fmaxn d a b u v t) :=
  ⟨.bv (.num (by decide) (.bool (.bool (.bv (.bv (.bv .nil)))))), rfl, rfl, rfl, by decide, by decide, show decFloat [t.toNat, 8, v.toNat, u.toNat, b.toNat, a.toNat, d.toNat] = _ by simp [decFloat]⟩
theorem fabs (d : BitVec 5) (a : BitVec 5) (u : Bool) (t : BitVec 2) : Statement (.fabs d a u t) :=
  ⟨.bv (.num (by decide) (.num (by decide) (.bool (.num (by decide) (.bv (.bv .nil)))))), rfl, rfl, rfl, by decide, by decide, show decFloat [t.toNat, 9, 0, u.toNat, 0, a.toNat, d.toNat] = _ by simp [decFloat]⟩
theorem fneg (d : BitVec 5) (a : BitVec 5) (u : Bool) (t : BitVec 2) : Statement (.fneg d a u t) :=
  ⟨.bv (.num (by decide) (.num (by decide) (.bool (.num (by decide) (.bv (.bv .nil)))))), rfl, rfl, rfl, by decide, by decide, show decFloat [t.toNat, 10, 0, u.toNat, 0, a.toNat, d.toNat] = _ by simp [decFloat]⟩
theorem feq (d : BitVec 5) (a : BitVec 5) (b : BitVec 5) (u : Bool) (v : Bool) (t : BitVec 2) : Statement (.feq d a b u v t) :=
  ⟨.bv (.num (by decide) (.bool (.bool (.bv (.bv (.bv .nil)))))), rfl, rfl, rfl, by decide, by decide, show decFloat [t.toNat, 11, v.toNat, u.toNat, b.toNat, a.toNat, d.toNat] = _ by simp [decFloat]⟩
theorem flt (d : BitVec 5) (a : BitVec 5) (b : BitVec 5) (u : Bool) (v : Bool) (t : BitVec 2) : Statement (.flt d a b u v t) :=
  ⟨.bv (.num (by decide) (.bool (.bool (.bv (.bv (.bv .nil)))))), rfl, rfl, rfl, by decide, by decide, show decFloat [t.toNat, 12, v.toNat, u.toNat, b.toNat, a.toNat, d.toNat] = _ by simp [decFloat]⟩
theorem fle (d : BitVec 5) (a : BitVec 5) (b : BitVec 5) (u : Bool) (v : Bool) (t : BitVec 2) : Statement (.fle d a b u v t) :=
  ⟨.bv (.num (by decide) (.bool (.bool (.bv (.bv (.bv .nil)))))), rfl, rfl, rfl, by decide, by decide, show decFloat [t.toNat, 13, v.toNat, u.toNat, b.toNat, a.toNat, d.toNat] = _ by simp [decFloat]⟩
theorem fclass (d : BitVec 5) (a : BitVec 5) (u : Bool) (t : BitVec 2) : Statement (.fclass d a u t) :=
  ⟨.bv (.num (by decide) (.num (by decide) (.bool (.num (by decide) (.bv (.bv .nil)))))), rfl, rfl, rfl, by decide, by decide, show decFloat [t.toNat, 14, 0, u.toNat, 0, a.toNat, d.toNat] = _ by simp [decFloat]⟩
theorem fmvx (d : BitVec 5) (a : BitVec 5) (u : Bool) : Statement (.fmvx d a u) :=
  ⟨.num (by decide) (.num (by decide) (.num (by decide) (.bool (.num (by decide) (.bv (.bv .nil)))))), rfl, rfl, rfl, by decide, by decide, show decFloat [0, 15, 0, u.toNat, 0, a.toNat, d.toNat] = _ by simp [decFloat]⟩
theorem fmvf (d : BitVec 5) (a : BitVec 5) (u : Bool) : Statement (.fmvf d a u) :=
  ⟨.num (by decide) (.num (by decide) (.num (by decide) (.bool (.num (by decide) (.bv (.bv .nil)))))), rfl, rfl, rfl, by decide, by decide, show decFloat [0, 16, 0, u.toNat, 0, a.toNat, d.toNat] = _ by simp [decFloat]⟩
theorem fmadd (d : BitVec 5) (a : BitVec 5) (b : BitVec 5) (c : BitVec 5) (t : BitVec 2) : Statement (.fmadd d a b c t) :=
  ⟨.num (by decide) (.num (by decide) (.bv (.bv (.bv (.bv (.bv .nil)))))), rfl, rfl, rfl, by decide, by decide, show decFma [0, 0, t.toNat, c.toNat, b.toNat, a.toNat, d.toNat] = _ by simp [decFma]⟩
theorem fmsub (d : BitVec 5) (a : BitVec 5) (b : BitVec 5) (c : BitVec 5) (t : BitVec 2) : Statement (.fmsub d a b c t) :=
  ⟨.num (by decide) (.num (by decide) (.bv (.bv (.bv (.bv (.bv .nil)))))), rfl, rfl, rfl, by decide, by decide, show decFma [0, 1, t.toNat, c.toNat, b.toNat, a.toNat, d.toNat] = _ by simp [decFma]⟩
theorem fnmsub (d : BitVec 5) (a : BitVec 5) (b : BitVec 5) (c : BitVec 5) (t : BitVec 2) : Statement (.fnmsub d a b c t) :=
  ⟨.num (by decide) (.num (by decide) (.bv (.bv (.bv (.bv (.bv .nil)))))), rfl, rfl, rfl, by decide, by decide, show decFma [0, 2, t.toNat, c.toNat, b.toNat, a.toNat, d.toNat] = _ by simp [decFma]⟩
theorem fnmadd (d : BitVec 5) (a : BitVec 5) (b : BitVec 5) (c : BitVec 5) (t : BitVec 2) : Statement (.fnmadd d a b c t) :=
  ⟨.num (by decide) (.num (by decide) (.bv (.bv (.bv (.bv (.bv .nil)))))), rfl, rfl, rfl, by decide, by decide, show decFma [0, 3, t.toNat, c.toNat, b.toNat, a.toNat, d.toNat] = _ by simp [decFma]⟩
theorem vadd (d : BitVec 5) (a : BitVec 5) (b : BitVec 5) (m : BitVec 3) (sz : Bool) : Statement (.vadd d a b m sz) :=
  ⟨.num (by decide) (.bool (.bv (.bv (.bv (.bv .nil))))), rfl, rfl, rfl, by decide, by decide, show decVectorInt [0, sz.toNat, m.toNat, b.toNat, a.toNat, d.toNat] = _ by simp [decVectorInt]⟩
theorem vsub (d : BitVec 5) (a : BitVec 5) (b : BitVec 5) (m : BitVec 3) (sz : Bool) : Statement (.vsub d a b m sz) :=
  ⟨.num (by decide) (.bool (.bv (.bv (.bv (.bv .nil))))), rfl, rfl, rfl, by decide, by decide, show decVectorInt [1, sz.toNat, m.toNat, b.toNat, a.toNat, d.toNat] = _ by simp [decVectorInt]⟩
theorem vmul (d : BitVec 5) (a : BitVec 5) (b : BitVec 5) (m : BitVec 3) (sz : Bool) : Statement (.vmul d a b m sz) :=
  ⟨.num (by decide) (.bool (.bv (.bv (.bv (.bv .nil))))), rfl, rfl, rfl, by decide, by decide, show decVectorInt [2, sz.toNat, m.toNat, b.toNat, a.toNat, d.toNat] = _ by simp [decVectorInt]⟩
theorem vmulh (d : BitVec 5) (a : BitVec 5) (b : BitVec 5) (m : BitVec 3) (sz : Bool) : Statement (.vmulh d a b m sz) :=
  ⟨.num (by decide) (.bool (.bv (.bv (.bv (.bv .nil))))), rfl, rfl, rfl, by decide, by decide, show decVectorInt [3, sz.toNat, m.toNat, b.toNat, a.toNat, d.toNat] = _ by simp [decVectorInt]⟩
theorem vmulhn (d : BitVec 5) (a : BitVec 5) (b : BitVec 5) (m : BitVec 3) (sz : Bool) : Statement (.vmulhn d a b m sz) :=
  ⟨.num (by decide) (.bool (.bv (.bv (.bv (.bv .nil))))), rfl, rfl, rfl, by decide, by decide, show decVectorInt [4, sz.toNat, m.toNat, b.toNat, a.toNat, d.toNat] = _ by simp [decVectorInt]⟩
theorem vand (d : BitVec 5) (a : BitVec 5) (b : BitVec 5) (m : BitVec 3) (sz : Bool) : Statement (.vand d a b m sz) :=
  ⟨.num (by decide) (.bool (.bv (.bv (.bv (.bv .nil))))), rfl, rfl, rfl, by decide, by decide, show decVectorInt [5, sz.toNat, m.toNat, b.toNat, a.toNat, d.toNat] = _ by simp [decVectorInt]⟩
theorem vor (d : BitVec 5) (a : BitVec 5) (b : BitVec 5) (m : BitVec 3) (sz : Bool) : Statement (.vor d a b m sz) :=
  ⟨.num (by decide) (.bool (.bv (.bv (.bv (.bv .nil))))), rfl, rfl, rfl, by decide, by decide, show decVectorInt [6, sz.toNat, m.toNat, b.toNat, a.toNat, d.toNat] = _ by simp [decVectorInt]⟩
theorem vxor (d : BitVec 5) (a : BitVec 5) (b : BitVec 5) (m : BitVec 3) (sz : Bool) : Statement (.vxor d a b m sz) :=
  ⟨.num (by decide) (.bool (.bv (.bv (.bv (.bv .nil))))), rfl, rfl, rfl, by decide, by decide, show decVectorInt [7, sz.toNat, m.toNat, b.toNat, a.toNat, d.toNat] = _ by simp [decVectorInt]⟩
theorem vandn (d : BitVec 5) (a : BitVec 5) (b : BitVec 5) (m : BitVec 3) (sz : Bool) : Statement (.vandn d a b m sz) :=
  ⟨.num (by decide) (.bool (.bv (.bv (.bv (.bv .nil))))), rfl, rfl, rfl, by decide, by decide, show decVectorInt [8, sz.toNat, m.toNat, b.toNat, a.toNat, d.toNat] = _ by simp [decVectorInt]⟩
theorem vshl (d : BitVec 5) (a : BitVec 5) (b : BitVec 5) (m : BitVec 3) (sz : Bool) : Statement (.vshl d a b m sz) :=
  ⟨.num (by decide) (.bool (.bv (.bv (.bv (.bv .nil))))), rfl, rfl, rfl, by decide, by decide, show decVectorInt [9, sz.toNat, m.toNat, b.toNat, a.toNat, d.toNat] = _ by simp [decVectorInt]⟩
theorem vshr (d : BitVec 5) (a : BitVec 5) (b : BitVec 5) (m : BitVec 3) (sz : Bool) : Statement (.vshr d a b m sz) :=
  ⟨.num (by decide) (.bool (.bv (.bv (.bv (.bv .nil))))), rfl, rfl, rfl, by decide, by decide, show decVectorInt [10, sz.toNat, m.toNat, b.toNat, a.toNat, d.toNat] = _ by simp [decVectorInt]⟩
theorem vsra (d : BitVec 5) (a : BitVec 5) (b : BitVec 5) (m : BitVec 3) (sz : Bool) : Statement (.vsra d a b m sz) :=
  ⟨.num (by decide) (.bool (.bv (.bv (.bv (.bv .nil))))), rfl, rfl, rfl, by decide, by decide, show decVectorInt [11, sz.toNat, m.toNat, b.toNat, a.toNat, d.toNat] = _ by simp [decVectorInt]⟩
theorem vmin (d : BitVec 5) (a : BitVec 5) (b : BitVec 5) (m : BitVec 3) (sz : Bool) : Statement (.vmin d a b m sz) :=
  ⟨.num (by decide) (.bool (.bv (.bv (.bv (.bv .nil))))), rfl, rfl, rfl, by decide, by decide, show decVectorInt [12, sz.toNat, m.toNat, b.toNat, a.toNat, d.toNat] = _ by simp [decVectorInt]⟩
theorem vmax (d : BitVec 5) (a : BitVec 5) (b : BitVec 5) (m : BitVec 3) (sz : Bool) : Statement (.vmax d a b m sz) :=
  ⟨.num (by decide) (.bool (.bv (.bv (.bv (.bv .nil))))), rfl, rfl, rfl, by decide, by decide, show decVectorInt [13, sz.toNat, m.toNat, b.toNat, a.toNat, d.toNat] = _ by simp [decVectorInt]⟩
theorem vminn (d : BitVec 5) (a : BitVec 5) (b : BitVec 5) (m : BitVec 3) (sz : Bool) : Statement (.vminn d a b m sz) :=
  ⟨.num (by decide) (.bool (.bv (.bv (.bv (.bv .nil))))), rfl, rfl, rfl, by decide, by decide, show decVectorInt [14, sz.toNat, m.toNat, b.toNat, a.toNat, d.toNat] = _ by simp [decVectorInt]⟩
theorem vmaxn (d : BitVec 5) (a : BitVec 5) (b : BitVec 5) (m : BitVec 3) (sz : Bool) : Statement (.vmaxn d a b m sz) :=
  ⟨.num (by decide) (.bool (.bv (.bv (.bv (.bv .nil))))), rfl, rfl, rfl, by decide, by decide, show decVectorInt [15, sz.toNat, m.toNat, b.toNat, a.toNat, d.toNat] = _ by simp [decVectorInt]⟩
theorem vadds (d : BitVec 5) (a : BitVec 5) (b : BitVec 5) (m : BitVec 3) (sz : Bool) : Statement (.vadds d a b m sz) :=
  ⟨.num (by decide) (.bool (.bv (.bv (.bv (.bv .nil))))), rfl, rfl, rfl, by decide, by decide, show decVectorInt [16, sz.toNat, m.toNat, b.toNat, a.toNat, d.toNat] = _ by simp [decVectorInt]⟩
theorem vaddsn (d : BitVec 5) (a : BitVec 5) (b : BitVec 5) (m : BitVec 3) (sz : Bool) : Statement (.vaddsn d a b m sz) :=
  ⟨.num (by decide) (.bool (.bv (.bv (.bv (.bv .nil))))), rfl, rfl, rfl, by decide, by decide, show decVectorInt [17, sz.toNat, m.toNat, b.toNat, a.toNat, d.toNat] = _ by simp [decVectorInt]⟩
theorem vsubs (d : BitVec 5) (a : BitVec 5) (b : BitVec 5) (m : BitVec 3) (sz : Bool) : Statement (.vsubs d a b m sz) :=
  ⟨.num (by decide) (.bool (.bv (.bv (.bv (.bv .nil))))), rfl, rfl, rfl, by decide, by decide, show decVectorInt [18, sz.toNat, m.toNat, b.toNat, a.toNat, d.toNat] = _ by simp [decVectorInt]⟩
theorem vsubsn (d : BitVec 5) (a : BitVec 5) (b : BitVec 5) (m : BitVec 3) (sz : Bool) : Statement (.vsubsn d a b m sz) :=
  ⟨.num (by decide) (.bool (.bv (.bv (.bv (.bv .nil))))), rfl, rfl, rfl, by decide, by decide, show decVectorInt [19, sz.toNat, m.toNat, b.toNat, a.toNat, d.toNat] = _ by simp [decVectorInt]⟩
theorem vseq (d : BitVec 3) (a : BitVec 5) (b : BitVec 5) (m : BitVec 3) (sz : Bool) : Statement (.vseq d a b m sz) :=
  ⟨.num (by decide) (.bool (.bv (.bv (.bv (.num (Nat.lt_of_lt_of_le d.isLt (by decide)) .nil))))), rfl, rfl, rfl, by decide, by decide, show decVectorInt [20, sz.toNat, m.toNat, b.toNat, a.toNat, d.toNat] = _ by simp [decVectorInt]; exact d.isLt⟩
theorem vslt (d : BitVec 3) (a : BitVec 5) (b : BitVec 5) (m : BitVec 3) (sz : Bool) : Statement (.vslt d a b m sz) :=
  ⟨.num (by decide) (.bool (.bv (.bv (.bv (.num (Nat.lt_of_lt_of_le d.isLt (by decide)) .nil))))), rfl, rfl, rfl, by decide, by decide, show decVectorInt [21, sz.toNat, m.toNat, b.toNat, a.toNat, d.toNat] = _ by simp [decVectorInt]; exact d.isLt⟩
theorem vsltn (d : BitVec 3) (a : BitVec 5) (b : BitVec 5) (m : BitVec 3) (sz : Bool) : Statement (.vsltn d a b m sz) :=
  ⟨.num (by decide) (.bool (.bv (.bv (.bv (.num (Nat.lt_of_lt_of_le d.isLt (by decide)) .nil))))), rfl, rfl, rfl, by decide, by decide, show decVectorInt [22, sz.toNat, m.toNat, b.toNat, a.toNat, d.toNat] = _ by simp [decVectorInt]; exact d.isLt⟩
theorem vfadd (d : BitVec 5) (a : BitVec 5) (b : BitVec 5) (m : BitVec 3) (sz : Bool) (t : BitVec 2) : Statement (.vfadd d a b m sz t) :=
  ⟨.num (by decide) (.bv (.bool (.bv (.bv (.bv (.bv .nil)))))), rfl, rfl, rfl, by decide, by decide, show decVectorFloat [0, t.toNat, sz.toNat, m.toNat, b.toNat, a.toNat, d.toNat] = _ by simp [decVectorFloat]⟩
theorem vfsub (d : BitVec 5) (a : BitVec 5) (b : BitVec 5) (m : BitVec 3) (sz : Bool) (t : BitVec 2) : Statement (.vfsub d a b m sz t) :=
  ⟨.num (by decide) (.bv (.bool (.bv (.bv (.bv (.bv .nil)))))), rfl, rfl, rfl, by decide, by decide, show decVectorFloat [1, t.toNat, sz.toNat, m.toNat, b.toNat, a.toNat, d.toNat] = _ by simp [decVectorFloat]⟩
theorem vfmul (d : BitVec 5) (a : BitVec 5) (b : BitVec 5) (m : BitVec 3) (sz : Bool) (t : BitVec 2) : Statement (.vfmul d a b m sz t) :=
  ⟨.num (by decide) (.bv (.bool (.bv (.bv (.bv (.bv .nil)))))), rfl, rfl, rfl, by decide, by decide, show decVectorFloat [2, t.toNat, sz.toNat, m.toNat, b.toNat, a.toNat, d.toNat] = _ by simp [decVectorFloat]⟩
theorem vfdiv (d : BitVec 5) (a : BitVec 5) (b : BitVec 5) (m : BitVec 3) (sz : Bool) (t : BitVec 2) : Statement (.vfdiv d a b m sz t) :=
  ⟨.num (by decide) (.bv (.bool (.bv (.bv (.bv (.bv .nil)))))), rfl, rfl, rfl, by decide, by decide, show decVectorFloat [3, t.toNat, sz.toNat, m.toNat, b.toNat, a.toNat, d.toNat] = _ by simp [decVectorFloat]⟩
theorem vfsqrt (d : BitVec 5) (a : BitVec 5) (m : BitVec 3) (t : BitVec 2) : Statement (.vfsqrt d a m t) :=
  ⟨.num (by decide) (.bv (.num (by decide) (.bv (.num (by decide) (.bv (.bv .nil)))))), rfl, rfl, rfl, by decide, by decide, show decVectorFloat [4, t.toNat, 0, m.toNat, 0, a.toNat, d.toNat] = _ by simp [decVectorFloat]⟩
theorem vfmin (d : BitVec 5) (a : BitVec 5) (b : BitVec 5) (m : BitVec 3) (sz : Bool) (t : BitVec 2) : Statement (.vfmin d a b m sz t) :=
  ⟨.num (by decide) (.bv (.bool (.bv (.bv (.bv (.bv .nil)))))), rfl, rfl, rfl, by decide, by decide, show decVectorFloat [5, t.toNat, sz.toNat, m.toNat, b.toNat, a.toNat, d.toNat] = _ by simp [decVectorFloat]⟩
theorem vfmax (d : BitVec 5) (a : BitVec 5) (b : BitVec 5) (m : BitVec 3) (sz : Bool) (t : BitVec 2) : Statement (.vfmax d a b m sz t) :=
  ⟨.num (by decide) (.bv (.bool (.bv (.bv (.bv (.bv .nil)))))), rfl, rfl, rfl, by decide, by decide, show decVectorFloat [6, t.toNat, sz.toNat, m.toNat, b.toNat, a.toNat, d.toNat] = _ by simp [decVectorFloat]⟩
theorem vfminn (d : BitVec 5) (a : BitVec 5) (b : BitVec 5) (m : BitVec 3) (sz : Bool) (t : BitVec 2) : Statement (.vfminn d a b m sz t) :=
  ⟨.num (by decide) (.bv (.bool (.bv (.bv (.bv (.bv .nil)))))), rfl, rfl, rfl, by decide, by decide, show decVectorFloat [7, t.toNat, sz.toNat, m.toNat, b.toNat, a.toNat, d.toNat] = _ by simp [decVectorFloat]⟩
theorem vfmaxn (d : BitVec 5) (a : BitVec 5) (b : BitVec 5) (m : BitVec 3) (sz : Bool) (t : BitVec 2) : Statement (.vfmaxn d a b m sz t) :=
  ⟨.num (by decide) (.bv (.bool (.bv (.bv (.bv (.bv .nil)))))), rfl, rfl, rfl, by decide, by decide, show decVectorFloat [8, t.toNat, sz.toNat, m.toNat, b.toNat, a.toNat, d.toNat] = _ by simp [decVectorFloat]⟩
theorem vfma (d : BitVec 5) (a : BitVec 5) (b : BitVec 5) (m : BitVec 3) (sz : Bool) (t : BitVec 2) : Statement (.vfma d a b m sz t) :=
  ⟨.num (by decide) (.bv (.bool (.bv (.bv (.bv (.bv .nil)))))), rfl, rfl, rfl, by decide, by decide, show decVectorFloat [9, t.toNat, sz.toNat, m.toNat, b.toNat, a.toNat, d.toNat] = _ by simp [decVectorFloat]⟩
theorem vfms (d : BitVec 5) (a : BitVec 5) (b : BitVec 5) (m : BitVec 3) (sz : Bool) (t : BitVec 2) : Statement (.vfms d a b m sz t) :=
  ⟨.num (by decide) (.bv (.bool (.bv (.bv (.bv (.bv .nil)))))), rfl, rfl, rfl, by decide, by decide, show decVectorFloat [10, t.toNat, sz.toNat, m.toNat, b.toNat, a.toNat, d.toNat] = _ by simp [decVectorFloat]⟩
theorem vfabs (d : BitVec 5) (a : BitVec 5) (m : BitVec 3) (t : BitVec 2) : Statement (.vfabs d a m t) :=
  ⟨.num (by decide) (.bv (.num (by decide) (.bv (.num (by decide) (.bv (.bv .nil)))))), rfl, rfl, rfl, by decide, by decide, show decVectorFloat [11, t.toNat, 0, m.toNat, 0, a.toNat, d.toNat] = _ by simp [decVectorFloat]⟩
theorem vfneg (d : BitVec 5) (a : BitVec 5) (m : BitVec 3) (t : BitVec 2) : Statement (.vfneg d a m t) :=
  ⟨.num (by decide) (.bv (.num (by decide) (.bv (.num (by decide) (.bv (.bv .nil)))))), rfl, rfl, rfl, by decide, by decide, show decVectorFloat [12, t.toNat, 0, m.toNat, 0, a.toNat, d.toNat] = _ by simp [decVectorFloat]⟩
theorem vfeq (d : BitVec 3) (a : BitVec 5) (b : BitVec 5) (m : BitVec 3) (sz : Bool) (t : BitVec 2) : Statement (.vfeq d a b m sz t) :=
  ⟨.num (by decide) (.bv (.bool (.bv (.bv (.bv (.num (Nat.lt_of_lt_of_le d.isLt (by decide)) .nil)))))), rfl, rfl, rfl, by decide, by decide, show decVectorFloat [13, t.toNat, sz.toNat, m.toNat, b.toNat, a.toNat, d.toNat] = _ by simp [decVectorFloat]; exact d.isLt⟩
theorem vflt (d : BitVec 3) (a : BitVec 5) (b : BitVec 5) (m : BitVec 3) (sz : Bool) (t : BitVec 2) : Statement (.vflt d a b m sz t) :=
  ⟨.num (by decide) (.bv (.bool (.bv (.bv (.bv (.num (Nat.lt_of_lt_of_le d.isLt (by decide)) .nil)))))), rfl, rfl, rfl, by decide, by decide, show decVectorFloat [14, t.toNat, sz.toNat, m.toNat, b.toNat, a.toNat, d.toNat] = _ by simp [decVectorFloat]; exact d.isLt⟩
theorem vfle (d : BitVec 3) (a : BitVec 5) (b : BitVec 5) (m : BitVec 3) (sz : Bool) (t : BitVec 2) : Statement (.vfle d a b m sz t) :=
  ⟨.num (by decide) (.bv (.bool (.bv (.bv (.bv (.num (Nat.lt_of_lt_of_le d.isLt (by decide)) .nil)))))), rfl, rfl, rfl, by decide, by decide, show decVectorFloat [15, t.toNat, sz.toNat, m.toNat, b.toNat, a.toNat, d.toNat] = _ by simp [decVectorFloat]; exact d.isLt⟩
theorem vfrec (d : BitVec 5) (a : BitVec 5) (m : BitVec 3) (t : BitVec 2) : Statement (.vfrec d a m t) :=
  ⟨.num (by decide) (.bv (.num (by decide) (.bv (.num (by decide) (.bv (.bv .nil)))))), rfl, rfl, rfl, by decide, by decide, show decVectorFloat [16, t.toNat, 0, m.toNat, 0, a.toNat, d.toNat] = _ by simp [decVectorFloat]⟩
theorem vfrsq (d : BitVec 5) (a : BitVec 5) (m : BitVec 3) (t : BitVec 2) : Statement (.vfrsq d a m t) :=
  ⟨.num (by decide) (.bv (.num (by decide) (.bv (.num (by decide) (.bv (.bv .nil)))))), rfl, rfl, rfl, by decide, by decide, show decVectorFloat [17, t.toNat, 0, m.toNat, 0, a.toNat, d.toNat] = _ by simp [decVectorFloat]⟩
theorem vfexp2 (d : BitVec 5) (a : BitVec 5) (m : BitVec 3) (t : BitVec 2) : Statement (.vfexp2 d a m t) :=
  ⟨.num (by decide) (.bv (.num (by decide) (.bv (.num (by decide) (.bv (.bv .nil)))))), rfl, rfl, rfl, by decide, by decide, show decVectorFloat [18, t.toNat, 0, m.toNat, 0, a.toNat, d.toNat] = _ by simp [decVectorFloat]⟩
theorem vflog2 (d : BitVec 5) (a : BitVec 5) (m : BitVec 3) (t : BitVec 2) : Statement (.vflog2 d a m t) :=
  ⟨.num (by decide) (.bv (.num (by decide) (.bv (.num (by decide) (.bv (.bv .nil)))))), rfl, rfl, rfl, by decide, by decide, show decVectorFloat [19, t.toNat, 0, m.toNat, 0, a.toNat, d.toNat] = _ by simp [decVectorFloat]⟩
theorem vfredsum (d : BitVec 5) (a : BitVec 5) (m : BitVec 3) (t : BitVec 2) : Statement (.vfredsum d a m t) :=
  ⟨.num (by decide) (.bv (.num (by decide) (.bv (.num (by decide) (.bv (.bv .nil)))))), rfl, rfl, rfl, by decide, by decide, show decVectorFloat [20, t.toNat, 0, m.toNat, 0, a.toNat, d.toNat] = _ by simp [decVectorFloat]⟩
theorem vfredmin (d : BitVec 5) (a : BitVec 5) (m : BitVec 3) (t : BitVec 2) : Statement (.vfredmin d a m t) :=
  ⟨.num (by decide) (.bv (.num (by decide) (.bv (.num (by decide) (.bv (.bv .nil)))))), rfl, rfl, rfl, by decide, by decide, show decVectorFloat [21, t.toNat, 0, m.toNat, 0, a.toNat, d.toNat] = _ by simp [decVectorFloat]⟩
theorem vfredmax (d : BitVec 5) (a : BitVec 5) (m : BitVec 3) (t : BitVec 2) : Statement (.vfredmax d a m t) :=
  ⟨.num (by decide) (.bv (.num (by decide) (.bv (.num (by decide) (.bv (.bv .nil)))))), rfl, rfl, rfl, by decide, by decide, show decVectorFloat [22, t.toNat, 0, m.toNat, 0, a.toNat, d.toNat] = _ by simp [decVectorFloat]⟩
theorem vmv (d : BitVec 5) (a : BitVec 5) (m : BitVec 3) : Statement (.vmv d a m) :=
  ⟨.num (by decide) (.bv (.num (by decide) (.bv (.bv .nil)))), rfl, rfl, rfl, by decide, by decide, show decPermute [0, m.toNat, 0, a.toNat, d.toNat] = _ by simp [decPermute]⟩
theorem vbcast (d : BitVec 5) (a : BitVec 5) (m : BitVec 3) : Statement (.vbcast d a m) :=
  ⟨.num (by decide) (.bv (.num (by decide) (.bv (.bv .nil)))), rfl, rfl, rfl, by decide, by decide, show decPermute [1, m.toNat, 0, a.toNat, d.toNat] = _ by simp [decPermute]⟩
theorem vbcastf (d : BitVec 5) (a : BitVec 5) (m : BitVec 3) : Statement (.vbcastf d a m) :=
  ⟨.num (by decide) (.bv (.num (by decide) (.bv (.bv .nil)))), rfl, rfl, rfl, by decide, by decide, show decPermute [2, m.toNat, 0, a.toNat, d.toNat] = _ by simp [decPermute]⟩
theorem vslideup (d : BitVec 5) (a : BitVec 5) (b : BitVec 5) (m : BitVec 3) : Statement (.vslideup d a b m) :=
  ⟨.num (by decide) (.bv (.bv (.bv (.bv .nil)))), rfl, rfl, rfl, by decide, by decide, show decPermute [3, m.toNat, b.toNat, a.toNat, d.toNat] = _ by simp [decPermute]⟩
theorem vslidedn (d : BitVec 5) (a : BitVec 5) (b : BitVec 5) (m : BitVec 3) : Statement (.vslidedn d a b m) :=
  ⟨.num (by decide) (.bv (.bv (.bv (.bv .nil)))), rfl, rfl, rfl, by decide, by decide, show decPermute [4, m.toNat, b.toNat, a.toNat, d.toNat] = _ by simp [decPermute]⟩
theorem vgather (d : BitVec 5) (a : BitVec 5) (b : BitVec 5) (m : BitVec 3) : Statement (.vgather d a b m) :=
  ⟨.num (by decide) (.bv (.bv (.bv (.bv .nil)))), rfl, rfl, rfl, by decide, by decide, show decPermute [5, m.toNat, b.toNat, a.toNat, d.toNat] = _ by simp [decPermute]⟩
theorem vcompress (d : BitVec 5) (a : BitVec 5) (m : BitVec 3) : Statement (.vcompress d a m) :=
  ⟨.num (by decide) (.bv (.num (by decide) (.bv (.bv .nil)))), rfl, rfl, rfl, by decide, by decide, show decPermute [6, m.toNat, 0, a.toNat, d.toNat] = _ by simp [decPermute]⟩
theorem vexpand (d : BitVec 5) (a : BitVec 5) (m : BitVec 3) : Statement (.vexpand d a m) :=
  ⟨.num (by decide) (.bv (.num (by decide) (.bv (.bv .nil)))), rfl, rfl, rfl, by decide, by decide, show decPermute [7, m.toNat, 0, a.toNat, d.toNat] = _ by simp [decPermute]⟩
theorem vext (d : BitVec 5) (a : BitVec 5) (b : BitVec 5) : Statement (.vext d a b) :=
  ⟨.num (by decide) (.num (by decide) (.bv (.bv (.bv .nil)))), rfl, rfl, rfl, by decide, by decide, show decPermute [8, 0, b.toNat, a.toNat, d.toNat] = _ by simp [decPermute]⟩
theorem vins (d : BitVec 5) (a : BitVec 5) (b : BitVec 5) : Statement (.vins d a b) :=
  ⟨.num (by decide) (.num (by decide) (.bv (.bv (.bv .nil)))), rfl, rfl, rfl, by decide, by decide, show decPermute [9, 0, b.toNat, a.toNat, d.toNat] = _ by simp [decPermute]⟩
theorem vredadd (d : BitVec 5) (a : BitVec 5) (m : BitVec 3) : Statement (.vredadd d a m) :=
  ⟨.num (by decide) (.bv (.num (by decide) (.bv (.bv .nil)))), rfl, rfl, rfl, by decide, by decide, show decPermute [10, m.toNat, 0, a.toNat, d.toNat] = _ by simp [decPermute]⟩
theorem vredmin (d : BitVec 5) (a : BitVec 5) (m : BitVec 3) : Statement (.vredmin d a m) :=
  ⟨.num (by decide) (.bv (.num (by decide) (.bv (.bv .nil)))), rfl, rfl, rfl, by decide, by decide, show decPermute [11, m.toNat, 0, a.toNat, d.toNat] = _ by simp [decPermute]⟩
theorem vredmax (d : BitVec 5) (a : BitVec 5) (m : BitVec 3) : Statement (.vredmax d a m) :=
  ⟨.num (by decide) (.bv (.num (by decide) (.bv (.bv .nil)))), rfl, rfl, rfl, by decide, by decide, show decPermute [12, m.toNat, 0, a.toNat, d.toNat] = _ by simp [decPermute]⟩
theorem vredminn (d : BitVec 5) (a : BitVec 5) (m : BitVec 3) : Statement (.vredminn d a m) :=
  ⟨.num (by decide) (.bv (.num (by decide) (.bv (.bv .nil)))), rfl, rfl, rfl, by decide, by decide, show decPermute [13, m.toNat, 0, a.toNat, d.toNat] = _ by simp [decPermute]⟩
theorem vredmaxn (d : BitVec 5) (a : BitVec 5) (m : BitVec 3) : Statement (.vredmaxn d a m) :=
  ⟨.num (by decide) (.bv (.num (by decide) (.bv (.bv .nil)))), rfl, rfl, rfl, by decide, by decide, show decPermute [14, m.toNat, 0, a.toNat, d.toNat] = _ by simp [decPermute]⟩
theorem mand (d : BitVec 3) (a : BitVec 3) (b : BitVec 3) : Statement (.mand d a b) :=
  ⟨.num (by decide) (.num (by decide) (.num (Nat.lt_of_lt_of_le b.isLt (by decide)) (.num (Nat.lt_of_lt_of_le a.isLt (by decide)) (.num (Nat.lt_of_lt_of_le d.isLt (by decide)) .nil)))), rfl, rfl, rfl, by decide, by decide, show decPermute [15, 0, b.toNat, a.toNat, d.toNat] = _ by simp [decPermute]; exact ⟨b.isLt, a.isLt, d.isLt⟩⟩
theorem mor (d : BitVec 3) (a : BitVec 3) (b : BitVec 3) : Statement (.mor d a b) :=
  ⟨.num (by decide) (.num (by decide) (.num (Nat.lt_of_lt_of_le b.isLt (by decide)) (.num (Nat.lt_of_lt_of_le a.isLt (by decide)) (.num (Nat.lt_of_lt_of_le d.isLt (by decide)) .nil)))), rfl, rfl, rfl, by decide, by decide, show decPermute [16, 0, b.toNat, a.toNat, d.toNat] = _ by simp [decPermute]; exact ⟨b.isLt, a.isLt, d.isLt⟩⟩
theorem mxor (d : BitVec 3) (a : BitVec 3) (b : BitVec 3) : Statement (.mxor d a b) :=
  ⟨.num (by decide) (.num (by decide) (.num (Nat.lt_of_lt_of_le b.isLt (by decide)) (.num (Nat.lt_of_lt_of_le a.isLt (by decide)) (.num (Nat.lt_of_lt_of_le d.isLt (by decide)) .nil)))), rfl, rfl, rfl, by decide, by decide, show decPermute [17, 0, b.toNat, a.toNat, d.toNat] = _ by simp [decPermute]; exact ⟨b.isLt, a.isLt, d.isLt⟩⟩
theorem mnot (d : BitVec 3) (a : BitVec 3) : Statement (.mnot d a) :=
  ⟨.num (by decide) (.num (by decide) (.num (by decide) (.num (Nat.lt_of_lt_of_le a.isLt (by decide)) (.num (Nat.lt_of_lt_of_le d.isLt (by decide)) .nil)))), rfl, rfl, rfl, by decide, by decide, show decPermute [18, 0, 0, a.toNat, d.toNat] = _ by simp [decPermute]; exact ⟨a.isLt, d.isLt⟩⟩
theorem mpopc (d : BitVec 5) (a : BitVec 3) : Statement (.mpopc d a) :=
  ⟨.num (by decide) (.num (by decide) (.num (by decide) (.num (Nat.lt_of_lt_of_le a.isLt (by decide)) (.bv .nil)))), rfl, rfl, rfl, by decide, by decide, show decPermute [19, 0, 0, a.toNat, d.toNat] = _ by simp [decPermute]; exact a.isLt⟩
theorem mfirst (d : BitVec 5) (a : BitVec 3) : Statement (.mfirst d a) :=
  ⟨.num (by decide) (.num (by decide) (.num (by decide) (.num (Nat.lt_of_lt_of_le a.isLt (by decide)) (.bv .nil)))), rfl, rfl, rfl, by decide, by decide, show decPermute [20, 0, 0, a.toNat, d.toNat] = _ by simp [decPermute]; exact a.isLt⟩
theorem vsetvl (d : BitVec 5) (a : BitVec 5) : Statement (.vsetvl d a) :=
  ⟨.num (by decide) (.num (by decide) (.num (by decide) (.bv (.bv .nil)))), rfl, rfl, rfl, by decide, by decide, show decPermute [21, 0, 0, a.toNat, d.toNat] = _ by simp [decPermute]⟩
theorem vclaim (d : BitVec 5) (a : BitVec 5) : Statement (.vclaim d a) :=
  ⟨.num (by decide) (.num (by decide) (.num (by decide) (.bv (.bv .nil)))), rfl, rfl, rfl, by decide, by decide, show decPermute [22, 0, 0, a.toNat, d.toNat] = _ by simp [decPermute]⟩
theorem vld (d : BitVec 5) (c : BitVec 5) (m : BitVec 3) (w : BitVec 2) : Statement (.vld d c m w) :=
  ⟨.num (by decide) (.bv (.num (by decide) (.bv (.num (by decide) (.bv (.bv .nil)))))), rfl, rfl, rfl, by decide, by decide, show decVectorMemory [0, w.toNat, 0, m.toNat, 0, c.toNat, d.toNat] = _ by simp [decVectorMemory]⟩
theorem vst (d : BitVec 5) (c : BitVec 5) (m : BitVec 3) (w : BitVec 2) : Statement (.vst d c m w) :=
  ⟨.num (by decide) (.bv (.num (by decide) (.bv (.num (by decide) (.bv (.bv .nil)))))), rfl, rfl, rfl, by decide, by decide, show decVectorMemory [0, w.toNat, 1, m.toNat, 0, c.toNat, d.toNat] = _ by simp [decVectorMemory]⟩
theorem vlds (d : BitVec 5) (c : BitVec 5) (b : BitVec 5) (m : BitVec 3) (w : BitVec 2) : Statement (.vlds d c b m w) :=
  ⟨.num (by decide) (.bv (.num (by decide) (.bv (.bv (.bv (.bv .nil)))))), rfl, rfl, rfl, by decide, by decide, show decVectorMemory [0, w.toNat, 2, m.toNat, b.toNat, c.toNat, d.toNat] = _ by simp [decVectorMemory]⟩
theorem vsts (d : BitVec 5) (c : BitVec 5) (b : BitVec 5) (m : BitVec 3) (w : BitVec 2) : Statement (.vsts d c b m w) :=
  ⟨.num (by decide) (.bv (.num (by decide) (.bv (.bv (.bv (.bv .nil)))))), rfl, rfl, rfl, by decide, by decide, show decVectorMemory [0, w.toNat, 3, m.toNat, b.toNat, c.toNat, d.toNat] = _ by simp [decVectorMemory]⟩
theorem vldx (d : BitVec 5) (c : BitVec 5) (b : BitVec 5) (m : BitVec 3) (w : BitVec 2) : Statement (.vldx d c b m w) :=
  ⟨.num (by decide) (.bv (.num (by decide) (.bv (.bv (.bv (.bv .nil)))))), rfl, rfl, rfl, by decide, by decide, show decVectorMemory [0, w.toNat, 4, m.toNat, b.toNat, c.toNat, d.toNat] = _ by simp [decVectorMemory]⟩
theorem vstx (d : BitVec 5) (c : BitVec 5) (b : BitVec 5) (m : BitVec 3) (w : BitVec 2) : Statement (.vstx d c b m w) :=
  ⟨.num (by decide) (.bv (.num (by decide) (.bv (.bv (.bv (.bv .nil)))))), rfl, rfl, rfl, by decide, by decide, show decVectorMemory [0, w.toNat, 5, m.toNat, b.toNat, c.toNat, d.toNat] = _ by simp [decVectorMemory]⟩
theorem cvtScalarForm (d : BitVec 5) (a : BitVec 5) (b : BitVec 5) (u : Bool) (v : Bool) (p : BitVec 4) (q : BitVec 4) : Statement (.cvtScalarForm d a b u v p q) :=
  ⟨.num (by decide) (.bv (.bv (.bool (.bool (.bv (.bv (.bv .nil))))))), rfl, rfl, rfl, by decide, by decide, show decConvert [0, q.toNat, p.toNat, v.toNat, u.toNat, b.toNat, a.toNat, d.toNat] = _ by simp [decConvert]⟩
theorem cvtVectorForm (d : BitVec 5) (a : BitVec 5) (b : BitVec 5) (v : Bool) (p : BitVec 4) (q : BitVec 4) : Statement (.cvtVectorForm d a b v p q) :=
  ⟨.num (by decide) (.bv (.bv (.bool (.num (by decide) (.bv (.bv (.bv .nil))))))), rfl, rfl, rfl, by decide, by decide, show decConvert [1, q.toNat, p.toNat, v.toNat, 0, b.toNat, a.toNat, d.toNat] = _ by simp [decConvert]⟩
theorem ecfgCe (e : BitVec 4) (a : BitVec 5) (b : BitVec 5) (u : Bool) (v : Bool) : Statement (.ecfgCe e a b u v) :=
  ⟨.num (by decide) (.bool (.bool (.bv (.bv (.num (Nat.lt_of_lt_of_le e.isLt (by decide)) (.num (by decide) .nil)))))), rfl, rfl, rfl, by decide, by decide, show decCopy [0, v.toNat, u.toNat, b.toNat, a.toNat, e.toNat, 0] = _ by simp [decCopy]; exact e.isLt⟩
theorem cpq (d : BitVec 5) (a : BitVec 5) (b : BitVec 5) (u : Bool) (v : Bool) (k : BitVec 3) : Statement (.cpq d a b u v k) :=
  ⟨.bv (.bool (.bool (.bv (.bv (.bv (.num (by decide) .nil)))))), rfl, rfl, rfl, by decide, by decide, show decCopy [k.toNat, v.toNat, u.toNat, b.toNat, a.toNat, d.toNat, 1] = _ by simp [decCopy]⟩
theorem cppoll (d : BitVec 5) (a : BitVec 5) (u : Bool) : Statement (.cppoll d a u) :=
  ⟨.num (by decide) (.num (by decide) (.bool (.num (by decide) (.bv (.bv (.num (by decide) .nil)))))), rfl, rfl, rfl, by decide, by decide, show decCopy [0, 0, u.toNat, 0, a.toNat, d.toNat, 2] = _ by simp [decCopy]⟩
theorem cpwait (a : BitVec 5) (u : Bool) : Statement (.cpwait a u) :=
  ⟨.num (by decide) (.num (by decide) (.bool (.num (by decide) (.bv (.num (by decide) (.num (by decide) .nil)))))), rfl, rfl, rfl, by decide, by decide, show decCopy [0, 0, u.toNat, 0, a.toNat, 0, 3] = _ by simp [decCopy]⟩
theorem mmaE4e4 (a : BitVec 5) (b : BitVec 5) (u : Bool) (v : Bool) (z : Bool) (t : Bool) (k : Bool) : Statement (.mmaE4e4 a b u v z t k) :=
  ⟨.bool (.bool (.bool (.bool (.bool (.bv (.bv (.num (by decide) (.num (by decide) .nil)))))))), rfl, rfl, rfl, by decide, by decide, show decMatrix [k.toNat, t.toNat, z.toNat, v.toNat, u.toNat, b.toNat, a.toNat, 0, 0] = _ by simp [decMatrix]⟩
theorem mmaE4e5 (a : BitVec 5) (b : BitVec 5) (u : Bool) (v : Bool) (z : Bool) (t : Bool) (k : Bool) : Statement (.mmaE4e5 a b u v z t k) :=
  ⟨.bool (.bool (.bool (.bool (.bool (.bv (.bv (.num (by decide) (.num (by decide) .nil)))))))), rfl, rfl, rfl, by decide, by decide, show decMatrix [k.toNat, t.toNat, z.toNat, v.toNat, u.toNat, b.toNat, a.toNat, 0, 1] = _ by simp [decMatrix]⟩
theorem mmaE5e4 (a : BitVec 5) (b : BitVec 5) (u : Bool) (v : Bool) (z : Bool) (t : Bool) (k : Bool) : Statement (.mmaE5e4 a b u v z t k) :=
  ⟨.bool (.bool (.bool (.bool (.bool (.bv (.bv (.num (by decide) (.num (by decide) .nil)))))))), rfl, rfl, rfl, by decide, by decide, show decMatrix [k.toNat, t.toNat, z.toNat, v.toNat, u.toNat, b.toNat, a.toNat, 0, 2] = _ by simp [decMatrix]⟩
theorem mmaE5e5 (a : BitVec 5) (b : BitVec 5) (u : Bool) (v : Bool) (z : Bool) (t : Bool) (k : Bool) : Statement (.mmaE5e5 a b u v z t k) :=
  ⟨.bool (.bool (.bool (.bool (.bool (.bv (.bv (.num (by decide) (.num (by decide) .nil)))))))), rfl, rfl, rfl, by decide, by decide, show decMatrix [k.toNat, t.toNat, z.toNat, v.toNat, u.toNat, b.toNat, a.toNat, 0, 3] = _ by simp [decMatrix]⟩
theorem mmaE3e3 (a : BitVec 5) (b : BitVec 5) (u : Bool) (v : Bool) (z : Bool) (t : Bool) (k : Bool) : Statement (.mmaE3e3 a b u v z t k) :=
  ⟨.bool (.bool (.bool (.bool (.bool (.bv (.bv (.num (by decide) (.num (by decide) .nil)))))))), rfl, rfl, rfl, by decide, by decide, show decMatrix [k.toNat, t.toNat, z.toNat, v.toNat, u.toNat, b.toNat, a.toNat, 0, 4] = _ by simp [decMatrix]⟩
theorem mmaE2e2 (a : BitVec 5) (b : BitVec 5) (u : Bool) (v : Bool) (z : Bool) (t : Bool) (k : Bool) : Statement (.mmaE2e2 a b u v z t k) :=
  ⟨.bool (.bool (.bool (.bool (.bool (.bv (.bv (.num (by decide) (.num (by decide) .nil)))))))), rfl, rfl, rfl, by decide, by decide, show decMatrix [k.toNat, t.toNat, z.toNat, v.toNat, u.toNat, b.toNat, a.toNat, 0, 5] = _ by simp [decMatrix]⟩
theorem mmaI8i8 (a : BitVec 5) (b : BitVec 5) (u : Bool) (v : Bool) (z : Bool) (t : Bool) (k : Bool) : Statement (.mmaI8i8 a b u v z t k) :=
  ⟨.bool (.bool (.bool (.bool (.bool (.bv (.bv (.num (by decide) (.num (by decide) .nil)))))))), rfl, rfl, rfl, by decide, by decide, show decMatrix [k.toNat, t.toNat, z.toNat, v.toNat, u.toNat, b.toNat, a.toNat, 0, 6] = _ by simp [decMatrix]⟩
theorem mmaI4i4 (a : BitVec 5) (b : BitVec 5) (u : Bool) (v : Bool) (z : Bool) (t : Bool) (k : Bool) : Statement (.mmaI4i4 a b u v z t k) :=
  ⟨.bool (.bool (.bool (.bool (.bool (.bv (.bv (.num (by decide) (.num (by decide) .nil)))))))), rfl, rfl, rfl, by decide, by decide, show decMatrix [k.toNat, t.toNat, z.toNat, v.toNat, u.toNat, b.toNat, a.toNat, 0, 7] = _ by simp [decMatrix]⟩
theorem mmaI8q8 (a : BitVec 5) (b : BitVec 5) (u : Bool) (v : Bool) (z : Bool) (t : Bool) (k : Bool) : Statement (.mmaI8q8 a b u v z t k) :=
  ⟨.bool (.bool (.bool (.bool (.bool (.bv (.bv (.num (by decide) (.num (by decide) .nil)))))))), rfl, rfl, rfl, by decide, by decide, show decMatrix [k.toNat, t.toNat, z.toNat, v.toNat, u.toNat, b.toNat, a.toNat, 0, 8] = _ by simp [decMatrix]⟩
theorem mmaI8q4 (a : BitVec 5) (b : BitVec 5) (u : Bool) (v : Bool) (z : Bool) (t : Bool) (k : Bool) : Statement (.mmaI8q4 a b u v z t k) :=
  ⟨.bool (.bool (.bool (.bool (.bool (.bv (.bv (.num (by decide) (.num (by decide) .nil)))))))), rfl, rfl, rfl, by decide, by decide, show decMatrix [k.toNat, t.toNat, z.toNat, v.toNat, u.toNat, b.toNat, a.toNat, 0, 9] = _ by simp [decMatrix]⟩
theorem mmaI4q4 (a : BitVec 5) (b : BitVec 5) (u : Bool) (v : Bool) (z : Bool) (t : Bool) (k : Bool) : Statement (.mmaI4q4 a b u v z t k) :=
  ⟨.bool (.bool (.bool (.bool (.bool (.bv (.bv (.num (by decide) (.num (by decide) .nil)))))))), rfl, rfl, rfl, by decide, by decide, show decMatrix [k.toNat, t.toNat, z.toNat, v.toNat, u.toNat, b.toNat, a.toNat, 0, 10] = _ by simp [decMatrix]⟩
theorem mmaBf16 (a : BitVec 5) (b : BitVec 5) (u : Bool) (v : Bool) (z : Bool) (t : Bool) (k : Bool) : Statement (.mmaBf16 a b u v z t k) :=
  ⟨.bool (.bool (.bool (.bool (.bool (.bv (.bv (.num (by decide) (.num (by decide) .nil)))))))), rfl, rfl, rfl, by decide, by decide, show decMatrix [k.toNat, t.toNat, z.toNat, v.toNat, u.toNat, b.toNat, a.toNat, 0, 11] = _ by simp [decMatrix]⟩
theorem mmaF16 (a : BitVec 5) (b : BitVec 5) (u : Bool) (v : Bool) (z : Bool) (t : Bool) (k : Bool) : Statement (.mmaF16 a b u v z t k) :=
  ⟨.bool (.bool (.bool (.bool (.bool (.bv (.bv (.num (by decide) (.num (by decide) .nil)))))))), rfl, rfl, rfl, by decide, by decide, show decMatrix [k.toNat, t.toNat, z.toNat, v.toNat, u.toNat, b.toNat, a.toNat, 0, 12] = _ by simp [decMatrix]⟩
theorem mmbE4e4 (f : BitVec 5) (a : BitVec 5) (b : BitVec 5) (u : Bool) (v : Bool) (z : Bool) (t : Bool) (k : Bool) : Statement (.mmbE4e4 f a b u v z t k) :=
  ⟨.bool (.bool (.bool (.bool (.bool (.bv (.bv (.bv (.num (by decide) .nil)))))))), rfl, rfl, rfl, by decide, by decide, show decMatrix [k.toNat, t.toNat, z.toNat, v.toNat, u.toNat, b.toNat, a.toNat, f.toNat, 13] = _ by simp [decMatrix]⟩
theorem mmbE5e5 (f : BitVec 5) (a : BitVec 5) (b : BitVec 5) (u : Bool) (v : Bool) (z : Bool) (t : Bool) (k : Bool) : Statement (.mmbE5e5 f a b u v z t k) :=
  ⟨.bool (.bool (.bool (.bool (.bool (.bv (.bv (.bv (.num (by decide) .nil)))))))), rfl, rfl, rfl, by decide, by decide, show decMatrix [k.toNat, t.toNat, z.toNat, v.toNat, u.toNat, b.toNat, a.toNat, f.toNat, 14] = _ by simp [decMatrix]⟩
theorem mmbE3e3 (f : BitVec 5) (a : BitVec 5) (b : BitVec 5) (u : Bool) (v : Bool) (z : Bool) (t : Bool) (k : Bool) : Statement (.mmbE3e3 f a b u v z t k) :=
  ⟨.bool (.bool (.bool (.bool (.bool (.bv (.bv (.bv (.num (by decide) .nil)))))))), rfl, rfl, rfl, by decide, by decide, show decMatrix [k.toNat, t.toNat, z.toNat, v.toNat, u.toNat, b.toNat, a.toNat, f.toNat, 15] = _ by simp [decMatrix]⟩
theorem mmbE2e2 (f : BitVec 5) (a : BitVec 5) (b : BitVec 5) (u : Bool) (v : Bool) (z : Bool) (t : Bool) (k : Bool) : Statement (.mmbE2e2 f a b u v z t k) :=
  ⟨.bool (.bool (.bool (.bool (.bool (.bv (.bv (.bv (.num (by decide) .nil)))))))), rfl, rfl, rfl, by decide, by decide, show decMatrix [k.toNat, t.toNat, z.toNat, v.toNat, u.toNat, b.toNat, a.toNat, f.toNat, 16] = _ by simp [decMatrix]⟩
theorem ecfgMe (e : BitVec 4) (a : BitVec 5) (b : BitVec 5) (u : Bool) (v : Bool) : Statement (.ecfgMe e a b u v) :=
  ⟨.num (by decide) (.num (by decide) (.num (by decide) (.bool (.bool (.bv (.bv (.num (Nat.lt_of_lt_of_le e.isLt (by decide)) (.num (by decide) .nil)))))))), rfl, rfl, rfl, by decide, by decide, show decMatrix [0, 0, 0, v.toNat, u.toNat, b.toNat, a.toNat, e.toNat, 32] = _ by simp [decMatrix]; exact e.isLt⟩
theorem mdrain (a : BitVec 5) (b : BitVec 5) (u : Bool) (v : Bool) (f : BitVec 2) (k : Bool): Statement (.mdrain a b u v f k) :=
  ⟨.bool (.num (Nat.mod_lt _ (by decide)) (.num (Nat.div_lt_of_lt_mul f.isLt) (.bool (.bool (.bv (.bv (.num (by decide) (.num (by decide) .nil)))))))), rfl, rfl,
    rfl, by decide, by decide, show decMatrix [k.toNat, f.toNat % 2, f.toNat / 2, v.toNat, u.toNat, b.toNat, a.toNat, 0, 33] = _ by
      have h : BitVec.ofNat 2 (f.toNat % 2 + 2 * (f.toNat / 2)) = f := by rw [Nat.mod_add_div, BitVec.ofNat_toNat, BitVec.setWidth_eq]
      simp [decMatrix, h]⟩
theorem mzero (k : Bool) : Statement (.mzero k) :=
  ⟨.bool (.num (by decide) (.num (by decide) (.num (by decide) (.num (by decide) (.num (by decide) (.num (by decide) (.num (by decide) (.num (by decide) .nil)))))))), rfl, rfl, rfl, by decide, by decide, show decMatrix [k.toNat, 0, 0, 0, 0, 0, 0, 0, 34] = _ by simp [decMatrix]⟩
theorem redslot (d : BitVec 5) (a : BitVec 5) (b : BitVec 5) (u : Bool) (v : Bool) : Statement (.redslot d a b u v) :=
  ⟨.num (by decide) (.bool (.bool (.bv (.bv (.bv (.num (by decide) .nil)))))), rfl, rfl, rfl, by decide, by decide, show decReduce [0, v.toNat, u.toNat, b.toNat, a.toNat, d.toNat, 0] = _ by simp [decReduce]⟩
theorem redput (a : BitVec 5) (b : BitVec 5) (u : Bool) (v : Bool) : Statement (.redput a b u v) :=
  ⟨.num (by decide) (.bool (.bool (.bv (.bv (.num (by decide) (.num (by decide) .nil)))))), rfl, rfl, rfl, by decide, by decide, show decReduce [0, v.toNat, u.toNat, b.toNat, a.toNat, 0, 1] = _ by simp [decReduce]⟩
theorem redget (d : BitVec 5) (a : BitVec 5) (u : Bool) : Statement (.redget d a u) :=
  ⟨.num (by decide) (.num (by decide) (.bool (.num (by decide) (.bv (.bv (.num (by decide) .nil)))))), rfl, rfl, rfl, by decide, by decide, show decReduce [0, 0, u.toNat, 0, a.toNat, d.toNat, 2] = _ by simp [decReduce]⟩
theorem redfree (a : BitVec 5) (u : Bool) : Statement (.redfree a u) :=
  ⟨.num (by decide) (.num (by decide) (.bool (.num (by decide) (.bv (.num (by decide) (.num (by decide) .nil)))))), rfl, rfl, rfl, by decide, by decide, show decReduce [0, 0, u.toNat, 0, a.toNat, 0, 3] = _ by simp [decReduce]⟩
theorem illegalWord (word : BitVec 32) : Statement (.illegalWord word) := rfl
theorem nop : Statement (.nop) :=
  ⟨.num (by decide) (.num (by decide) (.num (by decide) (.num (by decide) (.num (by decide) (.num (by decide) .nil))))), rfl, rfl, rfl, by decide, by decide, show decFlow [0, 0, 0, 0, 0, 0] = _ by simp [decFlow]⟩
theorem endFiring : Statement (.endFiring) :=
  ⟨.num (by decide) (.num (by decide) (.num (by decide) (.num (by decide) (.num (by decide) (.num (by decide) .nil))))), rfl, rfl, rfl, by decide, by decide, show decFlow [1, 0, 0, 0, 0, 0] = _ by simp [decFlow]⟩
theorem retire : Statement (.retire) :=
  ⟨.num (by decide) (.num (by decide) (.num (by decide) (.num (by decide) (.num (by decide) (.num (by decide) .nil))))), rfl, rfl, rfl, by decide, by decide, show decFlow [3, 0, 0, 0, 0, 0] = _ by simp [decFlow]⟩
theorem cbar : Statement (.cbar) :=
  ⟨.num (by decide) (.num (by decide) (.num (by decide) (.num (by decide) (.num (by decide) (.num (by decide) (.num (by decide) (.num (by decide) .nil))))))), rfl, rfl, rfl, by decide, by decide, show decSync [0, 0, 2, 0, 0, 0, 0, 0] = _ by simp [decSync]⟩
theorem gbar : Statement (.gbar) :=
  ⟨.num (by decide) (.num (by decide) (.num (by decide) (.num (by decide) (.num (by decide) (.num (by decide) (.num (by decide) (.num (by decide) .nil))))))), rfl, rfl, rfl, by decide, by decide, show decSync [0, 0, 3, 0, 0, 0, 0, 0] = _ by simp [decSync]⟩
theorem snap : Statement (.snap) :=
  ⟨.num (by decide) (.num (by decide) (.num (by decide) (.num (by decide) (.num (by decide) .nil)))), rfl, rfl, rfl, by decide, by decide, show decSystem [0, 3, 0, 0, 0] = _ by simp [decSystem]⟩
theorem vrelease : Statement (.vrelease) :=
  ⟨.num (by decide) (.num (by decide) (.num (by decide) (.num (by decide) (.num (by decide) .nil)))), rfl, rfl, rfl, by decide, by decide, show decPermute [23, 0, 0, 0, 0] = _ by simp [decPermute]⟩
theorem launchMessage (vf : Nat) : Statement (.launchMessage vf) := rfl
theorem placeRope (vf : Nat) : Statement (.placeRope vf) := rfl
theorem ropeStart (rope : Nat) : Statement (.ropeStart rope) := rfl
theorem startMessageReoffer (rope actor : Nat) : Statement (.startMessageReoffer rope actor) := rfl
theorem firingStart (at_ : CoreId) : Statement (.firingStart at_) := rfl
theorem messageInject (at_ : CoreId) : Statement (.messageInject at_) := rfl
theorem messageOffer (msg : Nat) : Statement (.messageOffer msg) := rfl
theorem messageAnswer (msg : Nat) : Statement (.messageAnswer msg) := rfl
theorem budgetExpiry (at_ : CoreId) : Statement (.budgetExpiry at_) := rfl
theorem valueArrival (at_ : CoreId) (prod : Nat) : Statement (.valueArrival at_ prod) := rfl
theorem delayExpiry (at_ : CoreId) : Statement (.delayExpiry at_) := rfl
theorem storeDrain (at_ : CoreId) : Statement (.storeDrain at_) := rfl
theorem ldwSatisfy (at_ : CoreId) (prod : Nat) : Statement (.ldwSatisfy at_ prod) := rfl
theorem copyJobStart (cl job : Nat) : Statement (.copyJobStart cl job) := rfl
theorem copyJobDone (cl job : Nat) : Statement (.copyJobDone cl job) := rfl
theorem streamDeliver (cl job : Nat) : Statement (.streamDeliver cl job) := rfl
theorem tourJobStart (cl job : Nat) : Statement (.tourJobStart cl job) := rfl
theorem hitch (tour : Nat) : Statement (.hitch tour) := rfl
theorem hitchReport (cl job : Nat) : Statement (.hitchReport cl job) := rfl
theorem arrivalReoffer (tour : Nat) : Statement (.arrivalReoffer tour) := rfl
theorem holdExpiry (tour : Nat) : Statement (.holdExpiry tour) := rfl
theorem tileOnward (tour : Nat) : Statement (.tileOnward tour) := rfl
theorem completionReoffer (cl entry : Nat) : Statement (.completionReoffer cl entry) := rfl
theorem tourSlotScrubDone (cl slot : Nat) : Statement (.tourSlotScrubDone cl slot) := rfl
theorem stepStart (cl : Nat) : Statement (.stepStart cl) := rfl
theorem scaleWrite (cl step : Nat) : Statement (.scaleWrite cl step) := rfl
theorem stepComplete (cl step : Nat) : Statement (.stepComplete cl step) := rfl
theorem sequencerCommit (upd : Nat) : Statement (.sequencerCommit upd) := rfl
theorem waitaWake (at_ : CoreId) : Statement (.waitaWake at_) := rfl
theorem waitaTimeout (at_ : CoreId) : Statement (.waitaTimeout at_) := rfl
theorem clusterBarrierComplete (rope strand : Nat) : Statement (.clusterBarrierComplete rope strand) := rfl
theorem barrierTreeComplete (rope : Nat) : Statement (.barrierTreeComplete rope) := rfl
theorem notifyReoffer (die entry : Nat) : Statement (.notifyReoffer die entry) := rfl
theorem routeSwap (who : MgmtSender) (net : Nat) (routes : List RouteRow) : Statement (.routeSwap who net routes) := rfl
theorem routeSwapActivate (net : Nat) : Statement (.routeSwapActivate net) := rfl
theorem limiterRefill (part cl : Nat) : Statement (.limiterRefill part cl) := rfl
theorem redslotServe (cl : Nat) : Statement (.redslotServe cl) := rfl
theorem contributionArrival (cl pkt : Nat) : Statement (.contributionArrival cl pkt) := rfl
theorem redgetServe (cl req : Nat) : Statement (.redgetServe cl req) := rfl
theorem redfreeServe (cl req : Nat) : Statement (.redfreeServe cl req) := rfl
theorem remoteWriteData (vf xfer total : Nat) (compl : BitVec 64) (va : BitVec 52) (data : List (BitVec 8)) : Statement (.remoteWriteData vf xfer total compl va data) := rfl
theorem remoteWriteCompletion (xfer : Nat) : Statement (.remoteWriteCompletion xfer) := rfl
theorem trapMessageReoffer (at_ : CoreId) : Statement (.trapMessageReoffer at_) := rfl
theorem trapAbort (reply : Nat) : Statement (.trapAbort reply) := rfl
theorem trapResume (reply : Nat) : Statement (.trapResume reply) := rfl
theorem trapRetry (reply : Nat) : Statement (.trapRetry reply) := rfl
theorem trapReplace (reply : Nat) : Statement (.trapReplace reply) := rfl
theorem trapwaitExpiry (at_ : CoreId) : Statement (.trapwaitExpiry at_) := rfl
theorem tscMissRequest (cl : Nat) : Statement (.tscMissRequest cl) := rfl
theorem tscWalkDone (cl walk : Nat) : Statement (.tscWalkDone cl walk) := rfl
theorem faultRetry (reply : Nat) : Statement (.faultRetry reply) := rfl
theorem faultDeny (reply : Nat) : Statement (.faultDeny reply) := rfl
theorem faultEmulated (reply : Nat) : Statement (.faultEmulated reply) := rfl
theorem shootdown (req cl : Nat) : Statement (.shootdown req cl) := rfl
theorem sliceEnd (part : Nat) : Statement (.sliceEnd part) := rfl
theorem switchSlice (who : MgmtSender) (part : Nat) : Statement (.switchSlice who part) := rfl
theorem switchSave (part : Nat) : Statement (.switchSave part) := rfl
theorem restore (part : Nat) : Statement (.restore part) := rfl
theorem spillRingDrain (at_ : CoreId) (slot port : Nat) : Statement (.spillRingDrain at_ slot port) := rfl
theorem gangStop (part : Nat) : Statement (.gangStop part) := rfl
theorem halt (who : MgmtSender) (part : Nat) : Statement (.halt who part) := rfl
theorem release (who : MgmtSender) (part : Nat) (vfs : List Nat) : Statement (.release who part vfs) := rfl
theorem managementSnapshot (who : MgmtSender) (part : Nat) : Statement (.managementSnapshot who part) := rfl
theorem snapshotRead (who : MgmtSender) (at_ : CoreId) : Statement (.snapshotRead who at_) := rfl
theorem telemetryFrame (frame : List (BitVec 8)) : Statement (.telemetryFrame frame) := rfl
theorem framesStale : Statement (.framesStale) := rfl
theorem safeMaskWithdraw : Statement (.safeMaskWithdraw) := rfl
theorem shedDeadline (rope : Nat) : Statement (.shedDeadline rope) := rfl
theorem classRestore (cls : Nat) : Statement (.classRestore cls) := rfl
theorem currentWindow (loads : List LoadRow) : Statement (.currentWindow loads) := rfl
theorem meterWindow (part energy : Nat) : Statement (.meterWindow part energy) := rfl
theorem idleLowRail (cl : Nat) : Statement (.idleLowRail cl) := rfl
theorem railSwitch (cl : Nat) : Statement (.railSwitch cl) := rfl
theorem stackSample (die celsius : Nat) : Statement (.stackSample die celsius) := rfl
theorem ropeRetire (rope : Nat) : Statement (.ropeRetire rope) := rfl
theorem endCable (who : MgmtSender) (vf cable : Nat) : Statement (.endCable who vf cable) := rfl
theorem query (who : MgmtSender) (vf cable : Nat) : Statement (.query who vf cable) := rfl
theorem attest (who : MgmtSender) (request : AttestRequest) : Statement (.attest who request) := rfl
theorem packageReset : Statement (.packageReset) := rfl
theorem recoveryImageLoad (who : MgmtSender) (img : List (BitVec 8)) : Statement (.recoveryImageLoad who img) := rfl
theorem firmwareWrite (who : MgmtSender) (img : List (BitVec 8)) (raise : Bool) : Statement (.firmwareWrite who img raise) := rfl
theorem partitionDefine (who : MgmtSender) (part base len barctx : Nat) : Statement (.partitionDefine who part base len barctx) := rfl
theorem vfCreate (who : MgmtSender) (vf part : Nat) : Statement (.vfCreate who vf part) := rfl
theorem meshrateWrite (who : MgmtSender) (part : Nat) (rate : BitVec 32) (burst : BitVec 16) : Statement (.meshrateWrite who part rate burst) := rfl
theorem vfctlWrite (who : MgmtSender) (vf : Nat) (value : BitVec 64) : Statement (.vfctlWrite who vf value) := rfl
theorem endpointTableWrite (who : MgmtSender) (vf index : Nat) (entry : Option Endpoint) : Statement (.endpointTableWrite who vf index entry) := rfl
theorem shadowRootWrite (who : MgmtSender) (vf : Nat) (pa : BitVec 39) : Statement (.shadowRootWrite who vf pa) := rfl
theorem droopConfigWrite (who : MgmtSender) (index : Nat) (value : BitVec 64) : Statement (.droopConfigWrite who index value) := rfl
theorem voteWrite (who : MgmtSender) (part die : Nat) (mv : BitVec 16) : Statement (.voteWrite who part die mv) := rfl
theorem allotWrite (who : MgmtSender) (part : Nat) (watts : BitVec 12) : Statement (.allotWrite who part watts) := rfl
theorem dramShareWrite (who : MgmtSender) (part die percent : Nat) : Statement (.dramShareWrite who part die percent) := rfl
theorem slopeWrite (who : MgmtSender) (down up : BitVec 16) : Statement (.slopeWrite who down up) := rfl
theorem packetCounterRead (who : MgmtSender) : Statement (.packetCounterRead who) := rfl
theorem appliedAtHome (upd : Nat) : Statement (.appliedAtHome upd) := rfl
theorem mdrainWritesApplied (at_ : CoreId) : Statement (.mdrainWritesApplied at_) := rfl
theorem faultAnswerTimeout (cl walk : Nat) : Statement (.faultAnswerTimeout cl walk) := rfl
theorem icacheMissFill (at_ : CoreId) : Statement (.icacheMissFill at_) := rfl
theorem deliveryContextAssign (who : MgmtSender) (ctx vf : Nat) (entropy : Entropy) : Statement (.deliveryContextAssign who ctx vf entropy) := rfl
theorem droppedPacket (reason : DropReason) : Statement (.droppedPacket reason) := rfl

end Sys2Proof.Laws.Layout
end

