-- ==== Sys2Proof/Tests/Slice0.lean ====
section
/-! SUPPORT. Tests: ill-formed terms, words of the spec, and single steps on small states. The expected values are the spec's, or worked out by hand from its rules. -/

namespace Sys2Proof.Tests
open Sys2Proof Sys2Proof.Machine

/-! ## Ill-formed terms -/

/-- Size 7 is no size of `ld` or `ldw` (R60), size 0 none of `fld` or `fst` (R60). -/
theorem test_wf_sizes : (Instr.ld 5 1 false 7 0).wf = false ∧ (Instr.ldw 5 1 false 7 0).wf = false
    ∧ (Instr.fld 5 1 false 0 0).wf = false ∧ (Instr.fst 5 1 false 0 0).wf = false ∧ (Instr.ld 5 1 false 6 0).wf = true := by decide

/-- Scopes 5 to 7 are unassigned (R61), in every atomic. -/
theorem test_wf_scopes : (Instr.aadd 5 6 7 false false 0 5).wf = false ∧ (Instr.aand 5 6 7 false false 0 5).wf = false
    ∧ (Instr.aor 5 6 7 false false 0 5).wf = false ∧ (Instr.axor 5 6 7 false false 0 6).wf = false ∧ (Instr.amin 5 6 7 false false 0 6).wf = false
    ∧ (Instr.amax 5 6 7 false false 0 7).wf = false ∧ (Instr.aminn 5 6 7 false false 0 7).wf = false ∧ (Instr.amaxn 5 6 7 false false 0 5).wf = false
    ∧ (Instr.aswap 5 6 7 false false 0 5).wf = false ∧ (Instr.aaddz 5 6 7 false false 0 5).wf = false ∧ (Instr.cas 5 6 7 false false 0 5).wf = false
    ∧ (Instr.afadd 5 6 7 false false true 0 5).wf = false ∧ (Instr.afmin 5 6 7 false false true 0 5).wf = false
    ∧ (Instr.afmax 5 6 7 false false true 0 5).wf = false ∧ (Instr.afminn 5 6 7 false false true 0 5).wf = false
    ∧ (Instr.afmaxn 5 6 7 false false true 0 5).wf = false ∧ (Instr.aadd 5 6 7 false false 0 4).wf = true := by decide

/-- A fence with neither acquire nor release, or of an unassigned scope (R62). -/
theorem test_wf_fence : (Instr.fence 0 2).wf = false ∧ (Instr.fence 3 5).wf = false ∧ (Instr.fence 3 4).wf = true := by decide

/-- Only x24 to x27 are port registers (Table 02-8). -/
theorem test_wf_ports : (Instr.pbindRecv 23 0).wf = false ∧ (Instr.pbindSend 28 0).wf = false ∧ (Instr.pbindStream 0 1 false).wf = false
    ∧ (Instr.punbind 31).wf = false ∧ (Instr.punbind 27).wf = true := by decide

/-- SHEDMASK may be read and not written; an index that Table 16-6 does not name may be neither (R66, R318). -/
theorem test_wf_system : (Instr.wrs 6 false 0x103).wf = false ∧ (Instr.rds 5 0x003).wf = false ∧ (Instr.wrs 6 false 0x003).wf = false
    ∧ (Instr.rds 5 0x103).wf = true := by decide

/-- Width 3 of a vector access is reserved (R70). -/
theorem test_wf_widths : (Instr.vld 1 2 0 3).wf = false ∧ (Instr.vst 1 2 0 3).wf = false ∧ (Instr.vlds 1 2 3 0 3).wf = false
    ∧ (Instr.vsts 1 2 3 0 3).wf = false ∧ (Instr.vldx 1 2 3 0 3).wf = false ∧ (Instr.vstx 1 2 3 0 3).wf = false ∧ (Instr.vstx 1 2 3 0 2).wf = true := by decide

/-- Code 15 is no format, and a conversion from a format to itself is none (R71). -/
theorem test_wf_conversions : (Instr.cvtScalarForm 1 2 0 false false 15 0).wf = false ∧ (Instr.cvtScalarForm 1 2 0 false false 0 15).wf = false
    ∧ (Instr.cvtScalarForm 1 2 0 false false 3 3).wf = false ∧ (Instr.cvtVectorForm 1 2 0 false 15 1).wf = false
    ∧ (Instr.cvtVectorForm 1 2 0 false 1 15).wf = false ∧ (Instr.cvtVectorForm 1 2 0 false 1 1).wf = false
    ∧ (Instr.cvtScalarForm 1 2 0 false false 1 0).wf = true := by decide

/-! ## Words that the spec writes out, and reserved words -/

/-- Worked words of chapter 2 and Tables 04-6 to 04-9. -/
theorem test_decode_integer :
    decodeWord 0x04642A0F = .sra 3 4 5 false true
    ∧ decodeWord 0x04E84803 = .mulh 7 8 9 false false
    ∧ decodeWord 0x04642C06 = .divn 3 4 5 true false
    ∧ decodeWord 0x04A6381B = .bfx 5 6 7 false false
    ∧ decodeWord 0x18854064 = .sltni 4 5 false 100
    ∧ decodeWord 0x1CA500C8 = .roti 5 5 false 8
    ∧ decodeWord 0x20BFFFFE = .lih 5 (-2)
    ∧ decodeWord 0x08A6FFFC = .addi 5 6 true (-4)
    ∧ decodeWord 0x04640017 = .clz 3 4 false
    ∧ decodeWord 0x1E930050 = .shri 20 19 false 16
    ∧ decodeWord 0x10C60040 = .ori 6 6 false 64
    ∧ decodeWord 0x05C50019 = .popc 14 5 false := by decide

/-- Worked words of chapters 2, 4, 12 and 13: branches, jumps, the ends of a firing. -/
theorem test_decode_flow :
    decodeWord 0x80E02805 = .bgen 7 0 false false 5
    ∧ decodeWord 0x80A617FD = .blt 5 6 false false (-3)
    ∧ decodeWord 0x84200028 = .jal 1 0x28
    ∧ decodeWord 0x841FFFFE = .jal 0 (-2)
    ∧ decodeWord 0x88010000 = .jalr 0 1 false 0
    ∧ decodeWord 0x8C090402 = .delay 9 true
    ∧ decodeWord 0x8C000000 = .nop
    ∧ decodeWord 0x8C000001 = .endFiring
    ∧ decodeWord 0x8C000003 = .retire
    ∧ decodeWord 0x81000FF8 = .bne 8 0 false false (-8) := by decide

/-- Worked words of chapters 5, 10 and 11: loads, stores, bit fields, capabilities, atomics. -/
theorem test_decode_memory :
    decodeWord 0x40A34FFF = .ld 5 3 false 4 (-1)
    ∧ decodeWord 0x5C612003 = .fld 3 1 false 2 3
    ∧ decodeWord 0x48A10002 = .ldc 5 1 false 2
    ∧ decodeWord 0x4CA60000 = .stc 5 6 false 0
    ∧ decodeWord 0x5124B001 = .ldw 9 4 true 3 1
    ∧ decodeWord 0x54C33000 = .stf 6 3 false 0
    ∧ decodeWord 0x54037002 = .clrf 3 false 2
    ∧ decodeWord 0x58A303AC = .ldb 5 3 false 7 11
    ∧ decodeWord 0x590124CC = .stb 8 1 false 9 19
    ∧ decodeWord 0x59241430 = .ldbx 9 4 false 8 12
    ∧ decodeWord 0x60413003 = .fst 2 1 false 3 3
    ∧ decodeWord 0x44E43001 = .st 7 4 false 3 1
    ∧ decodeWord 0x9C832801 = .cbnd 4 3 5 false false
    ∧ decodeWord 0x9CC40409 = .ctag 6 4 true
    ∧ decodeWord 0x9C843004 = .cperm 4 4 6 false false
    ∧ decodeWord 0x70A63931 = .aaddz 5 6 7 false false 2 1
    ∧ decodeWord 0x74251113 = .afadd 1 5 2 false false true 2 3
    ∧ decodeWord 0x78A6380A = .cas 5 6 7 false false 1 2 := by decide

/-- Worked words of chapters 6 and 9: the copy unit, tours, the matrix array. -/
theorem test_decode_engines :
    decodeWord 0xF0011C00 = .ecfgCe 2 7 0 false false
    ∧ decodeWord 0xF016A001 = .cpq 13 8 0 false false 1
    ∧ decodeWord 0xF0262400 = .cppoll 12 9 false
    ∧ decodeWord 0xF0302410 = .cpwait 9 true
    ∧ decodeWord 0x972D0008 = .pbindStream 25 13 false
    ∧ decodeWord 0x99092800 = .tour 8 9 5 false false
    ∧ decodeWord 0x98070001 = .cast 7 false
    ∧ decodeWord 0x98C70002 = .tstat 6 7 false
    ∧ decodeWord 0x98870003 = .tslot 4 7 false
    ∧ decodeWord 0xF40014C7 = .mmaE4e4 5 6 false false true true true
    ∧ decodeWord 0xF4D194C2 = .mmbE4e4 3 5 6 false false false true false
    ∧ decodeWord 0xF600A400 = .ecfgMe 1 9 0 false false
    ∧ decodeWord 0xF6102963 = .mdrain 10 11 false false 1 true
    ∧ decodeWord 0xF6200001 = .mzero true := by decide

/-- Worked words of chapter 8: scalar and vector floating point, vector integer, masks, lanes, conversions. -/
theorem test_decode_float :
    decodeWord 0xC4221914 = .fmsub 1 2 3 4 1
    ∧ decodeWord 0xC085321C = .fminn 4 5 6 false true 0
    ∧ decodeWord 0xC0E1102D = .feq 7 1 2 false false 1
    ∧ decodeWord 0xC109003A = .fclass 8 9 false 2
    ∧ decodeWord 0xC0A6003C = .fmvx 5 6 false
    ∧ decodeWord 0xD0442895 = .vslt 2 4 5 0 true
    ∧ decodeWord 0xD4C74189 = .vfma 6 7 8 1 true 0
    ∧ decodeWord 0xD4430034 = .vfredsum 2 3 0 1
    ∧ decodeWord 0xD8A60306 = .vcompress 5 6 3
    ∧ decodeWord 0xD8A60015 = .vsetvl 5 6
    ∧ decodeWord 0xD9230013 = .mpopc 9 3
    ∧ decodeWord 0xE0642883 = .cvtVectorForm 3 4 5 false 4 1
    ∧ decodeWord 0xE0A60122 = .cvtScalarForm 5 6 0 false false 9 1
    ∧ decodeWord 0xD8E60016 = .vclaim 7 6
    ∧ decodeWord 0xDC210000 = .vld 1 1 0 0
    ∧ decodeWord 0xDC430030 = .vst 2 3 0 2
    ∧ decodeWord 0xD4853200 = .vfadd 4 5 6 2 false 0 := by decide

/-- Worked words of chapters 10 and 11: fences, barriers, ports and messages. -/
theorem test_decode_messages :
    decodeWord 0x9000001A = .fence 3 2
    ∧ decodeWord 0x90000013 = .fence 2 3
    ∧ decodeWord 0x90E43820 = .waita 7 4 7 false false
    ∧ decodeWord 0x90000040 = .cbar
    ∧ decodeWord 0x97000003 = .pbindRecv 24 3
    ∧ decodeWord 0x97400011 = .pbindSend 26 1
    ∧ decodeWord 0x97000020 = .punbind 24
    ∧ decodeWord 0x94053042 = .msend 5 6 false false 2
    ∧ decodeWord 0x94E00061 = .mcount 7 1
    ∧ decodeWord 0x95000080 = .mstat 8 0
    ∧ decodeWord 0x940900A0 = .mbind 9 false 0 := by decide

/-- Worked words of chapters 15, 16 and 18: reductions, the TSC's instructions, system registers. -/
theorem test_decode_network :
    decodeWord 0xF80298E0 = .redslot 5 6 7 false false
    ∧ decodeWord 0xF8101500 = .redput 5 8 false false
    ∧ decodeWord 0xF8101510 = .redput 5 8 true false
    ∧ decodeWord 0xF8249400 = .redget 9 5 false
    ∧ decodeWord 0xF8301400 = .redfree 5 false
    ∧ decodeWord 0xA0855000 = .tlbw 4 5 false
    ∧ decodeWord 0xA0A00100 = .rds 5 0x100 := by decide

/-- Words that the spec calls reserved: zeros, an unassigned branch condition, a reserved operand that is not zero, an unassigned fn (chapter 2);
reserved bits of `redput` and of chapter 15's group; a write of SHEDMASK (chapter 18). -/
theorem test_illegal_words :
    decodeWord 0 = .illegalWord 0 ∧ decodeWord 0x80A637FD = .illegalWord 0x80A637FD ∧ decodeWord 0x04642817 = .illegalWord 0x04642817
    ∧ decodeWord 0x04642A1D = .illegalWord 0x04642A1D ∧ decodeWord 0xF8181500 = .illegalWord 0xF8181500
    ∧ decodeWord 0xF8401500 = .illegalWord 0xF8401500 ∧ decodeWord 0xA0061103 = .illegalWord 0xA0061103 := by decide

/-! ## Single steps -/

/-- A firing on core 0 of cluster 0 whose registers are changed. -/
def ready (f : Regs → Regs) : State := (State.reset.withFiring []).modRegs ⟨0, 0⟩ f

/-- The state after an instruction. -/
def after (i : Instr) (s : State) : State := match exec i s with | .next t => t | _ => s

/-- The registers after an instruction of that firing. -/
def regsAfter (i : Instr) (f : Regs → Regs) : Regs := ((after i (ready f)).core ⟨0, 0⟩).regs

/-- x5 and x6 hold two words. -/
def two (a b : Word64) (r : Regs) : Regs := (r.putX 5 a).putX 6 b

/-- The capability of bytes [0x1000, 0x2000) of the core's own scratchpad, with every right. -/
def own : Cap := ⟨0x1000, 0x1000, 1, 12, 0xF, 1, true⟩

/-- The word at the reset vector's place is fetched and run: `addi x5, x0, 48` (Table 05-6's first line). -/
theorem test_step_addi : (match step (State.reset.withFetchWord 32 0x08A00030) with
    | .next t => some ((t.core ⟨0, 0⟩).regs.readX 5, (t.core ⟨0, 0⟩).regs.pc) | _ => none) = some (48, 4) := by decide

/-- −7 by 2 is −3, remainder −1; without sign 0x7FFF_FFFF_FFFF_FFFC and 1 (R119). -/
theorem test_div : (regsAfter (.div 7 5 6 false false) (two (-7) 2)).readX 7 = -3 ∧ (regsAfter (.rem 7 5 6 false false) (two (-7) 2)).readX 7 = -1
    ∧ (regsAfter (.divn 7 5 6 false false) (two (-7) 2)).readX 7 = 0x7FFFFFFFFFFFFFFC
    ∧ (regsAfter (.remn 7 5 6 false false) (two (-7) 2)).readX 7 = 1 := by decide

/-- Division by zero and the one overflow (R119). -/
theorem test_div_corners : (regsAfter (.div 7 5 6 false false) (two 9 0)).readX 7 = -1 ∧ (regsAfter (.rem 7 5 6 false false) (two 9 0)).readX 7 = 9
    ∧ (regsAfter (.div 7 5 6 false false) (two 0x8000000000000000 (-1))).readX 7 = 0x8000000000000000
    ∧ (regsAfter (.rem 7 5 6 false false) (two 0x8000000000000000 (-1))).readX 7 = 0 := by decide

/-- −1 × −1 has a high half of 0 with signs, and of 2^64 − 2 without (R118). -/
theorem test_mulh : (regsAfter (.mulh 7 5 6 false false) (two (-1) (-1))).readX 7 = 0
    ∧ (regsAfter (.mulhn 7 5 6 false false) (two (-1) (-1))).readX 7 = 0xFFFFFFFFFFFFFFFE := by decide

/-- A source that is also the destination, and an amount of 64, which is 0 (Table 04-6). -/
theorem test_shift : (regsAfter (.shl 5 5 6 false false) (two 3 64)).readX 5 = 3 ∧ (regsAfter (.sra 6 5 6 false false) (two (-8) 1)).readX 6 = -4
    ∧ (regsAfter (.rot 7 5 6 false false) (two 1 1)).readX 7 = 0x8000000000000000 := by decide

/-- `sltni rd, rs1, -1` is 1 for every value but all ones (R121). -/
theorem test_sltni : (regsAfter (.sltni 7 5 false (-1)) (two 0 0)).readX 7 = 1 ∧ (regsAfter (.sltni 7 5 false (-1)) (two (-1) 0)).readX 7 = 0 := by decide

/-- Chapter 4's firing: `bfx x13, x5, x9` of 0x5A3C under 0x304 is 3, and `popc` of it is 8. -/
theorem test_bfx : (regsAfter (.bfx 13 5 6 false false) (two 0x5A3C 0x304)).readX 13 = 3 ∧ (regsAfter (.popc 14 5 false) (two 0x5A3C 0)).readX 14 = 8 := by decide

/-- `lih x7, -1` gives 0xFFFF_FFFF_FFFF_8000 (chapter 5's firing). -/
theorem test_lih : (regsAfter (.lih 7 (-1)) id).readX 7 = 0xFFFFFFFFFFFF8000 := by decide

/-- x0 takes no value (R49). -/
theorem test_x0 : (regsAfter (.addi 0 0 false 5) id).readX 0 = 0 ∧ (regsAfter (.addi 0 0 false 5) id).pc = 4 := by decide

/-- A branch taken three words back, and one not taken (R125). -/
theorem test_branch : (regsAfter (.blt 5 6 false false (-3)) fun r => { two 1 2 r with pc := 40 }).pc = 28
    ∧ (regsAfter (.blt 5 6 false false (-3)) fun r => { two 2 1 r with pc := 40 }).pc = 44 := by decide

/-- `jalr` to an address that is not a multiple of 4 traps ALIGN, with the target (R127). -/
theorem test_jalr_align : ((after (.jalr 1 5 false 0) (ready (two 6 0))).core ⟨0, 0⟩).running = none
    ∧ (after (.jalr 1 5 false 1) (ready (two 8 0))).now = 0 ∧ (regsAfter (.jalr 1 5 false 1) (two 8 0)).pc = 12 := by decide

/-- An empty source under its wait bit traps; without it the instruction waits (R51, R52). -/
theorem test_empty : ((after (.add 7 5 6 true false) (ready fun r => { r with xEmpty := 0x20 })).core ⟨0, 0⟩).running = none
    ∧ (regsAfter (.add 7 5 6 false false) fun r => { r with xEmpty := 0x20 }).pc = 0 := by decide

/-- Chapter 5's firing: `cadd c4, c3, x6` moves the cursor to 0x1010, and `cbnd` by 48 makes [0x1010, 0x1040). -/
theorem test_capabilities : ((regsAfter (.cadd 4 3 6 false false) fun r => (two 0 16 r).putC 3 own).readC 4).cursor = 0x1010
    ∧ (let k := (regsAfter (.cbnd 4 3 5 false false) fun r => (two 48 0 r).putC 3 { own with cursor := 0x1010 }).readC 4; (k.base, k.len)) = (0x1010, 48) := by decide

/-- The smallest representable length at or above 4,097 is 4,098 (R131). -/
theorem test_roundLen : roundLen 4097 = 4098 ∧ roundLen 4095 = 4095 ∧ roundLen 0 = 0 := by decide

/-- A store enters the store buffer, a load of its byte sees it there, and memory takes it when it drains (R136). -/
theorem test_store_forward :
    let s := after (.st 5 3 false 3 1) (ready fun r => (two 0xFFFFFFFFFFFF8000 0 r).putC 3 own)
    s.mem.byte (2 ^ 39 + 0x1009) = 0 ∧ ((after (.ld 7 3 false 0 9) s).core ⟨0, 0⟩).regs.readX 7 = 0xFFFFFFFFFFFFFF80
    ∧ (after (.storeDrain ⟨0, 0⟩) s).mem.byte (2 ^ 39 + 0x1009) = 0x80 := by decide

/-- An access past the region traps CAPBOUNDS and reads nothing (R133). -/
theorem test_capbounds : ((after (.ld 7 3 false 3 512) (ready fun r => r.putC 3 own)).core ⟨0, 0⟩).running = none
    ∧ (regsAfter (.ld 7 3 false 3 511) fun r => r.putC 3 own).pc = 4 := by decide

/-- 1.0 + 2.0 is 3.0 in f32, boxed under ones; 1.0 / 3.0 is inexact (R176, R182). -/
theorem test_float : (regsAfter (.fadd 3 1 2 false false 1) fun r => (r.putF 1 0xFFFFFFFF3F800000).putF 2 0xFFFFFFFF40000000).readF 3 = 0xFFFFFFFF40400000
    ∧ (let r := regsAfter (.fdiv 3 1 2 false false 1) fun r => (r.putF 1 0xFFFFFFFF3F800000).putF 2 0xFFFFFFFF40400000; (r.readF 3, r.flags))
      = (0xFFFFFFFF3EAAAAAB, 1) := by decide

/-- Rows of Table 07-8: f32 −130.7 to i8 is −128 with NV; f32 −0.0 to e4m3 is 0x80 without events. -/
theorem test_convert :
    (let r := regsAfter (.cvtScalarForm 5 1 0 false false 10 1) fun r => r.putF 1 0xFFFFFFFFC302B333; (r.readX 5, r.flags.getLsbD 4)) = (-128, true)
    ∧ (let r := regsAfter (.cvtScalarForm 5 1 0 false false 4 1) fun r => r.putF 1 0xFFFFFFFF80000000; (r.readF 5, r.flags)) = (0xFFFFFFFFFFFFFF80, 0) := by decide

/-- A grant is a multiple of 16 lanes; VL is the lesser of the request and the grant; an element past VL stands (R194 to R197). -/
theorem test_vector : (regsAfter (.vclaim 7 5) (two 17 0)).readX 7 = 32
    ∧ (let r := regsAfter (.vadd 3 1 2 0 false) fun r => { r with lanes := 16, vl := 1, v := (r.v.set 1 0x0000000200000001).set 2 0x0000000500000007 }
       r.lane 3 0 = 8 ∧ r.lane 3 1 = 0) := by decide +kernel

/-- `rds` of FPCTRL after `wrs` of a reserved rounding mode: RM stands (R8, R181). -/
theorem test_fpctrl : let s := after (.wrs 5 false 2) (ready (two 0xD 0)); s.readSys ⟨0, 0⟩ 2 = 8 := by decide

/-- `end` frees the slot, and the core may fire again (R111). -/
theorem test_end : ((after .endFiring (ready id)).core ⟨0, 0⟩).running = none ∧ ((after .endFiring (ready id)).core ⟨0, 0⟩).slots[0].phase = .waiting := by decide

/-- An `aadd` in the core's own scratchpad gives the old value and leaves the sum (R272). -/
theorem test_aadd : let s := after (.aadd 7 3 5 false false 0 1) (ready fun r => (two 5 0 r).putC 3 own)
    (s.core ⟨0, 0⟩).regs.readX 7 = 0 ∧ leNat (s.mem.read (2 ^ 39 + 0x1000) 8) = 5 := by decide

/-- Before the boot has ended no management port answers (R375); package reset with an empty flash waits in recovery (R376). -/
theorem test_boot : (after (.slopeWrite .privileged 1 1) State.reset).power.down = 25
    ∧ (after (.slopeWrite .privileged 1 1) State.reset).hostOut = [] := by decide

end Sys2Proof.Tests
end

