-- ==== Sys2Proof/Tests/Witnesses.lean ====
section
/-! SUPPORT. For every statement with hypotheses, a concrete state and operands that meet all of them together; one for each clause where a statement has several. -/

namespace Sys2Proof.Tests
open Sys2Proof Sys2Proof.Machine

/-! ## Means -/

/-- An instruction issues where a closed check says so. -/
theorem issues_of {s : State} {c : CoreId} {srcs : List Src} {dests : List Reg}
    (h : (!(s.core c).stopped && decide ((s.core c).wait = .none) && srcs.all (fun q => decide (s.availSrc c srcs q = .full) && !(s.core c).scalePending q.reg
      && !(s.core c).latePending q.reg && !s.granuleBusy c q.reg && !(s.core c).regs.isBad q.reg)
      && dests.all fun g => decide (s.destTest c g = .go)) = true) : s.Issues c srcs dests := by
  simp only [Bool.and_eq_true, List.all_eq_true, decide_eq_true_eq, Bool.not_eq_true'] at h
  exact ⟨h.1.1.2, h.1.1.1, fun q m => (h.1.2 q m).1.1.1.1, fun q m => (h.1.2 q m).1.1.1.2, fun q m => (h.1.2 q m).1.1.2, fun q m => (h.1.2 q m).1.2,
    fun q m => (h.1.2 q m).2, h.2⟩

/-- A firing that fetches its words from a text of a few bytes. -/
def fetching (f : Core → Core) : State := (State.reset.withFiring [0x30, 0, 0xA0, 0x08]).modCore ⟨0, 0⟩ f

/-- The core of a ready firing is changed. -/
def readyCore (f : Core → Core) : State := (State.reset.withFiring []).modCore ⟨0, 0⟩ f

/-! ## Encoding and the step -/

theorem witness_DecodeEncode : (Instr.add 1 2 3 false false).wf = true ∧ encode (.add 1 2 3 false false) = some 0x04221800
    ∧ ∀ v, decodeWord 0x04221800 ≠ .illegalWord v := by
  refine ⟨by decide, by decide, fun v h => ?_⟩
  rw [show decodeWord 0x04221800 = .add 1 2 3 false false by decide] at h
  cases h

theorem witness_DecodeWords : (0 : InstrWord) = 0 ∧ (0xFC000000 : InstrWord).toNat / 2 ^ 26 ∉ assignedOpcodes := by decide

theorem witness_StepRunsDecoded : (fetching id).agenda = [] ∧ (fetching id).cur.cluster < 256 ∧ (fetching id).cur.core ≤ 8 ∧ (fetching id).Fetches (fetching id).cur
    ∧ (fetching id).textAt ⟨0, 0⟩ = some ⟨0, 0, [0x30, 0, 0xA0, 0x08], []⟩ ∧ ((fetching id).core ⟨0, 0⟩).regs.pc.toNat + 4 ≤ 4 :=
  ⟨by decide, by decide, by decide, ⟨by decide, by decide, by decide, by decide, by decide, by decide, by decide⟩, by decide, by decide⟩

/-- A producer that is outstanding, of the ready firing. -/
def unanswered : Producer := ⟨1, 0, 0, some (.x 9), 0, .monitor, false⟩

theorem witness_StepTraps_finishing :
    let s := fetching fun k => { k with left := 0, wait := .finishing, prods := [{ unanswered with firing := k.firingNo }] }
    s.agenda = [] ∧ s.cur.cluster < 256 ∧ s.cur.core ≤ 8 ∧ (s.core s.cur).running.isSome = true ∧ (s.core s.cur).park = none
      ∧ s.coreHalted s.cur = false ∧ (s.core s.cur).left = 0 ∧ (s.core s.cur).budget ≠ 0 ∧ (s.core s.cur).wait.issued = false
      ∧ (s.core s.cur).wait = .finishing ∧ ∃ p ∈ (s.core s.cur).prods, p.firing = (s.core s.cur).firingNo ∧ p.failure = none := by decide

theorem witness_StepTraps :
    (let s := fetching fun k => { k with regs := { k.regs with pc := 4 } }
     s.agenda = [] ∧ s.cur.cluster < 256 ∧ s.cur.core ≤ 8 ∧ s.Fetches s.cur ∧ (s.core s.cur).after = []
      ∧ s.textAt s.cur = some ⟨0, 0, [0x30, 0, 0xA0, 0x08], []⟩ ∧ 4 < (s.core s.cur).regs.pc.toNat + 4)
    ∧ (let s := fetching fun k => { k with left := 0 }
       s.agenda = [] ∧ s.cur.cluster < 256 ∧ s.cur.core ≤ 8 ∧ (s.core s.cur).running.isSome = true ∧ (s.core s.cur).park = none
        ∧ s.coreHalted s.cur = false ∧ (s.core s.cur).left = 0 ∧ (s.core s.cur).budget ≠ 0 ∧ (s.core s.cur).wait.issued = false ∧ (s.core s.cur).wait = .none)
    ∧ (let s := fetching fun k => { k with wait := .delay 0 }
       s.agenda = [] ∧ (s.core s.cur).wait = .delay 0 ∧ 0 ≤ s.now.toNat) := by
  refine ⟨⟨by decide, by decide, by decide, ⟨by decide, by decide, by decide, by decide, by decide, by decide, by decide⟩, by decide, by decide, by decide⟩, by decide, by decide⟩

/-! ## Issue, the fixed registers and the port registers -/

/-- x5 is empty. -/
def empty5 : State := ready fun r => { r with xEmpty := 0x20 }

theorem witness_EmptySources :
    (∃ f, integerForm (.add 7 5 6 true false) = some f ∧ (empty5.core empty5.cur).wait = .none ∧ (empty5.core empty5.cur).stopped = false ∧ f.srcs.head? = some ⟨.x 5, true⟩ ∧ (5 : BitVec 5) ≠ 0
      ∧ (empty5.core empty5.cur).regs.binding 5 = .unbound ∧ (empty5.core empty5.cur).regs.xEmpty.getLsbD (5 : BitVec 5).toNat = true)
    ∧ ∃ f, integerForm (.add 7 6 5 false false) = some f ∧ (empty5.core empty5.cur).wait = .none
      ∧ (∀ q ∈ f.srcs, (empty5.availSrc empty5.cur f.srcs q = .full ∨ (empty5.availSrc empty5.cur f.srcs q = .empty ∧ q.wait = false)))
      ∧ (∃ q ∈ f.srcs, empty5.availSrc empty5.cur f.srcs q = .empty) ∧ ∀ q ∈ f.srcs, (empty5.core empty5.cur).scalePending q.reg = false :=
  ⟨⟨_, rfl, by decide⟩, ⟨_, rfl, by decide⟩⟩

/-- x5, f6 and c7 are empty. -/
def emptyThree : State := ready fun r => { r with xEmpty := 0x20, fEmpty := 0x40, cEmpty := 0x80 }

theorem witness_EmptySources_families :
    let s := emptyThree
    (s.core s.cur).wait = .none ∧ (s.core s.cur).stopped = false
    ∧ (sourcesOf (s.core s.cur).regs (.add 7 6 5 true true) = some ([⟨.x 6, true⟩] ++ ⟨.x 5, true⟩ :: [])
      ∧ s.availSrc s.cur [⟨.x 6, true⟩, ⟨.x 5, true⟩] ⟨.x 5, true⟩ = .empty ∧ s.availSrc s.cur [⟨.x 6, true⟩, ⟨.x 5, true⟩] ⟨.x 6, true⟩ = .full)
    ∧ (sourcesOf (s.core s.cur).regs (.fadd 1 2 6 false true 1) = some ([⟨.f 2, false⟩] ++ ⟨.f 6, true⟩ :: [])
      ∧ s.availSrc s.cur [⟨.f 2, false⟩, ⟨.f 6, true⟩] ⟨.f 6, true⟩ = .empty ∧ emptyNumber (.f 6) = some 38)
    ∧ (sourcesOf (s.core s.cur).regs (.st 5 7 true 3 0) = some ([] ++ ⟨.c 7, true⟩ :: [⟨.x 5, true⟩])
      ∧ s.availSrc s.cur [⟨.c 7, true⟩, ⟨.x 5, true⟩] ⟨.c 7, true⟩ = .empty ∧ emptyNumber (.c 7) = some 71)
    ∧ (sourcesOf (s.core s.cur).regs (.ld 4 7 false 3 0) = some [⟨.c 7, false⟩] ∧ s.availSrc s.cur [⟨.c 7, false⟩] ⟨.c 7, false⟩ = .empty)
    ∧ (sourcesOf (s.core s.cur).regs (.beq 5 6 false false 0) = some [⟨.x 5, false⟩, ⟨.x 6, false⟩]
      ∧ s.availSrc s.cur [⟨.x 5, false⟩, ⟨.x 6, false⟩] ⟨.x 5, false⟩ = .empty ∧ s.availSrc s.cur [⟨.x 5, false⟩, ⟨.x 6, false⟩] ⟨.x 6, false⟩ = .full) := by decide

/-- A firing of an actor with an input and a send port, x24 bound. -/
def bound (b : Binding) (typ : BitVec 8) (msgs : List Msg) : State := readyCore fun k =>
  { k.modCur fun t => { t with ins := [⟨typ, 4, 1, msgs, 1, 0, []⟩], outs := [⟨typ, 1, 0x8000, 0, false, 0, [], []⟩] } with
    regs := k.regs.setBinding 24 b }

theorem witness_FixedRegisters : (((bound (.recv 0) 0 []).core ⟨0, 0⟩).regs.binding 24 = .recv 0)
    ∧ (((bound (.stream 3 1 [7] 2) 0 []).core ⟨0, 0⟩).regs.binding 24 = .stream 3 1 [7] 2) ∧ (31 : BitVec 5) ≠ 0 := by decide

theorem witness_PortRegisters :
    ((ready id).core ⟨0, 0⟩).regs.binding 24 = .unbound
    ∧ (let s := bound (.recv 0) 1 [⟨1, [8, 9], false⟩]
       (s.core ⟨0, 0⟩).running.isSome = true ∧ (s.core ⟨0, 0⟩).regs.binding 24 = .recv 0
        ∧ (s.core ⟨0, 0⟩).curSlot.ins[0]? = some ⟨1, 4, 1, [⟨1, [8, 9], false⟩], 1, 0, []⟩ ∧ kindOf (1 : BitVec 8) ≠ 2)
    ∧ ((bound (.stream 3 1 [7] 2) 0 []).core ⟨0, 0⟩).regs.binding 24 = .stream 3 1 ([7] : List Word64) 2
    ∧ (let s := bound (.send 0 []) 1 []
       (s.core ⟨0, 0⟩).running.isSome = true ∧ (s.core ⟨0, 0⟩).regs.binding 24 = .send 0 []
        ∧ (s.core ⟨0, 0⟩).curSlot.outs[0]? = some ⟨1, 1, 0x8000, 0, false, 0, [], []⟩ ∧ 0 + 1 < wordsOf 1)
    ∧ (let s := bound (.send 0 [5]) 1 []
       (s.core ⟨0, 0⟩).running.isSome = true ∧ (s.core ⟨0, 0⟩).regs.binding 24 = .send 0 [5] ∧ wordsOf 1 ≤ 1 + 1)
    ∧ (let s := bound (.recv 0) 0x11 [⟨0x11, [1, 2], true⟩]
       (s.core ⟨0, 0⟩).running.isSome = true ∧ (s.core ⟨0, 0⟩).regs.binding 24 = .recv 0
        ∧ (s.core ⟨0, 0⟩).curSlot.ins[0]? = some ⟨0x11, 4, 1, [⟨0x11, [1, 2], true⟩], 1, 0, []⟩ ∧ kindOf (0x11 : BitVec 8) = 2) := by decide

/-! ## Traps -/

/-- A cable of the bare rope. -/
def cable0 : Cable where
  vf := 0
  name := 1
  cls := 0
  ropes := [0]
  deps := []
  image := 0
  args := []
  done := 0
  reply := 0x400000001
  tag := 0
  state := .running
  acceptedAt := 0
  next := 1
  placed := [0]
  outcomes := []
  outcome := .ok
  decider := 0
  elapsed := 0
  firings := 0
  cycles := 0
  reread := 0
  lost := 0

/-- The ready firing in a rope that is changed, with its cable. -/
def inRope (f : Rope → Rope) (s : State) : State := { s with ropes := s.ropes.set 0 (f bareRope), cables := s.cables.set 0 cable0 }

/-- A rope of two actors, of which actor 1 is the supervisor. -/
def supervised : Rope := { bareRope with
  decl := ⟨0, some 1, [⟨0, [⟨0, [], [], [], 16, none⟩, ⟨1, [⟨0x1B, 4, 1⟩], [], [], 16, none⟩]⟩], []⟩ }

theorem witness_TrapEntry :
    (let s := inRope (fun _ => supervised) (ready id)
     TrapCode.soft ≠ .budget ∧ (s.core ⟨0, 0⟩).running = some 0 ∧ s.ropes.get (s.core ⟨0, 0⟩).curSlot.rope = some supervised ∧ supervised.decl.supervisor = some 1
      ∧ 1 ≠ (s.core ⟨0, 0⟩).curSlot.logical ∧ supervised.decl.actor 1 = some ⟨1, [⟨0x1B, 4, 1⟩], [], [], 16, none⟩ ∧ firstPortOfKind [⟨0x1B, 4, 1⟩] 3 = some 0)
    ∧ (let s := inRope id (ready id)
       (s.core ⟨0, 0⟩).running = some 0 ∧ s.ropes.get (s.core ⟨0, 0⟩).curSlot.rope = some bareRope ∧ s.cables.get bareRope.cable = some cable0
        ∧ bareRope.decl.supervisor = none ∧ s.allPerformed ⟨0, 0⟩ (s.core ⟨0, 0⟩).opNo = true ∧ ∀ h ∈ s.heldTraps, h.at_ ≠ (⟨0, 0⟩ : CoreId)) := by decide

/-- A virtual function of partition 0 with a launch port, its tables at PA 0. -/
def guest0 (port : List Msg) : Vf where
  part := 0
  slice := 0
  classB := false
  floor := 0
  trapWait := 10
  faultEp := 0
  seqDie := 0
  endpoints := []
  root := 0
  launchPort := port
  completion := []
  ptr := 0
  throttleAcc := 0
  overrun := 0
  gap := 0
  saved := none
  heldWrites := []

/-- A firing parked by a trap at address 8 after which it goes on at 12, and a reply of a verb that has arrived. -/
def parked (code : TrapCode) (verb : Nat) : State :=
  { (inRope (fun _ => supervised) (readyCore fun k => { k.modCur fun t => { t with phase := .parked } with
      park := some (.trap code 0 8 0 (some 12)), parkseq := 1, regs := { k.regs with pc := 8 } })) with
    vfs := [(0, guest0 [])]
    sysReqs := [⟨9, 0, 1, .ofNat 64 (2 ^ 16 + 2 ^ 32 * verb), 5, ⟨0, .host 0 0, 0, 0, 0, ⟨0, [], false⟩, 0, none⟩, [], 0⟩] }

/-- The reply is found, and names the parked firing. -/
def replies (code : TrapCode) (verb : Nat) : Bool :=
  match (parked code verb).sysReqs.find? (fun x => x.no == 9) with
  | some q => decide (q.service = 1) && (parked code verb).parkedBy q == some (⟨0, 0⟩, code) && decide (q.word0.toNat / 2 ^ 32 % 8 = verb)
  | none => false

/-- A firing parked by FPX whose result completes a message, and whose core's send queue is full. -/
def parkedFull (verb : Nat) : State :=
  (parked .fpx verb).modCore ⟨0, 0⟩ fun k =>
    { k.modCur (fun t => { t with outs := [⟨0, 1, 0x8000, 0, false, 0, [], []⟩] }) with
      regs := k.regs.setBinding 24 (.send 0 []), fpDefault := .x 24 7, sendQ := List.replicate 8 ⟨0, 0, 0, 0, some 0, 0x8000, ⟨0, [5], false⟩, 0, 0⟩ }

theorem witness_TrapReplies_full :
    ∀ verb ∈ [1, 3], ∃ q, (parkedFull verb).sysReqs.find? (fun x => x.no == 9) = some q ∧ q.service = 1 ∧ (parkedFull verb).parkedBy q = some (⟨0, 0⟩, .fpx)
      ∧ q.word0.toNat / 2 ^ 32 % 8 = verb ∧ (parkedFull verb).arrivalTest ⟨0, 0⟩ ((parkedFull verb).core ⟨0, 0⟩).fpDefault.dest = .stall := by
  intro verb h
  rcases List.mem_cons.mp h with rfl | h
  · exact ⟨_, rfl, by decide⟩
  · obtain rfl := List.mem_singleton.mp h
    exact ⟨_, rfl, by decide⟩

theorem witness_TrapReplies : replies .soft 0 = true ∧ replies .soft 4 = true ∧ replies .budget 1 = true ∧ replies .soft 1 = true ∧ replies .illegal 2 = true
    ∧ replies .align 2 = true ∧ replies .fpx 3 = true ∧ replies .soft 3 = true
    ∧ (let s := parked .align 2
       (s.core ⟨0, 0⟩).running = some 0 ∧ (s.core ⟨0, 0⟩).park = some (.trap .align 0 8 0 (some 12)) ∧ (12 : Word64) ≠ (s.core ⟨0, 0⟩).regs.pc
        ∧ (s.core ⟨0, 0⟩).after = [] ∧ (s.core ⟨0, 0⟩).fpDefault = .none) := by decide

/-! ## Register instructions -/

theorem witness_RegisterResults :
    (∃ f, integerForm (.bfi 7 5 6 false true) = some f ∧ (ready id).Issues (ready id).cur f.srcs [f.dest])
    ∧ (∃ f, moveForm (.vext 7 5 6) = some f ∧ (ready id).Issues (ready id).cur f.srcs [f.dest])
    ∧ (∃ f, capabilityForm (.cset 7 5 6 false false) = some f ∧ (ready id).Issues (ready id).cur f.srcs [f.dest]) :=
  ⟨⟨_, rfl, issues_of (by decide)⟩, ⟨_, rfl, issues_of (by decide)⟩, ⟨_, rfl, issues_of (by decide)⟩⟩

/-- c3 is the capability of the tests, and x5 holds a length. -/
def lengthOf (n : Word64) : State := ready fun r => (two n 0 r).putC 3 own

theorem witness_cbnd : (lengthOf 0x1000).Issues (lengthOf 0x1000).cur [⟨.c 3, false⟩, ⟨.x 5, false⟩] [.c 4]
    ∧ (0x1000 : Word64).toNat ≤ 4095 * 2 ^ 31 ∧ own.tag = true ∧ own.base.toNat ≤ own.cursor.toNat ∧ own.cursor.toNat + roundLen 0x1000 ≤ own.base.toNat + own.len
    ∧ own.base.toNat + own.len < own.cursor.toNat + roundLen 0x1001 ∧ 4095 * 2 ^ 31 < (4095 * 2 ^ 31 + 1 : Word64).toNat :=
  ⟨issues_of (by decide), by decide⟩

theorem witness_RoundedLengths : 4095 * 2 ^ 31 ≤ 4095 * 2 ^ 31 ∧ 4097 ≤ 2049 * 2 ^ 1 ∧ (0 : Nat) < (own.withLen 4097).exp.toNat ∧ 4095 * 2 ^ 31 < 4095 * 2 ^ 31 + 1 := by decide

/-- x5 holds 1 and x6 holds 2. -/
def oneTwo : State := ready (two 1 2)

theorem witness_Branches :
    (∃ f, branchForm (.blt 5 6 false false (-3)) = some f ∧ oneTwo.Issues oneTwo.cur f.srcs [] ∧ f.taken 1 2 ∧ ¬ f.taken 2 1
      ∧ oneTwo.operands oneTwo.cur f.srcs = [1, 2])
    ∧ oneTwo.Issues oneTwo.cur [] [.x 7] :=
  ⟨⟨_, rfl, issues_of (by decide), by decide, by decide, by decide⟩, issues_of (by decide)⟩

theorem witness_ControlTransfer :
    oneTwo.Issues oneTwo.cur [⟨.x 5, false⟩] [.x 7]
    ∧ (BitVec.ofInt 64 ((oneTwo.takeX oneTwo.cur 0).1.toInt + 4 * (1 : BitVec 15).toInt)).toNat % 4 = 0
    ∧ (BitVec.ofInt 64 ((oneTwo.takeX oneTwo.cur 5).1.toInt + 4 * (1 : BitVec 15).toInt)).toNat % 4 ≠ 0
    ∧ oneTwo.Issues oneTwo.cur [] [] ∧ oneTwo.Issues oneTwo.cur [⟨.x 5, false⟩] [] ∧ (oneTwo.takeX oneTwo.cur 0).1 = 0 ∧ (oneTwo.takeX oneTwo.cur 5).1 ≠ 0 :=
  ⟨issues_of (by decide), by decide, by decide, issues_of (by decide), issues_of (by decide), by decide, by decide⟩

/-! ## Floating point -/

/-- f1 holds 1.0 and f2 holds 0.0, with FPENABLE. -/
def divides (enable : BitVec 5) : State := ready fun r => { (r.putF 1 0xFFFFFFFF3F800000).putF 2 0xFFFFFFFF00000000 with enable := enable }

theorem witness_FloatResults :
    (∃ f, floatForm (.fdiv 3 1 2 false false 1) = some f ∧ (divides 0).Issues (divides 0).cur f.srcs [f.dest] ∧ ¬ f.raises (divides 0))
    ∧ (∃ f, floatForm (.fdiv 3 1 2 false false 1) = some f ∧ (divides 31).Issues (divides 31).cur f.srcs [f.dest] ∧ f.raises (divides 31)) := by
  refine ⟨⟨_, rfl, issues_of (by decide), ?_⟩, ⟨_, rfl, issues_of (by decide), ?_⟩⟩
  · unfold FpForm.raises; decide
  · unfold FpForm.raises; decide

theorem witness_RoundingExact : fmtE4m3 ∈ [fmtF64, fmtF32, fmtBf16, fmtF16, fmtE5m2, fmtE4m3] ∧ 0x7F < 2 ^ fmtE5m2.width
    ∧ 0x77 / 2 ^ fmtE4m3.man % 2 ^ fmtE4m3.exp ≠ 2 ^ fmtE4m3.exp - 1 := by decide

/-! ## Vectors -/

/-- A firing with a grant of 16 lanes and VL 1. -/
def lanes16 (enable : BitVec 5) : State := ready fun r => { r with lanes := 16, vl := 1, enable := enable }

theorem witness_VectorResults :
    (∃ f, vectorIntegerForm (.vadd 3 1 2 0 true) = some f ∧ (lanes16 0).Issues (lanes16 0).cur f.srcs [.v f.dest])
    ∧ (∃ f, maskForm (.vslt 3 1 2 0 false) = some f ∧ (lanes16 0).Issues (lanes16 0).cur f.srcs [])
    ∧ (∃ f, permuteForm (.vins 3 1 2) = some f ∧ (lanes16 0).Issues (lanes16 0).cur f.srcs [.v f.dest]) :=
  ⟨⟨_, rfl, issues_of (by decide)⟩, ⟨_, rfl, issues_of (by decide)⟩, ⟨_, rfl, issues_of (by decide)⟩⟩

/-- Element 0 of v1 is a signaling NaN, and every event is enabled. -/
def nans : State := ready fun r => { r.putV 1 0x7F800001 true with lanes := 16, vl := 1, enable := 31 }

theorem witness_VectorFloatResults :
    (∃ f, vectorFloatForm (.vfrec 3 1 0 0) = some f ∧ (lanes16 0).Issues (lanes16 0).cur f.srcs [.v f.dest]
      ∧ eventsOf (f.results ((lanes16 0).core (lanes16 0).cur).regs []) &&& ((lanes16 0).core (lanes16 0).cur).regs.enable = 0)
    ∧ (∃ f, vectorFloatForm (.vfrec 3 1 0 0) = some f ∧ (lanes16 31).Issues (lanes16 31).cur f.srcs [.v f.dest]
      ∧ ((f.results ((lanes16 31).core (lanes16 31).cur).regs []).find? fun x => x.2.2 &&& ((lanes16 31).core (lanes16 31).cur).regs.enable != 0).isSome = true)
    ∧ (∃ f, vectorCompareForm (.vflt 3 1 2 0 false 0) = some f ∧ (lanes16 0).Issues (lanes16 0).cur f.srcs []
      ∧ eventsOf (f.results ((lanes16 0).core (lanes16 0).cur).regs) &&& ((lanes16 0).core (lanes16 0).cur).regs.enable = 0)
    ∧ (∃ f, reduceForm (.vfredsum 3 1 0 0) = some f ∧ (lanes16 0).Issues (lanes16 0).cur [⟨.v f.src, false⟩] [.v f.dest]
      ∧ ((lanes16 0).core (lanes16 0).cur).regs.vl ≠ 0
      ∧ (f.result ((lanes16 0).core (lanes16 0).cur).regs).2 &&& ((lanes16 0).core (lanes16 0).cur).regs.enable = 0)
    ∧ (∃ f, vectorCompareForm (.vflt 3 1 2 0 false 0) = some f ∧ nans.Issues nans.cur f.srcs []
      ∧ ((f.results (nans.core nans.cur).regs).find? fun x => x.2.2 &&& (nans.core nans.cur).regs.enable != 0).isSome = true)
    ∧ (∃ f, reduceForm (.vfredsum 3 1 0 0) = some f ∧ nans.Issues nans.cur [⟨.v f.src, false⟩] [.v f.dest]
      ∧ (nans.core nans.cur).regs.vl ≠ 0 ∧ (f.result (nans.core nans.cur).regs).2 &&& (nans.core nans.cur).regs.enable ≠ 0)
    ∧ (∃ f, reduceForm (.vfredsum 3 1 0 0) = some f ∧ (ready id).Issues (ready id).cur [⟨.v f.src, false⟩] [.v f.dest]
      ∧ ((ready id).core (ready id).cur).regs.vl = 0) :=
  ⟨⟨_, rfl, issues_of (by decide), by decide +kernel⟩, ⟨_, rfl, issues_of (by decide), by decide +kernel⟩, ⟨_, rfl, issues_of (by decide), by decide +kernel⟩,
    ⟨_, rfl, issues_of (by decide), by decide, by decide +kernel⟩, ⟨_, rfl, issues_of (by decide), by decide +kernel⟩,
    ⟨_, rfl, issues_of (by decide), by decide, by decide +kernel⟩, ⟨_, rfl, issues_of (by decide), by decide⟩⟩

/-- The ready firing asks for 32 lanes, and another core of the cluster is behind it by a core cycle. -/
def laneLater : State :=
  ((ready (two 32 0)).modCore ⟨0, 0⟩ fun k => { k with cycles := 1 }).modCore ⟨0, 1⟩ fun k => { k with running := some 0 }

theorem witness_VectorState :
    (∀ x ∈ [((63 : Nat), (5 : Nat))], x.1 < if true then 64 else 128) ∧ 62 < (if true then 64 else 128) ∧ 62 ∉ [((63 : Nat), (5 : Nat))].map Prod.fst
    ∧ oneTwo.Issues oneTwo.cur [⟨.x 5, false⟩] [.x 7] ∧ oneTwo.laneTurn oneTwo.cur (laneUse 1 (oneTwo.core oneTwo.cur).regs.lanes) = true
    ∧ (laneLater.Issues laneLater.cur [⟨.x 5, false⟩] [.x 7] ∧ (laneLater.takeX laneLater.cur 5).1 = 32
      ∧ laneLater.laneTurn laneLater.cur (laneUse 32 (laneLater.core laneLater.cur).regs.lanes) = false)
    ∧ oneTwo.Issues oneTwo.cur [] [] ∧ oneTwo.laneTurn oneTwo.cur (laneUse 0 (oneTwo.core oneTwo.cur).regs.lanes) = true
    ∧ (128 : Nat) ≤ 128 ∧ 128 % 16 = 0 ∧ 0 % 16 = 0 :=
  ⟨by decide, by decide, by decide, issues_of (by decide), by decide, ⟨issues_of (by decide), by decide⟩, issues_of (by decide), by decide⟩

/-- Core 1 holds 32 lanes, core 2 has had a core cycle, and a take has come in the cluster's cycle. -/
def laneTaken (next : Nat) : State :=
  (((ready (two 32 0)).modCore ⟨0, 2⟩ fun k => { k with cycles := 1 }).modRegs ⟨0, 1⟩ fun r => { r with lanes := 32 }).modCluster 0 fun k => { k with lanesNext := next }

theorem witness_VectorState_aborts :
    (laneUse 32 0 = .takes ∧ (laneTaken 1).Issues (laneTaken 1).cur [⟨.x 5, false⟩] [.x 7] ∧ (laneTaken 1).laneTurn (laneTaken 1).cur (laneUse 32 0) = true)
    ∧ (((laneTaken 1).core ⟨0, 2⟩).cycles.toNat = 1 ∧ ((laneTaken 1).cluster 0).lanesNext ≤ 1 ∧ 1 < ((laneTaken 2).cluster 0).lanesNext)
    ∧ (1 < (((laneTaken 1).modCore ⟨0, 1⟩ fun k => { k with cycles := 2 }).core ⟨0, 1⟩).cycles.toNat ∧ ((laneTaken 1).core ⟨0, 1⟩).cycles.toNat ≤ 1
      ∧ (((laneTaken 1).modCore ⟨0, 1⟩ fun k => { k with cycles := 2 }).finish ⟨0, 1⟩).lanesFree ⟨0, 2⟩ = 112
      ∧ ((laneTaken 1).finish ⟨0, 1⟩).lanesFree ⟨0, 2⟩ = 128)
    ∧ ((laneTaken 2).lanesFree ⟨0, 2⟩ = 112 ∧ ((laneTaken 2).abort ⟨0, 1⟩).lanesFree ⟨0, 2⟩ = 112 ∧ ((laneTaken 1).abort ⟨0, 1⟩).lanesFree ⟨0, 2⟩ = 128) :=
  ⟨⟨by decide, issues_of (by decide), by decide +kernel⟩, by decide +kernel, by decide +kernel, by decide +kernel⟩

/-! ## Memory -/

/-- c3 is a capability, x5 and x6 hold two words. -/
def holding (cap : Cap) (a b : Word64) : State := ready fun r => (two a b r).putC 3 cap

/-- A capability of space 2, 3 or 4 over [0x1000, 0x2000). -/
def other (space : BitVec 3) : Cap := { own with space := space }

theorem witness_AccessChecks :
    (holding own 0 0).accessCheck ⟨0, 0⟩ own 0x1FF8 8 .load = .ok (2 ^ 39 + 0x1FF8) false
    ∧ (holding own 0 0).accessCheck ⟨0, 0⟩ (other 2) 0x1000 8 .store = .ok (2 ^ 39 + 0x1000) false
    ∧ (holding own 0 0).accessFails ⟨0, 0⟩ { own with tag := false } 0 8 .load = some .captag
    ∧ (holding own 0 0).accessFails ⟨0, 0⟩ { own with space := 5 } 0 8 .load = some .capspace
    ∧ (holding own 0 0).accessFails ⟨0, 0⟩ { own with perm := 0xE } 0 8 .load = some .capperm
    ∧ (holding own 0 0).accessFails ⟨0, 0⟩ own 0x1001 8 .load = some .align
    ∧ (holding own 0 0).accessFails ⟨0, 0⟩ own 0x2000 8 .load = some .capbounds
    ∧ (holding own 0 0).accessFails ⟨0, 0⟩ (other 3) 0x1000 8 .load = some .tourRevoked := by decide

theorem witness_AccessTraps :
    (∃ f, loadInstr ((holding own 0 0).core (holding own 0 0).cur).regs (.ld 7 3 false 3 512) = some f
      ∧ (holding own 0 0).Issues (holding own 0 0).cur [⟨.c f.base, f.wait⟩] [f.dest]
      ∧ (holding own 0 0).accessFails (holding own 0 0).cur (((holding own 0 0).core (holding own 0 0).cur).regs.readC f.base)
        (f.addr ((holding own 0 0).core (holding own 0 0).cur).regs) f.bytes .load = some .capbounds)
    ∧ (∃ f, storeInstr (.st 5 3 false 3 512) = some f ∧ (holding own 0 0).Issues (holding own 0 0).cur f.srcs []
      ∧ ((holding own 0 0).afterReads (holding own 0 0).cur f.srcs).accessFails (holding own 0 0).cur
        (((holding own 0 0).core (holding own 0 0).cur).regs.readC f.base) (f.addr ((holding own 0 0).core (holding own 0 0).cur).regs)
        (f.written (holding own 0 0)).length f.kind = some .capbounds) :=
  ⟨⟨_, rfl, issues_of (by decide), by decide⟩, ⟨_, rfl, issues_of (by decide), by decide⟩⟩

/-- An atomic that is outstanding at the first word of the capability of the tests. -/
def atomicOut (no : Nat) : Producer := ⟨no, 0, 0, some (.x 9), 0, .atomic (2 ^ 39 + 0x1000) 8 .add 1 0 2 0 0 false (.zeroed 8), false⟩

/-- The state with outstanding producers, numbered below the next access. -/
def withProds (ps : List Producer) (s : State) : State := s.modCore ⟨0, 0⟩ fun k => { k with prods := ps, opNo := 100 }

/-- The state with entries of the store buffer. -/
def withStores (es : List StoreEntry) (s : State) : State := s.modCore ⟨0, 0⟩ fun k => { k with stores := es, opNo := 100 }

/-- An entry of the store buffer for one byte. -/
def entry (no loc : Nat) : StoreEntry := ⟨no, [(loc, 5, 0xFF)], none, [(loc, false)], false, false, no⟩

/-- 32 loads that are outstanding. -/
def manyLoads : List Producer := (List.range 32).map fun i => ⟨i, 0, 0, none, 0, .ready (.word 0), false⟩

/-- A TLB entry that maps the page 0 of VF 0 to a die, of 64 KiB, for reading and writing. -/
def page0 (die : Nat) (repl : Bool) : TlbEntry := ⟨0, 0, 0, .ofNat 23 (die * 2 ^ 21), true, true, repl⟩

/-- A ready firing with c3, and a TLB entry. -/
def mapped (e : TlbEntry) : State := (holding (other 4) 5 0).modCore ⟨0, 0⟩ fun k => { k with tlb := k.tlb.set 0 (some e) }

/-- `ld.d x7, 0(c3)` passes its checks. -/
def loadPasses (s : State) (loc : Nat) (repl : Bool) : Prop :=
  ∃ f, loadInstr (s.core s.cur).regs (.ld 7 3 false 3 0) = some f ∧ f.Passes s loc repl

/-- `st.d x5, 0(c3)` passes its checks. -/
def storePasses (s : State) (loc : Nat) (repl : Bool) : Prop := ∃ f, storeInstr (.st 5 3 false 3 0) = some f ∧ f.Passes s loc repl

theorem witness_AccessChecks_space4 : (mapped (page0 0 false)).accessCheck ⟨0, 0⟩ (other 4) 0x1000 8 .store = .ok 0x1000 false := by decide

theorem witness_LoadResults_now :
    loadPasses (holding own 0 0) (2 ^ 39 + 0x1000) false ∧ (holding own 0 0).LoadsNow (2 ^ 39 + 0x1000) 8 false
    ∧ (holding own 0 0).mem.loadBad (2 ^ 39 + 0x1000) (((holding own 0 0).core ⟨0, 0⟩).forward (2 ^ 39 + 0x1000) 8) = false
    ∧ (let s := { holding own 0 0 with mem := (holding own 0 0).mem.setBad (2 ^ 39 + 0x1000) }
       loadPasses s (2 ^ 39 + 0x1000) false ∧ s.LoadsNow (2 ^ 39 + 0x1000) 8 false
        ∧ s.mem.loadBad (2 ^ 39 + 0x1000) ((s.core ⟨0, 0⟩).forward (2 ^ 39 + 0x1000) 8) = true) :=
  ⟨⟨_, rfl, issues_of (by decide), by decide⟩, by unfold State.LoadsNow; decide, by decide, ⟨_, rfl, issues_of (by decide), by decide⟩,
    by unfold State.LoadsNow; decide, by decide⟩

theorem witness_LoadResults_waits :
    (let s := withProds [atomicOut 0] (holding own 0 0)
     loadPasses s (2 ^ 39 + 0x1000) false ∧ ¬ s.LoadsNow (2 ^ 39 + 0x1000) 8 false) :=
  ⟨⟨_, rfl, issues_of (by decide), by decide⟩, fun h => absurd h (by unfold State.LoadsNow; decide)⟩

/-- The access that the core issues next is performed late. -/
def lately (s : State) : State := s.modCore ⟨0, 0⟩ fun k => { k with late := true }

theorem witness_LoadResults_late :
    loadPasses (lately (holding own 0 0)) (2 ^ 39 + 0x1000) false ∧ ((lately (holding own 0 0)).core ⟨0, 0⟩).late = true
    ∧ ((holding own 0 0).core ⟨0, 0⟩).late = false :=
  ⟨⟨_, rfl, issues_of (by decide), by decide⟩, by decide, by decide⟩

theorem witness_LoadResults_long :
    (loadPasses (holding (other 2) 0 0) (2 ^ 39 + 0x1000) false ∧ ((holding (other 2) 0 0).core ⟨0, 0⟩).loadsOut < 32)
    ∧ (loadPasses (mapped (page0 1 false)) (2 ^ 37 + 0x1000) false ∧ ((mapped (page0 1 false)).core ⟨0, 0⟩).loadsOut < 32)
    ∧ (let s := withProds manyLoads (holding (other 2) 0 0); loadPasses s (2 ^ 39 + 0x1000) false ∧ 32 ≤ (s.core ⟨0, 0⟩).loadsOut) :=
  ⟨⟨⟨_, rfl, issues_of (by decide), by decide⟩, by decide⟩,
    ⟨⟨_, rfl, issues_of (by decide), by decide⟩, by decide⟩, ⟨_, rfl, issues_of (by decide), by decide⟩, by decide⟩

/-- The access of `ld.d x7, 0(c3)` to a page that its capability's space 4 does not map was emulated with the value 9. -/
def emulated : State := (holding (other 4) 0 0).modCore ⟨0, 0⟩ fun k => { k with emul := [(0x1000, 9)] }

theorem witness_LoadResults_emulated :
    (∃ f, loadInstr (emulated.core emulated.cur).regs (.ld 7 3 false 3 0) = some f
      ∧ emulated.Issues emulated.cur [⟨.c f.base, f.wait⟩] (emulated.loadDest emulated.cur ((emulated.core emulated.cur).regs.readC f.base).space f.dest)
      ∧ emulated.accessCheck emulated.cur ((emulated.core emulated.cur).regs.readC f.base) (f.addr (emulated.core emulated.cur).regs) f.bytes .load = .emulated 9)
    ∧ (emulated.core emulated.cur).loadsOut < 32
    ∧ (let s := withProds manyLoads emulated
       (∃ f, loadInstr (s.core s.cur).regs (.ld 7 3 false 3 0) = some f
        ∧ s.Issues s.cur [⟨.c f.base, f.wait⟩] (s.loadDest s.cur ((s.core s.cur).regs.readC f.base).space f.dest)
        ∧ s.accessCheck s.cur ((s.core s.cur).regs.readC f.base) (f.addr (s.core s.cur).regs) f.bytes .load = .emulated 9)
       ∧ 32 ≤ (s.core s.cur).loadsOut) :=
  ⟨⟨_, rfl, issues_of (by decide), by decide⟩, by decide, ⟨_, rfl, issues_of (by decide), by decide⟩, by decide⟩

theorem witness_LoadResults_values : [(1 : Byte), 2].length = 2 ∧ 2 ∈ [1, 2, 4, 8]
    ∧ (((withStores [entry 3 0x40] (holding own 0 0)).core ⟨0, 0⟩).prods = [] ∧ (0x40, (5 : Byte), (0xFF : Byte)) ∈ (entry 3 0x40).bytes
      ∧ ((entry 3 0x40).bytes.map Prod.fst).Nodup ∧ [entry 3 0x40] = [entry 3 0x40].dropLast ++ [entry 3 0x40]) := by decide

theorem witness_StoreResults : storePasses (holding own 5 0) (2 ^ 39 + 0x1000) false
    ∧ ((holding own 0 0).Issues (holding own 0 0).cur [⟨.c 3, false⟩, ⟨.c 3, false⟩] []
      ∧ (holding own 0 0).accessCheck ⟨0, 0⟩ own 0x1000 16 .store = .ok (2 ^ 39 + 0x1000) false ∧ own.perm.getLsbD 3 = true
      ∧ ((holding own 0 0).core ⟨0, 0⟩).entries < 16)
    ∧ (let w : Cap := { own with perm := 7 }
       (holding w 0 0).Issues (holding w 0 0).cur [⟨.c 3, false⟩, ⟨.c 3, false⟩] [] ∧ w.tag = true ∧ w.perm.getLsbD 3 = false
        ∧ (holding w 0 0).accessFails ⟨0, 0⟩ w 0x1000 16 .store = none)
    ∧ (let w : Cap := { other 4 with perm := 7 }
       (holding w 0 0).Issues (holding w 0 0).cur [⟨.c 3, false⟩, ⟨.c 3, false⟩] [] ∧ w.tag = true ∧ w.perm.getLsbD 3 = false
        ∧ (holding w 0 0).accessFails ⟨0, 0⟩ w 0x1000 16 .store = none ∧ (holding w 0 0).translate ⟨0, 0⟩ 0x1000 true = .miss 0x1000 true) :=
  ⟨⟨_, rfl, issues_of (by decide), by decide, by decide⟩, ⟨issues_of (by decide), by decide⟩, ⟨issues_of (by decide), by decide⟩, issues_of (by decide), by decide⟩

theorem witness_WordAndFieldAccesses :
    (let s := holding own 9 5
     s.Issues s.cur [⟨.c 3, false⟩] [] ∧ s.accessCheck s.cur own (own.cursor.toNat + 8 * (1 : BitVec 12).toInt) 8 .storeFull = .ok (2 ^ 39 + 0x1008) false
      ∧ (s.core s.cur).entries < 16)
    ∧ (let s := holding own 9 5
       ∃ f, loadInstr (s.core s.cur).regs (.ld 7 3 false 3 0) = some f ∧ s.Issues s.cur [⟨.c 3, false⟩] [.x 7]
        ∧ s.accessCheck s.cur own (f.addr (s.core s.cur).regs) f.bytes .loadFull = .ok (2 ^ 39 + 0x1000) false ∧ (s.core s.cur).loadsOut < 32)
    ∧ (let s := holding own 9 5
       ∃ f, fieldLoad (.ldbx 7 3 false 5 31) = some f ∧ s.Issues s.cur [⟨.c f.base, f.wait⟩, ⟨.x f.offset, f.wait⟩] [.x f.dest]
        ∧ (s.takeX s.cur f.offset).2.accessCheck s.cur own (fieldBytes (firstBit own (s.takeX s.cur f.offset).1) f.width).1
          (fieldBytes (firstBit own (s.takeX s.cur f.offset).1) f.width).2 .loadBits = .ok (2 ^ 39 + 0x1001) false
        ∧ (s.takeX s.cur f.offset).2.mayPerform s.cur (loadOp 0 (2 ^ 39 + 0x1001) 5 false) = true)
    ∧ (let s := holding own 60 5
       s.Issues s.cur [⟨.c 3, false⟩, ⟨.x 5, false⟩, ⟨.x 6, false⟩] []
        ∧ s.accessCheck s.cur own (fieldBytes (firstBit own 60) 32).1 (fieldBytes (firstBit own 60) 32).2 .storeBits = .ok (2 ^ 39 + 0x1007) false
        ∧ (s.core s.cur).entries ≤ 14) :=
  ⟨⟨issues_of (by decide), by decide⟩, ⟨_, rfl, issues_of (by decide), by decide⟩, ⟨_, rfl, issues_of (by decide), by decide, by decide⟩, issues_of (by decide), by decide⟩

/-- A firing with c3 and a VL. -/
def vectors (cap : Cap) (n : Nat) : State := (holding cap 64 0).modRegs ⟨0, 0⟩ fun r => { r with lanes := 128, vl := n }

theorem witness_WordAndFieldAccesses_late :
    let s := lately (holding own 9 5)
    ∃ f, fieldLoad (.ldbx 7 3 false 5 31) = some f ∧ s.Issues s.cur [⟨.c f.base, f.wait⟩, ⟨.x f.offset, f.wait⟩] [.x f.dest]
      ∧ (s.takeX s.cur f.offset).2.accessCheck s.cur own (fieldBytes (firstBit own (s.takeX s.cur f.offset).1) f.width).1
          (fieldBytes (firstBit own (s.takeX s.cur f.offset).1) f.width).2 .loadBits = .ok (2 ^ 39 + 0x1001) false
      ∧ ((s.takeX s.cur f.offset).2.core s.cur).late = true :=
  ⟨_, rfl, issues_of (by decide), by decide, by decide⟩

/-- What a vector store of the tests puts into the buffer. -/
def elemsOf (s : State) (f : VecMemForm) : List StoreEntry :=
  vecElems ((s.afterReads s.cur f.srcs).core s.cur).opNo ((((s.afterReads s.cur f.srcs).core s.cur).regs.on f.mask).map fun i => (i, 2 ^ 39 + 0x1000 + 64 * i, false)) f.bytes
    fun j => (((s.afterReads s.cur f.srcs).core s.cur).regs.lane f.reg j).toNat

/-- `vsts v1, (c3), x5` over elements 64 bytes apart passes its checks, and how many blocks it touches. -/
def vectorStores (s : State) (blocks : Nat) : Prop :=
  ∃ f, vecStoreForm (.vsts 1 3 5 0 0) = some f ∧ s.Issues s.cur f.srcs [] ∧ f.PassesAt s .store (fun i => 2 ^ 39 + 0x1000 + 64 * i) (fun _ => false)
    ∧ vecBlocks (elemsOf s f) = blocks

theorem witness_VectorMemory_blocks :
    (vectorStores (vectors own 16) 16 ∧ ((vectors own 16).core ⟨0, 0⟩).entries + 16 ≤ 16)
    ∧ (vectorStores (withStores [entry 3 0x40] (vectors own 16)) 16 ∧ 16 < ((withStores [entry 3 0x40] (vectors own 16)).core ⟨0, 0⟩).entries + 16)
    ∧ (vectorStores (vectors own 17) 17 ∧ ((vectors own 17).core ⟨0, 0⟩).stores = [])
    ∧ (vectorStores (withStores [entry 3 0x40] (vectors own 17)) 17 ∧ ((withStores [entry 3 0x40] (vectors own 17)).core ⟨0, 0⟩).stores ≠ []) := by
  refine ⟨⟨⟨_, rfl, issues_of (by decide), ?_, by decide⟩, by decide⟩, ⟨⟨_, rfl, issues_of (by decide), ?_, by decide⟩, by decide⟩,
    ⟨⟨_, rfl, issues_of (by decide), ?_, by decide⟩, by decide⟩, ⟨⟨_, rfl, issues_of (by decide), ?_, by decide⟩, by decide⟩⟩
  all_goals (unfold VecMemForm.PassesAt; decide)

theorem witness_VectorMemory :
    (let s := vectors own 2
     ∃ f, vecLoadForm (.vld 1 3 0 0) = some f ∧ s.Issues s.cur f.srcs [.v f.reg] ∧ f.PassesAt s .load (fun i => 2 ^ 39 + 0x1000 + 4 * i) (fun _ => false)
      ∧ ((s.afterReads s.cur f.srcs).core s.cur).regs.on f.mask = [0, 1])
    ∧ (let s := lately (vectors own 2)
       ∃ f, vecLoadForm (.vld 1 3 0 0) = some f ∧ s.Issues s.cur f.srcs [.v f.reg] ∧ f.PassesAt s .load (fun i => 2 ^ 39 + 0x1000 + 4 * i) (fun _ => false)
        ∧ ((s.afterReads s.cur f.srcs).core s.cur).late = true)
    ∧ (let s := vectors (other 2) 2
       ∃ f, vecLoadForm (.vld 1 3 0 0) = some f ∧ s.Issues s.cur f.srcs [.v f.reg] ∧ f.PassesAt s .load (fun i => 2 ^ 39 + 0x1000 + 4 * i) (fun _ => false)
        ∧ (s.core s.cur).loadsOut < 32)
    ∧ 4 ∈ [1, 2, 4] ∧ (∀ e ∈ [((0 : Nat), (0 : Nat), false), (1, 64, false)], e.2.1 % 4 = 0)
    ∧ ((withStores [entry 3 0x40] (vectors own 17)).core ⟨0, 0⟩).entries ≤ 16 := by
  refine ⟨⟨_, rfl, issues_of (by decide), ?_, by decide⟩, ⟨_, rfl, issues_of (by decide), ?_, by decide⟩, ⟨_, rfl, issues_of (by decide), ?_, by decide⟩, by decide, by decide⟩
  all_goals (unfold VecMemForm.PassesAt; decide)

/-- `aadd x7, (c3), x5` passes its checks. -/
def atomicPasses (s : State) (loc : Nat) (repl : Bool) : Prop := ∃ f, atomicForm (.aadd 7 3 5 false false 0 2) = some f ∧ f.Passes s loc repl

theorem witness_Atomics :
    (atomicPasses (holding own 5 0) (2 ^ 39 + 0x1000) false ∧ ((holding own 5 0).core ⟨0, 0⟩).stores = [] ∧ ((holding own 5 0).core ⟨0, 0⟩).late = false)
    ∧ (atomicPasses (lately (holding own 5 0)) (2 ^ 39 + 0x1000) false ∧ ((lately (holding own 5 0)).core ⟨0, 0⟩).late = true)
    ∧ (atomicPasses (holding (other 2) 5 0) (2 ^ 39 + 0x1000) false ∧ homeDie (2 ^ 39 + 0x1000) = dieOf 0 ∧ ((holding (other 2) 5 0).core ⟨0, 0⟩).loadsOut < 32)
    ∧ (atomicPasses (mapped (page0 1 false)) (2 ^ 37 + 0x1000) false ∧ homeDie (2 ^ 37 + 0x1000) ≠ dieOf 0)
    ∧ State.reset.mem.wf = true ∧ AtomicOp.addz = .addz ∧ State.reset.atomicOld ⟨0, 0x1000, 8, .addz, 0, 0, 0⟩ + 0 = 0
    ∧ State.reset.allPerformed ⟨0, 0⟩ 0 = true ∧ (withStores [entry 3 0x40] (ready id)).allPerformed ⟨0, 0⟩ 9 = false
    ∧ (withStores [entry 3 0x40] (ready id)).mem.wf = true ∧ (withStores [entry 3 0x40] (ready id)).atomicOld ⟨9, 0x1000, 8, .addz, 0, 0, 0⟩ + 0 = 0
    ∧ (let w := leNat ((withStores [entry 3 0x40] (ready id)).mem.read 0x1008 8); w / 2 ^ 36 % 2 ^ 12 = 0 ∧ w / 2 ^ 33 % 8 = 0)
    ∧ (let w := leNat (State.reset.mem.read 0x1008 8); w / 2 ^ 36 % 2 ^ 12 = 0 ∧ w / 2 ^ 33 % 8 = 0)
    ∧ (State.reset.mem.setByte 0x100F 1).wf = true ∧ (let w := leNat ((State.reset.mem.setByte 0x100F 1).read 0x1008 8); w / 2 ^ 36 % 2 ^ 12 = 0)
    ∧ (State.reset.mem.setByte 0x100D 1).wf = true ∧ (let w := leNat ((State.reset.mem.setByte 0x100D 1).read 0x1008 8); w / 2 ^ 36 % 2 ^ 12 ≠ 0)
    ∧ (inRope id State.reset).ropes.get 0 = some bareRope ∧ bareRope.notifyLost ≠ 0xFFFFFFFF :=
  ⟨⟨⟨_, rfl, issues_of (by decide), by decide⟩, by decide⟩, ⟨⟨_, rfl, issues_of (by decide), by decide⟩, by decide⟩,
    ⟨⟨_, rfl, issues_of (by decide), by decide⟩, by decide, by decide⟩,
    ⟨⟨_, rfl, issues_of (by decide), by decide⟩, by decide⟩, by decide⟩

/-! ## Ordering, waiting, barriers -/

theorem witness_FencesAndWaits :
    (ready id).Issues (ready id).cur [] [] ∧ (1 : BitVec 2).getLsbD 0 = true ∧ ((withProds [atomicOut 0] (ready id)).core ⟨0, 0⟩).loadsLeft ≠ 0
    ∧ (withProds [atomicOut 0] (ready id)).Issues (ready id).cur [] [] ∧ (2 : BitVec 2).getLsbD 0 = false ∧ (2 : BitVec 2).getLsbD 1 = true
    ∧ ((withProds [atomicOut 0] (ready id)).core ⟨0, 0⟩).stores = [] ∧ ((withStores [entry 3 0x40] (ready id)).core ⟨0, 0⟩).stores ≠ []
    ∧ (withStores [entry 3 0x40] (ready id)).Issues (ready id).cur [] [] :=
  ⟨issues_of (by decide), by decide, by decide, issues_of (by decide), by decide, by decide, by decide, by decide, issues_of (by decide)⟩

/-- A firing that waits for a write to a word. -/
def monitoring (woken : Bool) : State :=
  readyCore fun k => { k with wait := .waita 7 (2 ^ 39 + 0x1000) false 0 woken, prods := [⟨7, 0, 0, some (.x 9), 0, .monitor, false⟩] }

theorem witness_Waits :
    (let s := holding own 0 1
     s.Issues s.cur [⟨.c 3, false⟩, ⟨.x 5, false⟩] [.x 7] ∧ s.accessCheck s.cur own own.cursor.toNat 8 .waita = .ok (2 ^ 39 + 0x1000) false
      ∧ s.mayLoad s.cur (loadOp 0 (2 ^ 39 + 0x1000) 8 false) = true ∧ s.replicaPending s.cur (loadOp 0 (2 ^ 39 + 0x1000) 8 false) = false
      ∧ (∀ e ∈ (s.core s.cur).stores, e.op.overlaps (loadOp 0 (2 ^ 39 + 0x1000) 8 false) = false) ∧ s.mem.badIn (2 ^ 39 + 0x1000) 8 = false
      ∧ (∀ p ∈ (s.core s.cur).prods, p.waiting = false) ∧ (s.core s.cur).late = false
      ∧ (.ofNat 64 (leNat (s.mem.read (2 ^ 39 + 0x1000) 8)) : Word64) = (s.takeX s.cur 5).1
      ∧ (.ofNat 64 (leNat (s.mem.read (2 ^ 39 + 0x1000) 8)) : Word64) ≠ (s.takeX s.cur 6).1)
    ∧ (∀ b : Bool, ((monitoring b).core ⟨0, 0⟩).producer 7 = some ⟨7, 0, 0, some (.x 9), 0, .monitor, false⟩)
    ∧ ((monitoring false).core ⟨0, 0⟩).wait = .waita 7 (2 ^ 39 + 0x1000) false 0 false
    ∧ ((monitoring true).core ⟨0, 0⟩).wait = .waita 7 (2 ^ 39 + 0x1000) false 0 true
    ∧ (monitoring true).copyAsleep 0 (2 ^ 39 + 0x1000) false = false ∧ (monitoring true).replicaPending ⟨0, 0⟩ (loadOp 7 (2 ^ 39 + 0x1000) 8 false) = false
    ∧ (let s := { (monitoring true).modCore ⟨0, 0⟩ (fun k => { k with wait := .waita 7 0x1000 false 0 true }) with
        power := { Power.reset with thermal := Power.reset.thermal.set 0 3 } }
       (s.core ⟨0, 0⟩).wait = .waita 7 0x1000 false 0 true ∧ s.copyAsleep 0 0x1000 false = true)
    ∧ 0 + 2 ^ 20 ≤ ({ monitoring false with now := 0x100000 } : State).now.toNat ∧ (monitoring false).now.toNat < 0 + 2 ^ 20
    ∧ (⟨0, 0⟩ : CoreId) ≠ ⟨0, 1⟩ ∧ (2 ^ 39 + 0x103F) / 64 ≤ (2 ^ 39 + 0x1000) / 64 ∧ (2 ^ 39 + 0x1000) / 64 ≤ (2 ^ 39 + 0x103F + 1 - 1) / 64 :=
  ⟨⟨issues_of (by decide), by decide⟩, by decide, by decide⟩

/-- A `waita` that is performed after its issue, first not armed and then armed. -/
def armLate (p : Pending) (s : State) : State := withProds [⟨7, 0, 0, some (.x 9), 0, p, true⟩] s

theorem witness_Waits_late :
    (let s := lately (holding own 0 1)
     s.Issues s.cur [⟨.c 3, false⟩, ⟨.x 5, false⟩] [.x 7] ∧ s.accessCheck s.cur own own.cursor.toNat 8 .waita = .ok (2 ^ 39 + 0x1000) false
      ∧ (∀ p ∈ (s.core s.cur).prods, p.waiting = false) ∧ (s.core s.cur).late = true)
    ∧ (let s := armLate (.arm 0 (2 ^ 39 + 0x1000) false) (holding own 0 1)
       s.Issues s.cur [⟨.c 3, false⟩, ⟨.x 5, false⟩] [.x 7] ∧ s.accessCheck s.cur own own.cursor.toNat 8 .waita = .ok (2 ^ 39 + 0x1000) false
        ∧ (∃ p ∈ (s.core s.cur).prods, p.waiting = true)
        ∧ (s.core ⟨0, 0⟩).producer 7 = some ⟨7, 0, 0, some (.x 9), 0, .arm 0 (2 ^ 39 + 0x1000) false, true⟩
        ∧ s.mayArm ⟨0, 0⟩ (loadOp 7 (2 ^ 39 + 0x1000) 8 false) = true
        ∧ (withStores [entry 3 (2 ^ 39 + 0x1000)] s).mayArm ⟨0, 0⟩ (loadOp 7 (2 ^ 39 + 0x1000) 8 false) = false)
    ∧ (∀ b : Bool, let s := armLate (.armed (2 ^ 39 + 0x1000) false 0 b) (ready id)
       let p : Producer := ⟨7, 0, 0, some (.x 9), 0, .armed (2 ^ 39 + 0x1000) false 0 b, true⟩
       (s.core ⟨0, 0⟩).wait = .none ∧ (s.core ⟨0, 0⟩).prods = [p] ∧ (s.core ⟨0, 0⟩).producer 7 = some p ∧ p.firing = (s.core ⟨0, 0⟩).firingNo
        ∧ s.copyAsleep 0 (2 ^ 39 + 0x1000) false = false ∧ s.replicaPending ⟨0, 0⟩ (loadOp 7 (2 ^ 39 + 0x1000) 8 false) = false)
    ∧ (let s := { armLate (.armed 0x1000 false 0 true) (ready id) with power := { Power.reset with thermal := Power.reset.thermal.set 0 3 } }
       s.copyAsleep 0 0x1000 false = true) :=
  ⟨⟨issues_of (by decide), by decide⟩, ⟨issues_of (by decide), by decide⟩, by decide, by decide⟩

/-- The ready firing has arrived at its cluster barrier, or at its barrier tree with a value. -/
def arrived (cbar : Bool) : State :=
  (inRope (fun r => if cbar then { r with strands := [⟨0, [⟨0, 0, 4096⟩], [0], false⟩] } else { r with tree := [(0, 0, some 7)] })
    (readyCore fun k => { k with wait := if cbar then .cbar else .tree (some 9) }))

theorem witness_Barriers :
    (ready id).Issues (ready id).cur [] [] ∧ (ready id).mayArrive (ready id).cur = true
    ∧ (withStores [entry 3 0x40] (ready id)).Issues (ready id).cur [] [] ∧ (withStores [entry 3 0x40] (ready id)).mayArrive (ready id).cur = false
    ∧ oneTwo.Issues oneTwo.cur [⟨.x 5, false⟩] [.x 7] ∧ (oneTwo.core oneTwo.cur).regs.binding 5 = .unbound :=
  ⟨issues_of (by decide), by decide, issues_of (by decide), by decide, issues_of (by decide), by decide⟩

theorem witness_BarriersComplete :
    (let s := arrived true
     ∃ r st, s.ropes.get 0 = some r ∧ r.strands[0]? = some st ∧ st.arrived ≠ [] ∧ (∀ k ∈ r.gang 0, k ∈ st.arrived) ∧ st.arrived.Nodup ∧ (∀ k ∈ st.arrived, k < 8)
      ∧ (s.core ⟨st.cluster, 0⟩).running.isSome = true)
    ∧ (let s := inRope id (ready id)
       ∃ r st, s.ropes.get 0 = some r ∧ r.strands[0]? = some st ∧ st.arrived = [])
    ∧ (let s := arrived false
       ∃ r, s.ropes.get 0 = some r ∧ r.tree ≠ [] ∧ (∀ g ∈ r.gangCores, ∃ a ∈ r.tree, (a.1, a.2.1) = g) ∧ (r.tree.map fun a => (a.1, a.2.1)).Nodup
        ∧ (∀ a ∈ r.tree, a.2.1 < 16) ∧ (s.core ⟨0, 0⟩).wait = .tree (some 9) ∧ (s.core ⟨0, 0⟩).regs.binding 9 = .unbound)
    ∧ (let s := inRope id (ready id); ∃ r, s.ropes.get 0 = some r ∧ r.tree = [])
    ∧ (3 : Word64) ∈ [5, (3 : Word64)] :=
  ⟨⟨_, _, rfl, rfl, by decide⟩, ⟨_, _, rfl, rfl, by decide⟩, ⟨_, rfl, by decide⟩, ⟨_, rfl, by decide⟩, by decide⟩

/-! ## System instructions, ends, ports -/

theorem witness_SystemInstructions :
    (oneTwo.Issues oneTwo.cur [] [.x 7] ∧ (oneTwo.core oneTwo.cur).own = [] ∧ (oneTwo.core oneTwo.cur).scales = [])
    ∧ oneTwo.Issues oneTwo.cur [⟨.x 5, false⟩] [] ∧ oneTwo.spreading (oneTwo.partAt oneTwo.cur) = false
    ∧ (let s := oneTwo.modPart 0 fun p => { p with spread := [(CoreId.key ⟨0, 0⟩, 1000)] }
       s.Issues s.cur [] [] ∧ s.spreading (s.partAt s.cur) = true)
    ∧ ((withProds [atomicOut 0] oneTwo).Issues (withProds [atomicOut 0] oneTwo).cur [] [.x 7]
      ∧ ((withProds [atomicOut 0] oneTwo).core (withProds [atomicOut 0] oneTwo).cur).own ≠ [])
    ∧ (oneTwo.Issues oneTwo.cur [] [])
    ∧ (let s := oneTwo.modPart 0 fun p => { p with len := 4 }
       s.Issues s.cur [] [] ∧ s.cur.core < 8 ∧ (s.part (s.partAt s.cur)).base ≤ s.cur.cluster
        ∧ s.cur.cluster < (s.part (s.partAt s.cur)).base + (s.part (s.partAt s.cur)).len)
    ∧ (12 : Word64).toNat % 8 ≤ 4 ∧ 5 ≤ (13 : Word64).toNat % 8
    ∧ ((oneTwo.core ⟨0, 0⟩).running.isSome = true ∧ 1 ≤ (0x100000 : Word64).toNat % 2 ^ 21 ∧ (0x100000 : Word64).toNat % 2 ^ 21 ≤ 0x100000)
    ∧ (0x100000 : Nat) < (0x100001 : Word64).toNat % 2 ^ 21 ∧ (0x030 : BitVec 12) ∉ [0x000, 0x001, 0x002, 0x010, (0x014 : BitVec 12)] :=
  ⟨⟨issues_of (by decide), by decide⟩, issues_of (by decide), by decide, ⟨issues_of (by decide), by decide⟩, ⟨issues_of (by decide), by decide⟩, issues_of (by decide), ⟨issues_of (by decide), by decide⟩, by decide⟩

/-- A firing of a text of 4 bytes, with a port for `data:1` messages. -/
def handled : State := fetching fun k => k.modCur fun t => { t with ins := [⟨0, 4, 1, [], 0, 0, []⟩] }

/-- Writes to HBIND: of handler 2 with the bits of port 0 and an entry at 0; of the empty mask; of the port 1 that is not there; and of an entry outside the text. -/
theorem witness_SystemInstructions_hbind :
    handled.textAt ⟨0, 0⟩ = some ⟨0, 0, [0x30, 0, 0xA0, 0x08], []⟩
    ∧ (let w : Word64 := 0x10102
       w.getLsbD 16 = true ∧ fieldAt w 8 8 ≠ 0 ∧ fieldAt w 32 22 % 4 = 0 ∧ fieldAt w 32 22 < 4
        ∧ ∀ k < 8, w.getLsbD (8 + k) = true → ∃ p ∈ (handled.core ⟨0, 0⟩).curSlot.ins[k]?.toList, p.rate ≠ 0)
    ∧ (0x10002 : Word64).getLsbD 16 = true ∧ fieldAt 0x10002 8 8 = 0
    ∧ ((0x10202 : Word64).getLsbD (8 + 1) = true ∧ (handled.core ⟨0, 0⟩).curSlot.ins[1]? = none)
    ∧ 4 ≤ fieldAt 0x400010102 32 22 := by decide

theorem witness_SystemInstructions_reads :
    (let s := inRope id oneTwo; s.ropeAt ⟨0, 0⟩ = some bareRope)
    ∧ State.reset.power.thermal.toList[3]? = some 0 ∧ (∀ t ∈ State.reset.power.thermal.toList, t ≤ 3)
    ∧ (0 ∈ State.reset.power.temp.toList ∧ (∀ t ∈ State.reset.power.temp.toList, t ≤ 0))
    ∧ (let s := { ready id with vfs := [(0, guest0 [])] }; s.vfs.get (s.vfAt ⟨0, 0⟩) = some (guest0 []))
    ∧ State.reset.power.target.toList[0]? = some 850 ∧ State.reset.power.nowMv.toList[0]? = some 850 ∧ (State.reset.part 0).votes.toList[0]? = some 0 := by decide

theorem witness_FiringEnds :
    ((ready id).core ⟨0, 0⟩).running = some 0 ∧ ((ready id).core ⟨0, 0⟩).wait.mayFinish = true ∧ ((ready id).core ⟨0, 0⟩).own = []
    ∧ ((ready id).core ⟨0, 0⟩).scales = [] ∧ (((ready id).core ⟨0, 0⟩).slots[(0 : Fin 16)]).barred = false
    ∧ (let s := readyCore fun k => k.modCur fun t => { t with barred := true }
       (s.core ⟨0, 0⟩).running = some 0 ∧ (s.core ⟨0, 0⟩).wait.mayFinish = true ∧ (s.core ⟨0, 0⟩).own = [] ∧ (s.core ⟨0, 0⟩).scales = []
        ∧ ((s.core ⟨0, 0⟩).slots[(0 : Fin 16)]).barred = true)
    ∧ (let s := withProds [⟨3, 8, 0, some (.x 9), 0, .fail .ecc 5, false⟩, atomicOut 0] (ready id)
       (s.core ⟨0, 0⟩).running = some 0 ∧ ∃ p ∈ (s.core s.cur).own, p.failure = none)
    ∧ (let s := withProds [⟨3, 8, 0, some (.x 9), 0, .fail .ecc 5, false⟩] (ready id)
       (s.core ⟨0, 0⟩).running = some 0 ∧ (∀ p ∈ (s.core s.cur).own, p.failure.isSome = true) ∧ (s.core s.cur).scales = []
        ∧ (s.core s.cur).failed = some (3, .ecc, 5, 8))

    ∧ [(⟨1, 0x40, true⟩ : Handler), ⟨2, 0x80, false⟩][1]? = some ⟨2, 0x80, false⟩ := by decide

/-- A stream job 3 of the ready firing, and the word that names it in x5. -/
def streaming : State :=
  (readyCore fun k => { k with regs := two 0x103 0 k.regs }).modCluster 0 fun k =>
    { k with jobs := k.jobs.set 3 ⟨1, .running, 0, 0, true, 0, 0, 0, .stream ⟨1, 0x1000, 8⟩, 8, 2, 0, [], [], false, false⟩ }

theorem witness_PortInstructions :
    (let s := bound .unbound 1 []
     s.Issues s.cur [] [] ∧ 24 ≤ (25 : BitVec 5).toNat ∧ (25 : BitVec 5).toNat < 28 ∧ (s.core s.cur).awaits 25 = false ∧ (s.core s.cur).sendLate = false
      ∧ (s.core s.cur).curSlot.ins[(0 : BitVec 3).toNat]?.isSome = true ∧ (s.core s.cur).curSlot.ins[(7 : BitVec 3).toNat]? = none
      ∧ (s.core s.cur).curSlot.outs[(0 : BitVec 3).toNat]?.isSome = true ∧ (s.core s.cur).curSlot.outs[(7 : BitVec 3).toNat]? = none
      ∧ ((bound (.recv 0) 0 []).core ⟨0, 0⟩).regs.binding 24 ≠ .unbound)
    ∧ (let s := streaming
       s.Issues s.cur [⟨.x 5, false⟩] [] ∧ (s.core s.cur).awaits 24 = false ∧ (s.core s.cur).regs.binding 5 = .unbound
        ∧ (∃ id j src, s.jobNamed s.cur ((s.core s.cur).regs.readX 5) = some (id, j) ∧ j.work = .stream src ∧ j.core = s.cur.core
          ∧ j.firing = (s.core s.cur).firingNo ∧ j.bound = false))
    ∧ (let s := streaming
       s.Issues s.cur [⟨.x 6, false⟩] [] ∧ (s.core s.cur).regs.binding 6 = .unbound ∧ s.jobNamed s.cur ((s.core s.cur).regs.readX 6) = none
        ∧ ∃ w, encode (.pbindStream 24 6 false) = some w) :=
  ⟨⟨issues_of (by decide), by decide⟩, ⟨issues_of (by decide), by decide, by decide, ⟨_, _, _, rfl, rfl, by decide⟩⟩,
    issues_of (by decide), by decide, by decide, _, rfl⟩

theorem witness_PortInstructions_late :
    let s := withProds [⟨3, 0, 0, some (.x 24), 0, .load (2 ^ 39 + 0x1000) 8 false (.zeroed 8), true⟩] (bound (.send 0 []) 1 [])
    (s.core s.cur).sendLate = true ∧ s.Issues s.cur [⟨.x 5, false⟩, ⟨.x 6, false⟩] [] ∧ s.Issues s.cur [] [] :=
  ⟨by decide, issues_of (by decide), issues_of (by decide)⟩

theorem witness_PortInstructions_send :
    (let s := bound .unbound 1 []
     s.Issues s.cur [⟨.x 5, false⟩, ⟨.x 6, false⟩] [] ∧ (s.core s.cur).sendLate = false ∧ (s.core s.cur).curSlot.outs[(0 : BitVec 3).toNat]? = some ⟨1, 1, 0x8000, 0, false, 0, [], []⟩
      ∧ (0x8000 : Word64).toNat % 2 ^ 36 ≠ 0 ∧ wordsOf 1 ≤ 2 ∧ (s.core s.cur).regs.sendPartial 0 = false ∧ (0 : Nat) ≠ 1 ∧ (s.core s.cur).sendQ.length < 8
      ∧ s.draining (s.partAt s.cur) = false)
    ∧ (let s := bound .unbound 1 [⟨1, [8, 9], false⟩]
       s.Issues s.cur [] [.x 7] ∧ (s.core s.cur).curSlot.ins[(0 : BitVec 3).toNat]? = some ⟨1, 4, 1, [⟨1, [8, 9], false⟩], 1, 0, []⟩ ∧ [(⟨1, [8, 9], false⟩ : Msg)].length < 128
        ∧ (s.core s.cur).curSlot.outs[(0 : BitVec 3).toNat]? = some ⟨1, 1, 0x8000, 0, false, 0, [], []⟩)
    ∧ (let s := bound .unbound 0x19 []
       s.Issues s.cur [⟨.x 5, false⟩] [] ∧ (s.core s.cur).regs.binding 5 = .unbound ∧ (2 ^ 39 : Word64).toNat < 2 ^ 40
        ∧ (s.core s.cur).curSlot.ins[(2 ^ 39 : Word64).toNat / 2 ^ 36 % 8]? = some ⟨0x19, 4, 1, [], 1, 0, []⟩
        ∧ (s.core s.cur).curSlot.ins[(2 ^ 39 + 2 ^ 36 : Word64).toNat / 2 ^ 36 % 8]? = none)
    ∧ (let s := bound .unbound 1 []
       s.Issues s.cur [⟨.x 5, false⟩] [] ∧ (s.core s.cur).regs.binding 5 = .unbound ∧ (0 : Word64).toNat < 2 ^ 39 ∧ 2 ^ 40 ≤ (2 ^ 40 : Word64).toNat) :=
  ⟨⟨issues_of (by decide), by decide⟩, ⟨issues_of (by decide), by decide⟩, ⟨issues_of (by decide), by decide⟩, issues_of (by decide), by decide⟩

/-! ## Engines -/

/-- A descriptor in ce0 and ce1, of c3 and of c4, with a kind, rows of 64 bytes and two rows 64 bytes apart. -/
def described (rowBytes kind : Nat) : State := ready fun r =>
  { ((two 0 64 r).putC 3 own).putC 4 (other 2) with
    ce := (r.ce.set 0 (.ofNat 128 (3 + 32 * (if kind = 0 then 4 else 0) + 2 ^ 10 * kind + 2 ^ 32 * rowBytes + 2 ^ 64))).set 1 (.ofNat 128 (64 + 2 ^ 64 * 64)) }

/-- The sources of `cpq x7, x5, x6, 0`. -/
def cpqSrcs (s : State) : List Src :=
  [⟨.x 5, false⟩, ⟨.x 6, false⟩, ⟨.c ((s.core s.cur).regs.descriptor 0).src, false⟩, ⟨.c ((s.core s.cur).regs.descriptor 0).dst, false⟩, ⟨.ce 0, false⟩, ⟨.ce 1, false⟩]

theorem witness_EngineInstructions :
    oneTwo.Issues oneTwo.cur [⟨.x 5, false⟩, ⟨.x 6, true⟩] [] ∧ oneTwo.Issues oneTwo.cur [⟨.x 5, false⟩] [.x 7]
    ∧ (2 ≤ (oneTwo.jobStatus oneTwo.cur 1).toNat % 8 ∧ oneTwo.Issues oneTwo.cur [⟨.x 5, false⟩] [])
    ∧ (streaming.jobStatus streaming.cur 0x103).toNat % 8 < 2
    ∧ (∃ w, encode (.cpq 7 5 6 false false 0) = some w)
    ∧ ((described 4 0).Issues (described 4 0).cur (cpqSrcs (described 4 0)) [.x 7] ∧ (((described 4 0).core (described 4 0).cur).regs.descriptor 0).legal = false)
    ∧ (let s := described 64 0
       let g := (s.core s.cur).regs.descriptor 0
       s.Issues s.cur (cpqSrcs s) [.x 7] ∧ g.legal = true ∧ g.stream = false ∧ s.sideFails s.cur own 0x1000 g.sstride g .load = none
        ∧ s.sideFails s.cur (other 2) 0x1040 g.dstride g .copyTo = none)
    ∧ (let s := described 64 1
       let g := (s.core s.cur).regs.descriptor 0
       s.Issues s.cur (cpqSrcs s) [.x 7] ∧ g.legal = true ∧ g.stream = true ∧ (s.core s.cur).streams < 4
        ∧ s.sideFails s.cur own 0x1000 g.sstride g .load = none)
    ∧ (let s := (described 64 1).modCore ⟨0, 0⟩ fun k => { k with streams := 4 }
       s.Issues s.cur (cpqSrcs s) [.x 7] ∧ ((s.core s.cur).regs.descriptor 0).legal = true ∧ 4 ≤ (s.core s.cur).streams)
    ∧ (let s := described 0x1008 0
       let g := (s.core s.cur).regs.descriptor 0
       s.Issues s.cur (cpqSrcs s) [.x 7] ∧ g.legal = true
        ∧ s.sideFails s.cur own 0x1000 g.sstride g .load = some (.capbounds, accessDetail 0x1000 1 false)
        ∧ s.rangeFails s.cur own 0x1000 g.rowBytes .load = some .capbounds)
    ∧ (let s := (described 64 0).modRegs ⟨0, 0⟩ fun r => r.putC 4 { other 2 with perm := 1 }
       let g := (s.core s.cur).regs.descriptor 0
       s.Issues s.cur (cpqSrcs s) [.x 7] ∧ g.legal = true ∧ g.stream = false ∧ s.sideFails s.cur own 0x1000 g.sstride g .load = none
        ∧ s.sideFails s.cur { other 2 with perm := 1 } 0x1040 g.dstride g .copyTo = some (.capperm, accessDetail 0x1040 2 true))
    ∧ (let s := described 64 0
       let g := (s.core s.cur).regs.descriptor 0
       (0x1FC0 : Int) % 8 = 0 ∧ s.rangeFails s.cur own 0x1FC0 g.rowBytes .load = none
        ∧ s.rangeFails s.cur own (0x1FC0 + (g.rows - 1 : Nat) * g.sstride) g.rowBytes .load = some .capbounds ∧ (0x1004 : Int) % 8 ≠ 0
        ∧ (s.core s.cur).regs.ce[2 * (0 : BitVec 3).toNat]?.isSome = true) :=
  ⟨issues_of (by decide), issues_of (by decide), ⟨by decide, issues_of (by decide)⟩, by decide, ⟨_, rfl⟩, ⟨issues_of (by decide), by decide⟩,
    ⟨issues_of (by decide), by decide⟩, ⟨issues_of (by decide), by decide⟩, ⟨issues_of (by decide), by decide⟩, ⟨issues_of (by decide), by decide⟩,
    ⟨issues_of (by decide), by decide⟩, by decide⟩

theorem witness_EngineInstructions_queue :
    32 ≤ (({ Cluster.reset with queue := List.range 32 } : Cluster).queue).length
    ∧ (State.reset.cluster 0).queue.length < 32 ∧ 0 < 64 ∧ ((State.reset.cluster 0).job 0).taken = false
    ∧ ∀ j < 64, (j + 64 - ((State.reset.cluster 0).jobPtr.toNat + 1)) % 64 < (0 + 64 - ((State.reset.cluster 0).jobPtr.toNat + 1)) % 64 →
        ((State.reset.cluster 0).job j).taken = true := by decide

/-- A rope with an itinerary of two stops. -/
def touring : Rope := { bareRope with decl := { bareRope.decl with itins := [⟨[0, 0], true, 0, 0, 5⟩] } }

/-- A tile that the ready firing holds, in slot 2 of cluster 0, and its handle in x5. -/
def tile (phase : TourPhase) : Tour where
  origin := 0
  job := 3
  rope := 0
  itinerary := 0
  len := 64
  at_ := some (0, 2)
  grant := none
  stop := 0
  lap := false
  lapRun := false
  mask := 0
  phase := phase
  holdFrom := none
  slotWait := 0
  expiries := 0
  fault := false
  reported := false

/-- The state with the tile, and a word in x5. -/
def withTile (phase : TourPhase) (w : Word64) : State :=
  { (inRope (fun _ => touring) (holding own w 0)).modCluster 0 (fun k => { k with slots := k.slots.set 2 ⟨7, .tile 4⟩ }) with tours := [(4, tile phase)] }

theorem witness_TourInstructions :
    (let s := withTile .leaving (64 * 2 ^ 16)
     s.Issues s.cur [⟨.x 5, false⟩, ⟨.c 3, false⟩] [.x 7] ∧ s.ropeAt s.cur = some touring ∧ (s.core s.cur).regs.binding 5 = .unbound
      ∧ (s.core s.cur).regs.readX 5 = 64 * 2 ^ 16 ∧ (64 * 2 ^ 16 : Word64).toNat < 2 ^ 33 ∧ (64 * 2 ^ 16 : Word64).toNat % 2 ^ 16 < touring.decl.itins.length
      ∧ (64 * 2 ^ 16 : Word64).toNat / 2 ^ 16 % 2 ^ 17 = 64 ∧ 64 % 8 = 0 ∧ own.cursor.toNat % 8 = 0 ∧ s.rangeFails s.cur own own.cursor.toNat 64 .load = none)
    ∧ (let s := withTile (.visited 0 0 0) (2 + 7 * 2 ^ 16)
       (s.core s.cur).regs.binding 5 = .unbound ∧ s.heldTour s.cur ((s.core s.cur).regs.readX 5) = some (4, tile (.visited 0 0 0))
        ∧ s.Issues s.cur [⟨.x 5, false⟩] [] ∧ s.Issues s.cur [⟨.x 5, false⟩] [.x 7] ∧ s.Issues s.cur [⟨.x 5, false⟩] [.c 7]
        ∧ (tile (.visited 0 0 0)).at_ = some (0, 2) ∧ (tile (.visited 0 0 0)).len ≤ 65536)
    ∧ (let s := withTile .leaving (2 + 7 * 2 ^ 16)
       (s.core s.cur).regs.binding 5 = .unbound ∧ s.heldTour s.cur ((s.core s.cur).regs.readX 5) = none
        ∧ s.Issues s.cur [⟨.x 5, false⟩] [] ∧ s.Issues s.cur [⟨.x 5, false⟩] [.x 7] ∧ s.Issues s.cur [⟨.x 5, false⟩] [.c 7]) :=
  ⟨⟨issues_of (by decide), by decide⟩, ⟨by decide, by decide, issues_of (by decide), issues_of (by decide), issues_of (by decide), by decide⟩,
    by decide, by decide, issues_of (by decide), issues_of (by decide), issues_of (by decide)⟩

/-! ## Matrix, routers, TLBs -/

/-- The ready firing with a geometry of ones, c3 as the capability of both operands and of drains, and two operand words. -/
def ganged (op1 op2 : Word64) : State := ready fun r => { (two op1 op2 r).putC 3 ({ own with base := 0, cursor := 0 }.withLen 0x10000) with
  me := (r.me.set 0 (.ofNat 128 (1 + 2 ^ 16 + 2 ^ 32 + 2 ^ 48 + 2 ^ 64 + 2 ^ 72 + 2 ^ 80 + 2 ^ 88 + 2 ^ 112 + 2 ^ 120))).set 1 (.ofNat 128 (3 + 2 ^ 8 * 3 + 2 ^ 16 * 3)) }

/-- The gang form of the tests: `mma.e4e4 x5, x6`, zero first, B from the scratchpad, bank 0. -/
def formE4e4 (s : State) : GangForm := ⟨0, (s.core s.cur).regs.readX 5, (s.core s.cur).regs.readX 6, 5, 6, 0, true, false, false, 0⟩

theorem witness_MatrixInstructions :
    (∃ f w, gangInstr (.mmaE4e4 5 6 false false true false false) = some f ∧ encode (.mmaE4e4 5 6 false false true false false) = some w
      ∧ (ganged 0 0).Issues (ganged 0 0).cur (f.srcs (ganged 0 0)) f.dests ∧ (ganged 0 0).gangFails (ganged 0 0).cur (formE4e4 (ganged 0 0)) (.ofNat 64 w.toNat) = none)
    ∧ (∃ f w, gangInstr (.mmaE4e4 5 6 false false true false false) = some f ∧ encode (.mmaE4e4 5 6 false false true false false) = some w
      ∧ (ganged (2 ^ 48) 0).Issues (ganged (2 ^ 48) 0).cur (f.srcs (ganged (2 ^ 48) 0)) f.dests
      ∧ (ganged (2 ^ 48) 0).gangFails (ganged (2 ^ 48) 0).cur (formE4e4 (ganged (2 ^ 48) 0)) (.ofNat 64 w.toNat) = some (.engine, .ofNat 64 w.toNat))
    ∧ (let s := ganged 0 0
       s.Issues s.cur [] [] ∧ 0 ∈ s.gangAt s.cur ∧ (s.cluster s.cur.cluster).bankPending s.cur.core false = false)
    ∧ (let s := { ganged 0 0 with ropes := [] }
       s.Issues s.cur [] [] ∧ 0 ∉ s.gangAt s.cur ∧ (encode (.mzero false)).isSome = true)
    ∧ (let s := ready (two 0 0); (s.core ⟨0, 0⟩).regs.geometryLegal 0 = false)
    ∧ (ganged 0 0).gangFails (ganged 0 0).cur { formE4e4 (ganged 0 0) with zero := true } 0 = none := by
  refine ⟨⟨_, _, rfl, rfl, issues_of (by decide), by decide +kernel⟩, ⟨_, _, rfl, rfl, issues_of (by decide), by decide +kernel⟩, ⟨issues_of (by decide), by decide +kernel⟩,
    ⟨issues_of (by decide), by decide +kernel⟩, by decide +kernel, by decide +kernel⟩

/-- The state with bank 0 of core 0 held by the strand of the ready firing. -/
def owned (s : State) : State := s.modCluster 0 fun k => k.modBank 0 false fun b => { b with owner := some (0, 0) }

theorem witness_MatrixInstructions_drain :
    (let s := owned (ganged 0 1024)
     let r := (s.core s.cur).regs
     let cap := r.readC r.dCap
     s.Issues s.cur [⟨.x 5, false⟩, ⟨.x 6, false⟩, ⟨.c r.dCap, false⟩, ⟨.me 1, false⟩] [] ∧ r.readX 5 = 0 ∧ r.readX 6 = 1024
      ∧ (s.cluster s.cur.cluster).bankPending s.cur.core false = false ∧ ((s.cluster s.cur.cluster).bank s.cur.core false).owner = some (0, 0)
      ∧ ((s.cluster s.cur.cluster).bank s.cur.core false).poison = false ∧ (s.core s.cur).curSlot.rope = 0 ∧ (s.core s.cur).curSlot.strand = 0
      ∧ r.me[1].toNat / 2 ^ 5 % 8 = 0 ∧ r.me[1].toNat / 2 ^ 13 % 8 = 0 ∧ r.me[1].toNat / 2 ^ 21 = 0 ∧ 1024 % 8 = 0 ∧ 128 * drainBytes 0 ≤ 1024
      ∧ cap.cursor.toNat % 8 = 0 ∧ s.checkRows s.cur cap cap.cursor.toNat 1024 (128 * drainBytes 0) 16 .drain = none ∧ (s.core s.cur).stores = [])
    ∧ (let s := (owned (ganged 0 1024)).modCluster 0 fun k => { k with steps := [⟨5, (0, 0), 0, 0, 0, 0, 0, none, [], [⟨0, false, true, 0, 0, 0, none, none⟩]⟩] }
       s.Issues s.cur [⟨.x 5, false⟩, ⟨.x 6, false⟩, ⟨.c (s.core s.cur).regs.dCap, false⟩, ⟨.me 1, false⟩] []
        ∧ (s.cluster s.cur.cluster).bankPending s.cur.core false = true)
    ∧ (let s := ganged 0 1024
       s.Issues s.cur [⟨.x 5, false⟩, ⟨.x 6, false⟩, ⟨.c (s.core s.cur).regs.dCap, false⟩, ⟨.me 1, false⟩] []
        ∧ (encode (.mdrain 5 6 false false 0 false)).isSome = true ∧ ((s.cluster 0).bank 0 false).owner ≠ some (0, 0))
    ∧ (let s := (owned (ganged 0 1024)).modCluster 0 fun k => k.modBank 0 false fun b => { b with poison := true }
       s.Issues s.cur [⟨.x 5, false⟩, ⟨.x 6, false⟩, ⟨.c (s.core s.cur).regs.dCap, false⟩, ⟨.me 1, false⟩] []
        ∧ ((s.cluster 0).bank 0 false).owner = some (0, 0) ∧ ((s.cluster 0).bank 0 false).poison = true) :=
  ⟨⟨issues_of (by decide), by decide +kernel⟩, ⟨issues_of (by decide), by decide +kernel⟩, ⟨issues_of (by decide), by decide +kernel⟩,
    issues_of (by decide), by decide +kernel⟩

/-- Cluster 0 belongs to partition 0. -/
def inPart (f : Part → Part) (s : State) : State := s.modPart 0 fun p => f { p with len := 1 }

/-- x5 holds the handle of slot 0 of router 0, generation 1; core 8 is the TSC. -/
def onTsc (a b : Word64) : State :=
  { (State.reset.withFiring []).modCore ⟨0, 8⟩ (fun k => { k with running := some 0, left := 9, regs := two a b k.regs }) with cur := ⟨0, 8⟩ }

theorem witness_NetworkInstructions :
    (let s := oneTwo
     s.requestWaits s.cur = false ∧ (∃ w, encode (.redslot 7 5 6 false false) = some w) ∧ s.Issues s.cur [⟨.x 5, false⟩, ⟨.x 6, false⟩] [.x 7]
      ∧ (s.core s.cur).regs.binding 5 = .unbound ∧ (s.core s.cur).regs.binding 6 = .unbound
      ∧ redslotBad (5 + 2 ^ 16 * 2) 0 = false ∧ redslotBad ((s.core s.cur).regs.readX 5) ((s.core s.cur).regs.readX 6) = true)
    ∧ (let s := ready (two (5 + 2 ^ 16 * 2) 0)
       s.requestWaits s.cur = false ∧ s.Issues s.cur [⟨.x 5, false⟩, ⟨.x 6, false⟩] [.x 7]
        ∧ redslotBad ((s.core s.cur).regs.readX 5) ((s.core s.cur).regs.readX 6) = false)
    ∧ (let s := inPart (fun p => { p with rate := 1, burst := 1, buckets := [(0, (0, 0))] }) (ready (two (5 + 2 ^ 16 * 2) 0))
       s.requestWaits s.cur = false ∧ s.limiterOpen (s.partAt s.cur) 0 = false ∧ s.Issues s.cur [⟨.x 5, false⟩, ⟨.x 6, false⟩] [.x 7]
        ∧ redslotBad ((s.core s.cur).regs.readX 5) ((s.core s.cur).regs.readX 6) = false)
    ∧ (let s := { ready (two (5 + 2 ^ 16 * 2) 0) with routes := [(0, ([], [], true))] }
       s.requestWaits s.cur = true ∧ s.Issues s.cur [⟨.x 5, false⟩, ⟨.x 6, false⟩] [.x 7]
        ∧ redslotBad ((s.core s.cur).regs.readX 5) ((s.core s.cur).regs.readX 6) = false)
    ∧ (let s := ready (two (2 ^ 16) 9)
       s.draining (s.partAt s.cur) = false ∧ s.requestWaits s.cur = false ∧ s.Issues s.cur [⟨.x 5, false⟩, ⟨.x 6, false⟩] [] ∧ (s.core s.cur).regs.binding 5 = .unbound
        ∧ (s.core s.cur).regs.binding 6 = .unbound ∧ handleReserved ((s.core s.cur).regs.readX 5) = false ∧ ((s.core s.cur).regs.readX 5).getLsbD 39 = false
        ∧ (s.core s.cur).sendLate = false ∧ (s.core s.cur).sendQ.length < 8 ∧ s.Issues s.cur [⟨.x 5, false⟩] [.x 7] ∧ s.Issues s.cur [⟨.x 5, false⟩] []
        ∧ (∃ w, encode (.redget 7 5 false) = some w) ∧ (∃ w, encode (.redfree 5 false) = some w))
    ∧ (oneTwo.cur.core ≠ 8 ∧ (∃ w, encode (.tlbw 6 5 false) = some w) ∧ ∃ w, encode (.tlbinv 5 false) = some w)
    ∧ (let s := onTsc (2 ^ 47) 5
       s.cur.core = 8 ∧ s.Issues s.cur [⟨.x 6, false⟩, ⟨.x 5, false⟩] [] ∧ (s.core s.cur).regs.readX 5 = 2 ^ 47 ∧ (2 ^ 47 : Word64).toNat < 2 ^ 55
        ∧ (5 : Word64).toNat < 2 ^ 26 ∧ (tlbEntryOf (2 ^ 47) 5).vpn.toNat % 2 ^ (pageBits (tlbEntryOf (2 ^ 47) 5).size - 16) = 0)
    ∧ (let s := onTsc (2 ^ 47) 5
       s.cur.core = 8 ∧ s.Issues s.cur [⟨.x 5, false⟩] [] ∧ s.deviceApplied s.cur.cluster (tagCores (2 ^ 47)) = true)
    ∧ (let k := (mapped (page0 0 false)).core ⟨0, 0⟩
       (k.tlb[0].any (page0 1 false).samePage) = true ∧ (∀ i (h : i < 64), (k.tlb[i].any ({ page0 1 false with vpn := 1 } : TlbEntry).samePage) = false)
        ∧ (page0 1 false).maps 0 0x1000 = true ∧ ({ page0 1 false with vpn := 1 } : TlbEntry).maps 0 0x1000 = false
        ∧ (((Core.reset).tlbWrite (page0 1 false)).tlbWrite { page0 1 false with vpn := 1 }).tlbFind 0 0x1000 true = some (page0 1 false)) := by
  refine ⟨⟨by decide, ⟨_, rfl⟩, issues_of (by decide), by decide⟩, ⟨by decide, issues_of (by decide), by decide⟩,
    ⟨by decide, by decide, issues_of (by decide), by decide⟩, ⟨by decide, issues_of (by decide), by decide⟩,
    ⟨by decide, by decide, issues_of (by decide), by decide, by decide, by decide, by decide, by decide, by decide, issues_of (by decide), issues_of (by decide), ⟨_, rfl⟩, _, rfl⟩,
    ⟨by decide, ⟨_, rfl⟩, _, rfl⟩, ⟨by decide, issues_of (by decide), by decide⟩, ⟨by decide, issues_of (by decide), by decide⟩, by decide⟩

/-! ## Launch, firings, ends -/

/-- The nonzero bytes of a run as memory cells. -/
def cellsAt (base : Nat) (bs : List Byte) : List Host.Cell := (bs.zipIdx.filter fun e => e.1 != 0).map fun e => (base + e.2, e.1)

/-- An image with one rope of one strand of one actor, whose port 0 is `data:1` and whose handler 0 is at offset 0. -/
def image0 : List Byte :=
  [0x5A, 0x4B, 0x49, 0x4D, 1, 0, 0, 0, 0x40, 0, 0, 0, 4, 0, 0, 0, 0x80, 0, 0, 0, 0, 0, 0, 0, 0x80, 0, 0, 0, 0, 0, 0, 0, 0x80, 0, 0, 0, 0x60, 0, 0, 0,
    1, 0, 1, 0, 1, 0, 0, 0] ++ List.replicate 80 0
    ++ [1, 0, 0xFF, 0xFF, 1, 0, 0, 0] ++ List.replicate 8 0 ++ [2, 0, 1, 0] ++ List.replicate 12 0
    ++ [3, 0, 1, 0, 1, 0, 0, 0, 16, 0, 0, 0, 0xFF, 0xFF, 0xFF, 0xFF] ++ [4, 0, 0, 1, 1] ++ List.replicate 11 0 ++ [6, 0, 1] ++ List.replicate 13 0
    ++ [0xF] ++ List.replicate 15 0

/-- Two levels of tables that map [0, 8 GiB) onto itself, and the image at 1 MiB. -/
def imaged : Memory := ⟨[(0, 1), (2, 1), (0x10000, 0xF)] ++ cellsAt 0x100000 image0, [], [], []⟩

/-- A launch message for rope 0 of the image. -/
def launch0 : Msg := ⟨7, [1 + 2 ^ 20, 0x100000, 0, 0, 0, 0x400000001, 0x400000002, 9], false⟩

/-- A machine with a partition of some clusters, VF 0 in it, holding the slice. -/
def hosted (len : Nat) (port : List Msg) : State :=
  { State.reset.modPart 0 fun p => { p with len := len, barctx := 4, slicePhase := .running 0 0 0 } with
    mem := imaged, vfs := [(0, guest0 port)], boot := { State.reset.boot with step := 6 } }

/-- The launch message passes its checks, or fails them. -/
def launches (m : Msg) : Bool := match (hosted 1 [m]).launchCheck 0 (guest0 [m]) ⟨m.words⟩ with | .inl _ => true | .inr _ => false

/-- The cable of the launch message, queued. -/
def queued0 : Cable := { cable0 with image := 0x100000, state := .queued, next := 0, placed := [] }

/-- The head cable's next rope can be placed, or does not fit. -/
def placeable (len : Nat) : Option Bool :=
  let s := { hosted len [] with cables := [(0, queued0)] }
  match s.vfs.get 0, s.headCable 0, s.readImage 0 0x100000 with
  | some v, some (n, c), .inl im =>
    match (c.ropes[c.next]?).bind (fun r => im.ropes[r]?), s.freeContext 0 (s.part v.part) with
    | some d, some _ =>
      if s.cables.get n = some c ∧ s.holdsSlice 0 = true ∧ (s.part v.part).halted = false then some (s.placeStrands (s.part v.part) s.fresh d.strands.zipIdx v.ptr []).isSome else none
    | _, _ => none
  | _, _, _ => none

/-- A placed rope that has not started. -/
def unstarted : Rope := { bareRope with image := 0x100000, scrubbed := false, fireable := false, toStart := [0] }

theorem witness_LaunchEvents_busy :
    (let s := withStores [entry 3 (2 ^ 39 + 0x40)] { hosted 1 [] with ropes := [(0, { unstarted with strands := [⟨0, [⟨0, 0, 4096⟩], [], false⟩] })] }
     ∃ st ∈ [(⟨0, [⟨0, 0, 4096⟩], [], false⟩ : Strand)], ∃ x ∈ st.extents, ∃ k < 8, ∃ a ∈ s.unperformed ⟨st.cluster, k⟩, a.store = true
      ∧ a.loc < locScratch st.cluster x.core x.base + x.len ∧ locScratch st.cluster x.core x.base < a.loc + a.bytes) := by
  refine ⟨_, List.mem_singleton.mpr rfl, _, List.mem_singleton.mpr rfl, 0, by decide, ?_⟩
  decide

theorem witness_LaunchEvents :
    (hosted 1 [launch0]).vfs.get 0 = some (guest0 [launch0]) ∧ launches launch0 = true ∧ (⟨launch0.words⟩ : LaunchWords).deps = []
    ∧ launches ⟨7, [], false⟩ = false ∧ placeable 1 = some true ∧ placeable 0 = some false
    ∧ ((hosted 1 [launch0]).imageAsleep 0 0x100000 = false ∧ (hosted 1 [launch0]).deviceAsleep 0 0 0 false = false)
    ∧ (let s := { hosted 1 [launch0] with power := { Power.reset with thermal := Power.reset.thermal.set 0 3 } }
       s.imageAsleep 0 (.ofNat 52 ((⟨launch0.words⟩ : LaunchWords).bits 1 0 52)) = true)
    ∧ (let s := { hosted 1 [] with ropes := [(0, unstarted)] }
       s.ropes.get 0 = some unstarted ∧ unstarted.scrubbed = false ∧ unstarted.ending = none ∧ (∀ st ∈ unstarted.strands, st.retired = false)
        ∧ s.extentsBusy unstarted = false
        ∧ s.imageAsleep unstarted.vf unstarted.image = false ∧ s.deviceAsleep unstarted.vf unstarted.argVa.toNat unstarted.argLen false = false
        ∧ s.argPlaced 0 unstarted = true ∧ (s.readImage 0 0x100000).isLeft = true ∧ 0 ∈ unstarted.toStart ∧ s.flight = [] ∧ 1 ∉ unstarted.toStart)
    ∧ ({ unstarted with ending := some .ended } : Rope).ending.isSome = true
    ∧ (let r := { unstarted with argVa := .ofNat 52 (2 ^ 40), argLen := 0x10000 }
       let s := { hosted 1 [] with ropes := [(0, r)] }
       s.ropes.get 0 = some r ∧ r.scrubbed = false ∧ r.ending = none ∧ (∀ st ∈ r.strands, st.retired = false) ∧ s.extentsBusy r = false ∧ s.imageAsleep r.vf r.image = false
        ∧ s.deviceAsleep r.vf r.argVa.toNat r.argLen false = false ∧ s.argPlaced 0 r = false) := by decide +kernel

/-- The slot of an actor whose `data:1` port holds a message, and whose handler 0 is enabled; no firing is under way. -/
def readySlot : State :=
  { (inRope id (readyCore fun k => { k.modCur fun t => { t with
      phase := .waiting, ins := [⟨0, 1, 1, [⟨0, [5], false⟩], 0, 0, []⟩], handlers := [⟨1, 0x40, true⟩] } with running := none })).modPart 0
    fun p => { p with slicePhase := .running 0 0 0 } with vfs := [(0, guest0 [])] }

theorem witness_FiringStarts :
    ((ready id).core ⟨0, 0⟩).running.isSome = true ∧ 8 ≤ (⟨0, 8⟩ : CoreId).core ∧ State.reset.pickSlot ⟨0, 0⟩ = none
    ∧ (let s := readySlot
       let t := (s.core ⟨0, 0⟩).slot 0
       (s.core ⟨0, 0⟩).running = none ∧ s.expireOverdue ⟨0, 0⟩ = s ∧ s.pickSlot ⟨0, 0⟩ = some (0, 0) ∧ t.chosen = some 0 ∧ t.handlers[0]? = some ⟨1, 0x40, true⟩
        ∧ s.ropes.get t.rope = some bareRope ∧ t.scratchLen = 0 ∧ s.tours = [])
    ∧ (let s := readySlot.modCore ⟨0, 0⟩ fun k => k.modSlot 0 fun t => { t with scratchLen := 4096 }
       s.pickSlot ⟨0, 0⟩ = some (0, 0) ∧ ((s.core ⟨0, 0⟩).slot 0).scratchLen ≠ 0) := by decide +kernel

/-- The rope's strand has retired. -/
def doneRope : Rope := { bareRope with strands := [⟨0, [⟨0, 0, 4096⟩], [], true⟩] }

/-- A held trap message. -/
def heldTrap : HeldTrap := ⟨⟨0, 0⟩, 0, 0, ⟨5, .trapUnit ⟨0, 0⟩ 0, 0, 0, 0x8000, ⟨0x1B, [1, 2, 3, 4], false⟩, 0, none⟩⟩

/-- The core waits in a drain to page 0 of its VF, or to its own scratchpad, with some entry in its TLB. -/
def drains (space : BitVec 3) (e : Option TlbEntry) : State :=
  inPart id (readyCore fun k => { k with wait := .mdrain space 0x1000 1024 0 false false 0, tlb := k.tlb.set 0 e })

theorem witness_EndingEvents_mdrain :
    (∀ e : Option TlbEntry, ((drains 4 e).core ⟨0, 0⟩).wait = .mdrain 4 0x1000 1024 0 false false 0)
    ∧ ((drains 4 none).core ⟨0, 0⟩).running.isSome = true ∧ ((drains 4 none).core ⟨0, 0⟩).park = none
    ∧ (match (drains 4 (some (page0 0 false))).translate ⟨0, 0⟩ 0x1000 true with | .ok loc repl => loc == 0x1000 && !repl | _ => false) = true
    ∧ (drains 4 (some (page0 0 false))).writeAsleep 0x1000 false = false ∧ (drains 4 (some (page0 0 false))).netDrains 0 0x1000 = false
    ∧ (drains 4 (some (page0 0 false))).netOpen 0 0x1000 = true
    ∧ (match (drains 4 none).translate ⟨0, 0⟩ 0x1000 true with | .miss va w => va == 0x1000 && w | _ => false) = true
    ∧ ({ drains 4 (some (page0 0 true)) with power := { Power.reset with thermal := Power.reset.thermal.set 3 3 } } : State).writeAsleep 0x1000 true = true
    ∧ ({ drains 4 (some (page0 0 false)) with routes := [(0, ([], [], true))] } : State).netDrains 0 0x1000 = true
    ∧ (∀ loc, loc = spaceLoc ⟨0, 0⟩ 1 0x1000 → (drains 1 none).writeAsleep loc false = false ∧ (drains 1 none).netDrains 0 loc = false ∧ (drains 1 none).netOpen 0 loc = true) := by
  refine ⟨fun _ => rfl, by decide, by decide, by decide, by decide, by decide, by decide, by decide, by decide, by decide, ?_⟩
  rintro loc rfl
  decide

theorem witness_EndingEvents_watchdog :
    (let s := readyCore fun k => { k with left := 0, wait := .finishing }
     (s.core ⟨0, 0⟩).wait = .finishing ∧ (∀ p ∈ (s.core ⟨0, 0⟩).prods, p.firing = (s.core ⟨0, 0⟩).firingNo → p.failure.isSome = true)
      ∧ ∀ e ∈ (s.core ⟨0, 0⟩).scales, e.2.2.1 ≠ (s.core ⟨0, 0⟩).firingNo)
    ∧ (let s := (inRope id (readyCore fun k => { k with left := 0 })).modPart 0 fun p => { p with len := 1, halted := true }
       s.coreHalted ⟨0, 0⟩ = true ∧ (s.core ⟨0, 0⟩).left = 0 ∧ (s.core ⟨0, 0⟩).running.isSome = true ∧ (s.core ⟨0, 0⟩).park = none)
    ∧ (let s := { parked .soft 1 with now := 10000000 }
       (∃ q ∈ s.sysReqs, q.service = 1 ∧ ∃ x, s.parkedBy q = some x ∧ x.1 = (⟨0, 0⟩ : CoreId))
        ∧ (s.core ⟨0, 0⟩).park = some (.trap .soft 0 8 0 (some 12)) ∧ s.vfs.get (s.vfAt ⟨0, 0⟩) = some (guest0 []))
    ∧ ({ parked .soft 1 with now := 10000000, sysReqs := [] } : State).sysReqs = [] := by
  refine ⟨by decide, by decide, ⟨⟨_, List.mem_singleton.mpr rfl, rfl, _, rfl, rfl⟩, by decide, by decide⟩, rfl⟩

theorem witness_EndingEvents :
    (let s := readyCore fun k => { k with wait := .delay 7 }
     (s.core ⟨0, 0⟩).wait = .delay 7 ∧ s.now.toNat < 7 ∧ 7 ≤ ({ s with now := 7 } : State).now.toNat)
    ∧ ((readyCore fun k => { k with wait := .icache }).core ⟨0, 0⟩).wait = .icache
    ∧ (let s := readyCore fun k => { k with wait := .mdrain 1 0x1000 1024 0 false false 0 }
       (s.core ⟨0, 0⟩).wait = .mdrain 1 0x1000 1024 0 false false 0 ∧ (s.core ⟨0, 0⟩).running.isSome = true ∧ (s.core ⟨0, 0⟩).park = none ∧ (1 : BitVec 3) ≠ 4
        ∧ 0 + 1 ≠ 16 * (16 * drainBytes 0) ∧ 16 * (16 * drainBytes 0) - 1 + 1 = 16 * (16 * drainBytes 0))
    ∧ (let s := readyCore fun k => { k with left := 0 }
       (s.core ⟨0, 0⟩).running.isSome = true ∧ (s.core ⟨0, 0⟩).park = none ∧ (s.core ⟨0, 0⟩).left = 0 ∧ (s.core ⟨0, 0⟩).wait.issued = false
        ∧ s.coreHalted ⟨0, 0⟩ = false ∧ (s.core ⟨0, 0⟩).wait = .none)
    ∧ ((readyCore fun k => { k with after := [0x40] }).core ⟨0, 0⟩).after = [0x40] ∧ ((ready id).core ⟨0, 0⟩).after = []
    ∧ (let s := { parked .soft 0 with vfs := [(0, guest0 [])] }
       (s.core ⟨0, 0⟩).park = some (.trap .soft 0 8 0 (some 12)) ∧ s.vfs.get (s.vfAt ⟨0, 0⟩) = some (guest0 [])
        ∧ s.now.toNat < 0 + (guest0 []).trapWait.toNat * 1000000 ∧ 0 + (guest0 []).trapWait.toNat * 1000000 ≤ ({ s with now := 10000000 } : State).now.toNat)
    ∧ ({ ready id with heldTraps := [heldTrap] } : State).heldTraps = [heldTrap] ∧ heldTrap.at_ = ⟨0, 0⟩
    ∧ (ready id).allPerformed ⟨0, 0⟩ 1 = true ∧ (withStores [⟨0, [(0x40, 5, 0xFF)], none, [], false, false, 0⟩] (ready id)).allPerformed ⟨0, 0⟩ 1 = false
    ∧ (let s := inRope (fun _ => doneRope) State.reset; s.ropes.get 0 = some doneRope ∧ doneRope.ending = none ∧ s.ropeDone 0 doneRope = true)
    ∧ (let s := inRope id State.reset; s.ropes.get 0 = some bareRope ∧ bareRope.ending = none ∧ s.ropeDone 0 bareRope = false)
    ∧ State.reset.booted = false ∧ MgmtSender.guest 1 0 ≠ .privileged ∧ (hosted 1 []).listed (.guest 1 0) 0 = false
    ∧ ({ hosted 1 [] with vfs := [(0, { guest0 [] with endpoints := [(0, ⟨0, 0, 0, false⟩)] })] } : State).listed (.guest 0 0) 0 = true
    ∧ (let x := { cable0 with ropes := [0, 0], next := 1, state := .inLaunch }
       ({ hosted 1 [] with cables := [(0, x)] } : State).cables.get 0 = some x ∧ x.state = .inLaunch)
    ∧ (hosted 1 []).booted = true ∧ (hosted 1 []).liveCable 0 (.ofNat 16 1) = none
    ∧ ({ hosted 1 [] with cables := [(0, queued0)] } : State).liveCable 0 (.ofNat 16 1) = some (0, queued0) ∧ queued0.state = .queued
    ∧ ({ hosted 1 [] with cables := [(0, cable0)] } : State).liveCable 0 (.ofNat 16 1) = some (0, cable0) ∧ cable0.state ≠ .queued := by decide +kernel

/-! ## Messages and memory -/

/-- An entry of a send queue: a message of a port, or a contribution. -/
def sending (port : Option Nat) : SendEntry := ⟨0, 0, 0, 0, port, 0x8000, ⟨0, [5], false⟩, 0, 0⟩

/-- The core of the ready firing with a send queue. -/
def sends (port : Option Nat) : State := inRope id (readyCore fun k => { k with sendQ := [sending port] })

/-- A packet from the ready firing's port 0 to port 0 of logical actor 0 of the bare rope. -/
def packet0 : Packet := ⟨6, .port ⟨0, 0⟩ 0 0 0, 0, 0, 0, ⟨0, [5], false⟩, 0, none⟩

/-- The packet is on the mesh; its destination port has room for some messages. -/
def offered (capacity : Nat) : State :=
  { inRope id (readyCore fun k => k.modCur fun t => { t with ins := [⟨0, capacity, 1, [], 0, 0, []⟩] }) with flight := [packet0] }

/-- A notice of the atomic unit of cluster 0. -/
def notice0 : Notice := ⟨8, { packet0 with sender := .atomicUnit 0 0 }, none⟩

/-- One that waits for what core 0 issued before its access 9. -/
def notice9 : Notice := { notice0 with after := some (⟨0, 0⟩, 9) }

theorem witness_MessageEvents :
    (let s := sends (some 0)
     (s.core ⟨0, 0⟩).sendQ = [sending (some 0)] ∧ s.ropes.get (sending (some 0)).rope = some bareRope ∧ s.allPerformed ⟨0, 0⟩ 0 = true
      ∧ s.draining (s.partOfVf 0) = false ∧ s.limiterOpen (s.partOfVf 0) 0 = true ∧ kindOf (sending (some 0)).msg.typ ≠ 2)
    ∧ (let s := withProds [atomicOut 0] (sends (some 0))
       (s.core ⟨0, 0⟩).sendQ = [sending (some 0)] ∧ s.allPerformed ⟨0, 0⟩ 1 = false)
    ∧ (let s := (sends (some 0)).modPart 0 fun p => { p with rate := 1, burst := 1, buckets := [(0, (0, 0))] }
       (s.core ⟨0, 0⟩).sendQ = [sending (some 0)] ∧ s.limiterOpen (s.partOfVf 0) 0 = false)
    ∧ ({ sends (some 0) with routes := [(0, ([], [], true))] } : State).draining 0 = true
    ∧ (let e : SendEntry := { sending (some 0) with msg := ⟨0x11, [1, 2], true⟩, granule := 2 ^ 39 + 0x1000 }
       let s := (sends (some 0)).modCore ⟨0, 0⟩ fun k => { k with sendQ := [e] }
       (s.core ⟨0, 0⟩).sendQ = [e] ∧ s.allPerformed ⟨0, 0⟩ 0 = true ∧ kindOf e.msg.typ = 2)
    ∧ (let s := sends none
       (s.core ⟨0, 0⟩).sendQ = [sending none] ∧ s.allPerformed ⟨0, 0⟩ 0 = true ∧ s.draining (s.partOfVf 0) = false ∧ s.limiterOpen (s.partOfVf 0) 0 = true)
    ∧ (let s := offered 1
       s.flight.find? (fun q => q.no == 6) = some packet0 ∧ s.behindEarlier packet0 = false ∧ addrKind packet0.dest.toNat = 0
        ∧ (∃ n c i x q, s.findActor packet0.dest.toNat = some (n, c, i, x) ∧ i < 16 ∧ x.ins[packet0.dest.toNat / 2 ^ 15 % 8]? = some q
          ∧ packet0.msg.typ = q.typ ∧ kindOf q.typ ≠ 2 ∧ s.switchedOut (addrVf packet0.dest.toNat) = false ∧ s.ropes.get n = some bareRope
          ∧ bareRope.vf = addrVf packet0.dest.toNat ∧ q.ring = [] ∧ q.msgs.length < q.capacity))
    ∧ (let s := offered 0
       s.behindEarlier packet0 = false
        ∧ (∃ n c i x q, s.findActor packet0.dest.toNat = some (n, c, i, x) ∧ i < 16 ∧ x.ins[packet0.dest.toNat / 2 ^ 15 % 8]? = some q
          ∧ packet0.msg.typ = q.typ ∧ kindOf q.typ ≠ 2 ∧ q.ring = [] ∧ q.capacity ≤ q.msgs.length))
    ∧ (let s := { offered 1 with flight := [{ packet0 with no := 5 }, packet0] }
       s.flight.find? (fun q => q.no == 6) = some packet0 ∧ s.behindEarlier packet0 = true
        ∧ (s.flight.takeWhile fun q => q.no != 6).any (fun q => q.sender == packet0.sender && q.cluster == packet0.cluster && q.dest == packet0.dest) = true)
    ∧ (let p := { packet0 with sender := .launcher 0 }
       let s := { offered 1 with flight := [p], routes := [(0, ([], [], true))] }
       s.flight.find? (fun q => q.no == 6) = some p ∧ s.mayEnter p = false ∧ s.draining (s.partOfVf p.vf) = true)
    ∧ (let p := { packet0 with sender := .launcher 0 }
       let s := ({ offered 1 with flight := [p] } : State).modPart 0 fun p => { p with rate := 1, burst := 1, buckets := [(0, (0, 0))] }
       s.limiterOpen (s.partOfVf p.vf) p.cluster = false)
    ∧ (offered 1).mayEnter packet0 = true := by
  iterate 6 refine ⟨by decide +kernel, ?_⟩
  refine ⟨?first, ⟨by decide +kernel, ?second⟩, ?rest⟩
  case rest => refine ⟨?_, ?_, ?_, ?_⟩ <;> decide +kernel
  case first => iterate 3 refine ⟨by decide +kernel, ?_⟩
                exact ⟨0, ⟨0, 0⟩, 0, _, _, rfl, by decide, rfl, by decide, by decide, by decide, rfl, by decide, by decide, by decide⟩
  case second => exact ⟨0, ⟨0, 0⟩, 0, _, _, rfl, by decide, rfl, by decide, by decide, by decide, by decide⟩

theorem witness_MessageEvents_rest :
    (let s := { offered 1 with flight := [], answers := [(packet0, .full)] }
     s.answers.find? (fun e => e.1.no == 6) = some (packet0, .full) ∧ packet0.sender = .port ⟨0, 0⟩ 0 0 0)
    ∧ (let s := { ready id with notices := [notice0] }
       s.notices = [notice0] ∧ notice0.no = 8 ∧ notice0.packet.sender.atomicOf 0 = true ∧ notice0.after = none)
    ∧ (let s := { ready id with notices := [notice9] }
       s.notices = [notice9] ∧ notice9.no = 8 ∧ notice9.packet.sender.atomicOf 0 = true ∧ notice9.after = some (⟨0, 0⟩, 9) ∧ s.allPerformed ⟨0, 0⟩ 9 = true)
    ∧ (let s := { withStores [entry 3 0x40] (ready id) with notices := [notice9] }
       s.notices = [notice9] ∧ s.allPerformed ⟨0, 0⟩ 9 = false)
    ∧ (let s := readyCore fun k => k.modCur fun t => { t with ins := [⟨0, 1, 1, [], 0, 0, [⟨0, [5], false⟩]⟩] }
       ((s.core ⟨0, 0⟩).slot 0).ins[0]? = some ⟨0, 1, 1, [], 0, 0, [⟨0, [5], false⟩]⟩ ∧ ([] : List Msg).length < 1) := by decide +kernel

/-- A producer with something to do, numbered 3, of the ready firing or of an earlier one, and what it fills. -/
def producing (p : Pending) (firing : Nat) : State := withProds [⟨3, 0, firing, some (.x 9), 0, p, false⟩] (ready id)

/-- A store whose page is replicated. -/
def replStore : StoreEntry := { entry 3 0x40 with replicated := true }

/-- A store and its way to the sequencer or to another die. -/
def update0 : Update := ⟨11, ⟨0, 0⟩, .inl (entry 3 0x40), []⟩

/-- Two elements of a vector load, of which the second may be read first, or has to wait for the first. -/
def ahead (near : Bool) : State := producing (.vload [⟨0, 0x40, 4, false, 9⟩, ⟨32, if near then 0x40 else 2 ^ 37 + 0x80, 4, false, 9⟩] 32 0) 0


theorem witness_MemoryEvents_more :
    (let e : ElemLoad := ⟨32, 2 ^ 37 + 0x80, 4, false, 9⟩
     let s := ahead false
     (s.core ⟨0, 0⟩).producer 3 = some ⟨3, 0, 0, some (.x 9), 0, .vload [⟨0, 0x40, 4, false, 9⟩, e] 32 0, false⟩ ∧ (s.core ⟨0, 0⟩).stores = []
      ∧ s.mem.badIn e.loc e.bytes = false ∧ s.mayRead ⟨0, 0⟩ (loadOp 3 (2 ^ 37 + 0x80) 4 false) = true ∧ ppo ⟨0, 0⟩ [] (loadOp 3 0x40 4 false) (loadOp 3 (2 ^ 37 + 0x80) 4 false) = false)
    ∧ ppo ⟨0, 0⟩ [] (loadOp 3 0x40 4 false) (loadOp 3 0x40 4 false) = true
    ∧ ({ inPart id (withStores [entry 3 0x40] (ready id)) with routes := [(0, ([], [], true))] } : State).netDrains 0 (entry 3 0x40).op.loc = true
    ∧ (inPart (fun p => { p with rate := 1, burst := 1, buckets := [(0, (0, 0))] }) (withStores [entry 3 0x40] (ready id))).netOpen 0 (entry 3 0x40).op.loc = false
    ∧ (ready id).netDrains 0 0x40 = false ∧ (ready id).netOpen 0 0x40 = true
    ∧ (producing (.ready (.word 7)) 0).arrivalTest ⟨0, 0⟩ (some (.x 9)) = .go
    ∧ (parkedFull 1).arrivalTest ⟨0, 0⟩ (some (.x 24)) = .stall
    ∧ (let s := bound (.send 0 []) 0 []
       (s.modCore ⟨0, 0⟩ fun k => k.modCur fun t => { t with outs := [⟨0, 1, 0x8000, 0, false, 1, [], []⟩] }).arrivalTest ⟨0, 0⟩ (some (.x 24)) = .trap .rate (portDetail 0 true))
    ∧ (let e : ElemLoad := ⟨0, 0x40, 4, false, 9⟩
       let s := producing (.vload [e] 32 0) 0
       s.mayRead ⟨0, 0⟩ (loadOp 3 e.loc e.bytes e.replicated) = true)
    ∧ (let s := withProds [atomicOut 3] { ready id with mem := State.reset.mem.setBad (2 ^ 39 + 0x1000) }
       ∃ x m fill, (atomicOut 3).atomicAt = some (x, m, fill) ∧ s.mayAtomic ⟨0, 0⟩ x m = true ∧ s.atomicBad x = true)
    ∧ (let s := producing (.loadFull 0x40 (.zeroed 8) (some (.word 7, true))) 0
       (s.core ⟨0, 0⟩).producer 3 = some ⟨3, 0, 0, some (.x 9), 0, .loadFull 0x40 (.zeroed 8) (some (.word 7, true)), false⟩)
    ∧ (let s := producing (.loadFull 0x40 (.zeroed 8) none) 0
       (s.core ⟨0, 0⟩).stores = [] ∧ 0x40 / 8 ≤ 0x40 / 8 ∧ 0x40 / 8 ≤ (0x40 + 8 - 1) / 8 ∧ (s.mem.setFull 0x40 true).full 0x40 = true
        ∧ s.mayPerform ⟨0, 0⟩ (loadOp 3 (0x40 / 8 * 8) 8 false) = true ∧ (s.mem.setFull 0x40 false).full 0x40 = false) := by
  iterate 10 refine ⟨by decide +kernel, ?_⟩
  exact ⟨⟨_, _, _, rfl, by decide +kernel⟩, by decide +kernel, by decide +kernel⟩

theorem witness_MemoryEvents :
    ((ready id).core ⟨0, 0⟩).stores = []
    ∧ (let s := withStores [entry 3 0x40] (ready id)
       (s.core ⟨0, 0⟩).stores = [entry 3 0x40] ∧ homeDie (entry 3 0x40).op.loc = dieOf 0 ∧ s.mayPerform ⟨0, 0⟩ (entry 3 0x40).op = true)
    ∧ (let s := withProds [⟨1, 0, 0, none, 0, .load 0x40 1 false (.zeroed 1), false⟩] (withStores [entry 3 0x40] (ready id))
       s.mayPerform ⟨0, 0⟩ (entry 3 0x40).op = false)
    ∧ (let s := withStores [entry 3 (2 ^ 37)] (ready id)
       homeDie (entry 3 (2 ^ 37)).op.loc ≠ dieOf 0 ∧ ∀ a ∈ s.unperformed ⟨0, 0⟩, a.no < 3 → a.load = true → ppo ⟨0, 0⟩ (s.core ⟨0, 0⟩).fences a (entry 3 (2 ^ 37)).op = false)
    ∧ (let s := withStores [replStore] (ready id); replStore.sent = false ∧ s.mayPerform ⟨0, 0⟩ replStore.op = true)
    ∧ (let s := producing (.ready (.word 7)) 0
       (s.core ⟨0, 0⟩).producer 3 = some ⟨3, 0, 0, some (.x 9), 0, .ready (.word 7), false⟩ ∧ 0 = (s.core ⟨0, 0⟩).firingNo ∧ (s.core ⟨0, 0⟩).running.isSome = true
        ∧ (s.core ⟨0, 0⟩).regs.binding 9 = .unbound ∧ 1 ≠ (s.core ⟨0, 0⟩).firingNo)
    ∧ (let s := producing (.poll 0) 0
       (s.core ⟨0, 0⟩).producer 3 = some ⟨3, 0, 0, some (.x 9), 0, .poll 0, false⟩ ∧ s.arrivalTest ⟨0, 0⟩ (some (.x 9)) = .go)
    ∧ ((producing (.waited (.word 7)) 1).core ⟨0, 0⟩).producer 3 = some ⟨3, 0, 1, some (.x 9), 0, .waited (.word 7), false⟩
    ∧ (let s := producing (.load 0x40 1 false (.zeroed 1)) 0
       s.mayRead ⟨0, 0⟩ (loadOp 3 0x40 1 false) = true ∧ (s.core ⟨0, 0⟩).stores = [])
    ∧ (let s := { producing (.load 0x40 1 false (.zeroed 1)) 0 with sequencer := [{ update0 with acks := [0] }] }
       s.replicaPending ⟨0, 0⟩ (loadOp 3 0x40 1 false) = true ∧ (s.core ⟨0, 0⟩).stores = [])
    ∧ (let s := (withProds [atomicOut 1, ⟨3, 0, 0, some (.x 9), 0, .load (2 ^ 39 + 0x1000) 1 false (.zeroed 1), false⟩] (ready id))
       s.mayRead ⟨0, 0⟩ (loadOp 3 (2 ^ 39 + 0x1000) 1 false) = false)
    ∧ (∃ x m fill, (atomicOut 3).atomicAt = some (x, m, fill) ∧ m.replicated = false ∧ homeDie x.loc = dieOf 0
      ∧ (withProds [atomicOut 3] (ready id)).mayAtomic ⟨0, 0⟩ x m = true ∧ (withProds [atomicOut 3] (ready id)).atomicBad x = false
      ∧ (withStores [entry 1 0x40] (withProds [atomicOut 3] (ready id))).mayAtomic ⟨0, 0⟩ x m = false)
    ∧ (let s := producing (.loadFull 0x40 (.zeroed 8) none) 0
       (s.core ⟨0, 0⟩).stores = [] ∧ s.mem.full 0x40 = true ∧ s.mayPerform ⟨0, 0⟩ (loadOp 3 0x40 8 false) = true ∧ s.mem.badIn 0x40 8 = false
        ∧ (s.mem.setFull 0x40 false).full 0x40 = false)
    ∧ (let s := { ready id with flying := [update0], sequencer := [update0] }
       s.flying.find? (fun u => u.no == 11) = some update0 ∧ update0.work = .inl (entry 3 0x40) ∧ s.mayPerform update0.at_ (entry 3 0x40).op = true
        ∧ s.sequencer.find? (fun u => u.no == 11) = some update0 ∧ s.firstOfLocation s.sequencer update0 = true ∧ 2 ∉ update0.acks
        ∧ (∀ d < 4, s.stackAsleep d = false) ∧ ∀ d < 4, d ∈ ({ update0 with acks := [0, 1, 2, 3] } : Update).acks)
    ∧ (let s := { ready id with sequencer := [{ update0 with no := 10 }, update0] }; s.firstOfLocation s.sequencer update0 = false)
    ∧ ({ ready id with power := { Power.reset with thermal := Power.reset.thermal.set 2 3 } } : State).stackAsleep 2 = true := by
  iterate 11 refine ⟨by decide +kernel, ?_⟩
  exact ⟨⟨_, _, _, rfl, by decide +kernel⟩, by decide +kernel, by decide +kernel, by decide +kernel, by decide +kernel⟩

/-! ## Engines -/

/-- Job 3 of the unit of cluster 0. -/
def withJob (j : Job) (queue : List Nat) : State := (inRope id (ready id)).modCluster 0 fun k => { k with jobs := k.jobs.set 3 j, queue := queue }

/-- A copy job of one row of 8 bytes of the scratchpad of core 0, with words of its row read. -/
def copying (state : JobState) (row : List (Nat × Word64)) : Job := ⟨1, state, 0, 0, true, 0, 0, 0, .copy ⟨1, 0x1000, 8⟩ ⟨1, 0x2000, 8⟩, 8, 1, 0, [], row, false, false⟩

/-- A stream job. -/
def flowing (bound : Bool) : Job := ⟨1, .running, 0, 0, true, 0, 0, 0, .stream ⟨1, 0x1000, 8⟩, 8, 2, 0, [], [], bound, false⟩

theorem witness_CopyEvents :
    (withJob (copying .queued []) [3]).mayStart 0 3 = true ∧ (withJob (copying .queued []) []).mayStart 0 3 = false
    ∧ (let s := withJob (copying .running []) [3]
       let j := (s.cluster 0).job 3
       j = copying .running [] ∧ s.jobMoves j = true ∧ j.rowRead = false ∧ 0 < j.rowBytes / 8
        ∧ s.jobLoc 0 j 1 ((⟨1, 0x1000, 8⟩ : Side).at_ (j.done / j.rowBytes) (8 * 0)) false = some (2 ^ 39 + 0x1000)
        ∧ s.jobAsleep 0 j 1 ((⟨1, 0x1000, 8⟩ : Side).at_ (j.done / j.rowBytes) (8 * 0)) false (2 ^ 39 + 0x1000) = false
        ∧ s.netOpen 0 (2 ^ 39 + 0x1000) = true ∧ s.mem.badIn (2 ^ 39 + 0x1000) 8 = false
        ∧ ({ s with power := { Power.reset with thermal := Power.reset.thermal.set 0 3 } } : State).jobAsleep 0 j 4 0x1000 false 0x1000 = true
        ∧ (s.mem.setBad (2 ^ 39 + 0x1000)).badIn (2 ^ 39 + 0x1000) 8 = true)
    ∧ (let s := withJob (copying .running [(0, 5)]) [3]
       let j := (s.cluster 0).job 3
       j.rowRead = true ∧ s.jobMoves j = true ∧ j.row.find? (fun e => e.1 == 0) = some (0, 5)
        ∧ s.jobLoc 0 j 1 ((⟨1, 0x2000, 8⟩ : Side).at_ (j.done / j.rowBytes) (8 * 0)) true = some (2 ^ 39 + 0x2000)
        ∧ s.jobAsleep 0 j 1 ((⟨1, 0x2000, 8⟩ : Side).at_ (j.done / j.rowBytes) (8 * 0)) true (2 ^ 39 + 0x2000) = false
        ∧ s.netOpen 0 (2 ^ 39 + 0x2000) = true ∧ j.done + 8 = j.rowBytes * j.rows)
    ∧ (let s := withJob { copying .running [(0, 5), (1, 6)] with rowBytes := 16 } [3]
       let j := (s.cluster 0).job 3
       j.rowRead = true ∧ s.jobMoves j = true ∧ j.row.find? (fun e => e.1 == 1) = some (1, 6) ∧ j.done + 8 ≠ j.rowBytes * j.rows)
    ∧ (withJob (copying .queued []) [3]).jobMoves (copying .queued []) = (withJob (copying .running []) [3]).jobMoves (copying .running [])
    ∧ (let s := withJob (flowing false) []
       let j := (s.cluster 0).job 3
       j = flowing false ∧ s.jobMoves j = true ∧ j.bound = false ∧ j.buf.length < 8
        ∧ s.jobLoc 0 j 1 ((⟨1, 0x1000, 8⟩ : Side).at_ (j.done / j.rowBytes) (j.done % j.rowBytes)) false = some (2 ^ 39 + 0x1000)
        ∧ s.jobAsleep 0 j 1 ((⟨1, 0x1000, 8⟩ : Side).at_ (j.done / j.rowBytes) (j.done % j.rowBytes)) false (2 ^ 39 + 0x1000) = false)
    ∧ (let s := (withJob (flowing true) []).modRegs ⟨0, 0⟩ fun r => r.setBinding 24 (.stream 3 1 [] 2)
       let j := (s.cluster 0).job 3
       j.bound = true ∧ s.jobMoves j = true ∧ (s.core ⟨0, j.core⟩).regs.streamReg 3 j.gen = some (24, [], 2)) := by decide +kernel

/-- A tour job of cluster 0. -/
def tourJob (state : JobState) : Job := ⟨1, state, 0, 0, true, 0, 0, 0, .tour ⟨1, 0x1000, 0⟩ 0, 64, 1, 0, [], [], false, false⟩

/-- The tour in a rope with its itinerary, with its job and its slot 2 in cluster 0. -/
def toured (t : Tour) (state : JobState) : State :=
  { (withJob (tourJob state) [3]).modCluster 0 (fun k => { k with slots := (k.slots.set 2 ⟨7, .tile 4⟩).set 5 ⟨7, .scrubbing⟩ }) with
    tours := [(4, t)], ropes := [(0, touring)] }

theorem witness_TourEvents :
    ((toured (tile .leaving) .queued).atHead 0 3 = true ∧ (toured (tile .leaving) .running).atHead 0 3 = false
      ∧ ((toured (tile .leaving) .queued).cluster 0).carried < 4 ∧ ((toured (tile .leaving) .queued).cluster 0).queue = [3]
      ∧ (((toured (tile .leaving) .queued).cluster 0).job 3).work = .tour ⟨1, 0x1000, 0⟩ 0)
    ∧ (let t := { tile .granted with at_ := none, grant := some (0, 2) }
       let s := toured t .running
       let j := (s.cluster 0).job 3
       s.tours.get 4 = some t ∧ j.work = .tour ⟨1, 0x1000, 0⟩ 0 ∧ s.jobMoves j = true ∧ j.aside = false ∧ s.allPerformed ⟨t.origin, j.core⟩ j.opNo = true ∧ j.unread.head? = some 0
        ∧ s.jobLoc 0 j 1 ((⟨1, 0x1000, 0⟩ : Side).at_ 0 (8 * 0)) false = some (2 ^ 39 + 0x1000)
        ∧ s.jobAsleep 0 j 1 ((⟨1, 0x1000, 0⟩ : Side).at_ 0 (8 * 0)) false (2 ^ 39 + 0x1000) = false
        ∧ s.netOpen 0 (2 ^ 39 + 0x1000) = true ∧ s.mem.badIn (2 ^ 39 + 0x1000) 8 = false ∧ j.done + 8 ≠ t.len)
    ∧ (let t := { tile .granted with grant := some (0, 2) }; (toured t .touring).tours.get 4 = some t ∧ t.at_ = some (0, 2) ∧ (toured t .touring).tourHalted t = false)
    ∧ (((toured (tile .held) .touring).modPart 0 fun p => { p with halted := true }).tourHalted (tile .held) = true)
    ∧ (let t := { tile .granted with grant := some (1, 2) }
       let s := toured t .touring
       s.tours.get 4 = some t ∧ (1, 2) ≠ (0, 2) ∧ s.jobMoves ((s.cluster 0).job 3) = true ∧ s.limiterOpen (s.partOfVf (s.vfOfJob ((s.cluster 0).job 3))) 0 = true
        ∧ s.mem.badIn (locTile 0 2 0) 64 = false)
    ∧ (let t := { tile .granted with grant := some (1, 2) }
       let s := { (toured t .touring).modCluster 0 fun k => { k with completions := List.replicate 16 ⟨9, 4, ⟨2, [0, 0, 0], false⟩⟩ } with mem := State.reset.mem.setBad (locTile 0 2 0) }
       s.tours.get 4 = some t ∧ s.tourHalted t = false ∧ s.jobMoves ((s.cluster 0).job 3) = true
        ∧ s.limiterOpen (s.partOfVf (s.vfOfJob ((s.cluster 0).job 3))) 0 = true ∧ s.mem.badIn (locTile 0 2 0) 64 = true ∧ 16 ≤ (s.cluster 0).completions.length)
    ∧ (let s := toured (tile .arrived) .running
       s.tours.find? (fun e => e.2.origin == 0 && e.2.job == 3 && e.2.hitchedOnce && !e.2.reported) = some (4, tile .arrived))
    ∧ ((toured (tile .held) .touring).tours.get 4 = some (tile .held) ∧ (tile .held).phase = .held ∧ (toured (tile .held) .touring).tourHalted (tile .held) = false
      ∧ (toured (tile .held) .touring).tileOverdue (tile .held) = false ∧ (tile .arrived).phase ≠ .held)
    ∧ (let t := { tile .arrived with holdFrom := some 0 }
       (toured t .touring).holdOver t = false ∧ ((toured t .touring).modCore ⟨0, 0⟩ fun k => { k with cycles := 5 }).holdOver t = true
        ∧ ((toured t .touring).modCore ⟨0, 0⟩ fun k => { k with cycles := 5 }).tileOverdue t = false
        ∧ ((toured t .touring).modCore ⟨0, 0⟩ fun k => { k with cycles := 6 }).tileOverdue t = true)
    ∧ (let s := toured (tile .leaving) .touring
       s.itinerary (tile .leaving) = some ⟨[0, 0], true, 0, 0, 5⟩ ∧ s.tileDrained 0 2 = true ∧ (tile .leaving).next 2 true = some (1, false)
        ∧ s.targetCluster { tile .leaving with stop := 1, lap := false, lapRun := false } = 0)
    ∧ (({ tile .leaving with stop := 1 }).next 2 true = none)
    ∧ ((toured (tile .leaving) .touring).modCore ⟨0, 0⟩ fun k => { k with prods := [⟨1, 0, 0, none, 0, .load (locTile 0 2 0) 1 false (.zeroed 1), false⟩] }).tileDrained 0 2 = false := by decide +kernel

/-- A completion of the tour. -/
def completion0 : Completion := ⟨9, 4, ⟨2, [0, 0, 0], false⟩⟩

theorem witness_TourEvents_rest :
    ((toured (tile .leaving) .touring).cluster 0).completions.length < 16
    ∧ (let s := (toured (tile .completing) .touring).modCluster 0 fun k => { k with completions := [completion0] }
       (s.cluster 0).completions.find? (fun e => e.no == 9) = some completion0 ∧ s.flight.any (fun p => p.sender == .completion 0 9) = false
        ∧ ({ s with flight := [{ packet0 with sender := .completion 0 9 }] } : State).flight.any (fun p => p.sender == .completion 0 9) = true)
    ∧ ((toured (tile .leaving) .touring).cluster 0).slots.toList[5]? = some ⟨7, .scrubbing⟩
    ∧ ∀ e ∈ (toured (tile .leaving) .touring).tours, e.2.phase = .leaving := by decide +kernel

/-- The gang of the bare rope waits at the wired barrier, with an operand word of A. -/
def waiting (op1 op2 : Word64) : State := inRope id ((ganged 0 0).modCore ⟨0, 0⟩ fun k => { k with wait := .gang 0 op1 op2 5 6 0 true false false 0 })

/-- Its form. -/
def lead0 (op1 op2 : Word64) : GangForm := ⟨0, op1, op2, 5, 6, 0, true, false, false, 0⟩

/-- A step that core 0 has started, with what its operands gave, if they are read. -/
def step0 (sums : Option (BitVec 65536 × Bool)) : MatStep := ⟨5, (0, 0), 0, 0, 0, 1, 0, none, [], [⟨0, false, true, 0, 0, 0, none, sums⟩]⟩

theorem witness_MatrixEvents :
    State.reset.completeGang 0 = none
    ∧ (let s := waiting 0 0
       s.completeGang 0 = some [(0, lead0 0 0)] ∧ (s.core ⟨0, 0⟩).stores = [] ∧ s.allPerformed ⟨0, 0⟩ 0 = true ∧ (s.cluster 0).steps.length < 2
        ∧ [(0, lead0 0 0)].find? (fun e => e.1 == 0) = some (0, lead0 0 0) ∧ s.headerBad 0 (lead0 0 0) = false
        ∧ (s.core ⟨0, 0⟩).regs.binding 5 = .unbound ∧ (s.core ⟨0, 0⟩).regs.binding 6 = .unbound)
    ∧ (let s := { waiting 0 0 with mem := ⟨[(2 ^ 39, 1)], [], [], []⟩ }
       s.completeGang 0 = some [(0, lead0 0 0)] ∧ (s.core ⟨0, 0⟩).regs.hlen = 0)
    ∧ (∃ e ∈ [((0 : Nat), lead0 0 0), (1, { lead0 0 0 with pair := 1 })], e.2.pair ≠ (lead0 0 0).pair)
    ∧ ({ ready id with agenda := [.stepRead 0 5 0x40] } : State).agenda = [.stepRead 0 5 0x40] ∧ (∀ e ∈ (step0 none).seen, e.1 ≠ 0x40)
    ∧ (let s := readyCore fun k => { k with scales := [(5, 4, k.firingNo, 9)] }
       (s.core ⟨0, 0⟩).scales = [(5, 4, (s.core ⟨0, 0⟩).firingNo, 9)] ∧ (s.core ⟨0, 0⟩).running.isSome = true)
    ∧ (∀ sums, ((step0 sums).no = 5 ∧ (step0 sums).parts = [⟨0, false, true, 0, 0, 0, none, sums⟩]))
    ∧ (let s := State.reset.modCluster 0 fun k => { k with steps := [step0 none] }
       (s.cluster 0).steps = [step0 none] ∧ (∀ n < 8, ∀ e ∈ (s.core ⟨0, n⟩).scales, e.1 ≠ 5))
    ∧ (let s := State.reset.modCluster 0 fun k => { k with steps := [step0 (some (0, true))] }
       (s.cluster 0).steps = [step0 (some (0, true))] ∧ (∀ n < 8, ∀ e ∈ (s.core ⟨0, n⟩).scales, e.1 ≠ 5)
        ∧ ((step0 (some (0, true))).parts.map fun q => (q.core, q.bank)).Nodup ∧ (step0 none).owner ∉ (s.cluster 0).doomed)
    ∧ (let s := owned (State.reset.modCluster 0 fun k => { k with steps := [step0 none], doomed := [(0, 0)] })
       (s.cluster 0).steps = [step0 none] ∧ (step0 none).owner ∈ (s.cluster 0).doomed ∧ (∀ x ∈ ([] : List MatStep), x.owner ≠ (step0 none).owner)
        ∧ ((s.cluster 0).bank 0 false).owner = some (step0 none).owner) := by
  iterate 7 refine ⟨by decide +kernel, ?_⟩
  exact ⟨fun _ => ⟨rfl, rfl⟩,
    by decide +kernel, by decide +kernel, by decide +kernel⟩

/-! ## Routers, remote writes -/

theorem witness_RouteEvents :
    (hosted 1 []).booted = true ∧ acyclic [⟨0, 1, 1⟩] = true ∧ (hosted 1 []).draining 3 = false ∧ acyclic [⟨0, 2, 1⟩, ⟨1, 2, 0⟩] = false
    ∧ (let s := { hosted 1 [] with routes := [(3, ([], [⟨0, 1, 1⟩], true))] }
       s.draining 3 = true ∧ s.netBusy 3 = false)
    ∧ (let s := { hosted 1 [] with routes := [(0, ([], [⟨0, 1, 1⟩], true))], flight := [packet0] }
       s.draining 0 = true ∧ s.netBusy 0 = true)
    ∧ ({ hosted 1 [] with routes := [(16, ([], [⟨0, 1, 1⟩], true))] } : State).draining 16 = true
    ∧ (let s := inPart (fun p => { p with crossing := [(CoreId.key ⟨0, 0⟩, 3)] }) (producing (.load 0x40 1 false (.zeroed 1)) 0)
       (s.part 0).crossing = [(CoreId.key ⟨0, 0⟩, 3)] ∧ s.crosses (CoreId.key ⟨0, 0⟩, 3) = true)
    ∧ (inPart (fun p => { p with rate := 1, burst := 1, buckets := [(0, (0, 0))] }) State.reset).limiterOpen 0 0 = false
    ∧ (let s := withStores [entry 1 0x40] (withProds [atomicOut 3] (ready id)); (atomicOut 3).atomicAt.isSome = true ∧ ∃ e ∈ (s.core ⟨0, 0⟩).stores, e.no ≤ 3) := by decide +kernel

/-- A request of the ready firing at router 0. -/
def request (word1 word2 : Word64) : RedReq := ⟨12, 0, 0, 0, 0, 0, 3, word1, word2, 0, true⟩

/-- A slot that rope 0 holds. -/
def held0 (full : Bool) : RedHeld := ⟨0, 0, 5, false, 0, 2, 0, 0, if full then some 9 else none, if full then 2 else 0, full⟩

/-- Router 0 with a request, of a producer that waits for it, and with some slots held. -/
def routed (p : Pending) (f : Cluster → Cluster) : State := (producing p 0).modCluster 0 f

/-- Slot 0 of router 0 is held, generation 1. -/
def holds0 (full : Bool) (k : Cluster) : Cluster := { k with redSlots := k.redSlots.set 0 ⟨1, some (held0 full)⟩ }

/-- Every slot of router 0 is held, for other collectives. -/
def allHeld (k : Cluster) : Cluster := { k with redSlots := Vector.replicate 8 ⟨1, some { held0 false with coll := 6 }⟩ }

theorem witness_Reductions :
    (∀ q ∈ (State.reset.cluster 0).redReqs, State.reset.now.toNat < q.stamp + 64)
    ∧ (let s := inPart (fun p => { p with rate := 1, burst := 1, buckets := [(0, (0, 0))] }) State.reset
       s.reqArrives { request 0 0 with sent := false } = false ∧ State.reset.reqArrives { request 0 0 with sent := false } = true ∧ s.reqArrives (request 0 0) = true)
    ∧ (let s := { routed .redslot (fun k => { k with redReqs := [request (5 + 2 ^ 17) 0] }) with now := 64 }
       s.nextRedReq 0 = some (request (5 + 2 ^ 17) 0) ∧ (s.core ⟨0, 0⟩).producer 3 = some ⟨3, 0, 0, some (.x 9), 0, .redslot, false⟩
        ∧ (request (5 + 2 ^ 17) 0).word2 = 0 ∧ ((s.cluster 0).redSlot 0).held = none ∧ ((s.cluster 0).redSlot 0).gen ≠ 0xFFFF)
    ∧ (let s := { routed .redslot (fun k => holds0 false { k with redReqs := [request (5 + 2 ^ 17) 0] }) with now := 64 }
       ((s.cluster 0).redSlot 0).held = some (held0 false) ∧ (held0 false).rope = (request 0 0).rope ∧ (held0 false).coll = (5 + 2 ^ 17 : Word64).extractLsb' 0 8)
    ∧ (let s := { routed .redslot (fun k => allHeld { k with redReqs := [request (5 + 2 ^ 17) 0] }) with now := 64 }
       (∀ i < 8, ((s.cluster 0).redSlot i).held.isSome = true) ∧ ∀ i < 8, ∀ h ∈ ((s.cluster 0).redSlot i).held.toList, h.coll ≠ (5 + 2 ^ 17 : Word64).extractLsb' 0 8)
    ∧ (let s := routed .redget (fun k => holds0 true { k with redGets := [request (2 ^ 16) 0] })
       (s.cluster 0).redGets.find? (fun q => q.no == 12) = some (request (2 ^ 16) 0) ∧ (s.core ⟨0, 0⟩).producer 3 = some ⟨3, 0, 0, some (.x 9), 0, .redget, false⟩
        ∧ s.namedSlot 0 0 (2 ^ 16) = some (0, held0 true) ∧ (held0 true).parent = 0 ∧ (held0 true).inst = (2 ^ 16 : Word64).extractLsb' 32 2
        ∧ (held0 true).full = true ∧ (held0 true).part = some 9 ∧ (s.cluster 0).redHold = [] ∧ s.arrivalTest ⟨0, 0⟩ (some (.x 9)) = .go
        ∧ 0 = (s.core ⟨0, 0⟩).firingNo ∧ (s.core ⟨0, 0⟩).running.isSome = true)
    ∧ (let s := routed .redget (fun k => holds0 false { k with redGets := [request (2 ^ 16) 0] })
       s.namedSlot 0 0 (2 ^ 16) = some (0, held0 false) ∧ (held0 false).full = false ∧ s.namedSlot 0 0 (2 ^ 17) = none ∧ (held0 false).parent = 0
        ∧ (held0 false).inst.toNat = bitsOf (request (2 ^ 16) 0).word1.toNat 32 2)
    ∧ (let s := routed .redget (fun k => holds0 false { k with redFrees := [request (2 ^ 16) 0] })
       (s.cluster 0).redFrees.find? (fun q => q.no == 12) = some (request (2 ^ 16) 0) ∧ s.namedSlot 0 0 (2 ^ 16) = some (0, held0 false)) := by decide +kernel

/-- A contribution to an instance of slot 0 of router 0, generation 1. -/
def contrib (inst : Nat) : Contribution := ⟨14, 0, .ofNat 64 (2 ^ 16 + 2 ^ 32 * inst), 3, some (⟨0, 0⟩, 0), none⟩

/-- A partial of slot 1 of router 2 for it. -/
def partial0 : Contribution := ⟨14, 0, 0x10000, 3, none, some (2, 1)⟩

/-- A slot that rope 0 holds as a child. -/
def child0 : RedHeld := { held0 true with parent := 0x10000 }

/-- Router 0 with a contribution and slot 0 held. -/
def contributes (p : Contribution) (full : Bool) : State := State.reset.modCluster 0 fun k => holds0 full { k with redPackets := [p] }

theorem witness_Contributions :
    (let s := contributes (contrib 0) false
     (s.cluster 0).redPackets.find? (fun q => q.no == 14) = some (contrib 0) ∧ (s.cluster 0).redPackets.takeWhile (fun q => q.no != 14) = []
      ∧ s.namedSlot 0 0 (contrib 0).handle = some (0, held0 false) ∧ (contrib 0).handle.extractLsb' 32 2 - (held0 false).inst = 0
      ∧ (held0 false).full = false ∧ (held0 false).got + 1 < (held0 false).count)
    ∧ ((contributes (contrib 0) true).namedSlot 0 0 (contrib 0).handle = some (0, held0 true) ∧ (held0 true).full = true)
    ∧ (State.reset.namedSlot 0 0 (contrib 0).handle = none)
    ∧ ((contrib 1).handle.extractLsb' 32 2 - (held0 false).inst = 1 ∧ (contrib 2).handle.extractLsb' 32 2 - (held0 false).inst = 2
      ∧ ((contributes (contrib 1) false).cluster 0).redHold.length < 16 ∧ 16 ≤ (List.replicate 16 (contrib 1)).length)
    ∧ (let s := State.reset.modCluster 0 fun k => { k with redPackets := [contrib 0], redSlots := k.redSlots.set 0 ⟨1, some { held0 false with count := 1, parent := 0x10200 }⟩ }
       s.namedSlot 0 0 (contrib 0).handle = some (0, { held0 false with count := 1, parent := 0x10200 }))
    ∧ (let s := (contributes partial0 false).modCluster 2 fun k => { k with redSlots := k.redSlots.set 1 ⟨1, some child0⟩ }
       (s.cluster 0).redPackets.find? (fun q => q.no == 14) = some partial0 ∧ partial0.origin = none ∧ partial0.child = some (2, 1)
        ∧ s.namedSlot 0 0 partial0.handle = some (0, held0 false) ∧ partial0.handle.extractLsb' 32 2 = (held0 false).inst ∧ (held0 false).full = false
        ∧ ((s.cluster 2).redSlot 1).held = some child0 ∧ (s.cluster 2).redHold = [])
    ∧ (contributes partial0 true).namedSlot 0 0 partial0.handle = some (0, held0 true)
    ∧ ((contributes partial0 false).draining ((contributes partial0 false).partOfRope 0) = false
      ∧ (contributes partial0 false).limiterOpen ((contributes partial0 false).partOfRope 0) 2 = true)
    ∧ ({ contributes partial0 false with routes := [(0, ([], [], true))] } : State).draining ((contributes partial0 false).partOfRope 0) = true
    ∧ (contrib 0).handle.getLsbD 39 = false := by decide +kernel

/-- A transfer of 8 bytes for the first word of the state region of actor 0. -/
def transfer0 (landed : Nat) (address : Word64) : Transfer := ⟨3, 0, 8, landed, address⟩

/-- A delivery context of VF 0 with two entropy values, assigned as number 3. -/
def context0 : DeliveryContext := ⟨0, false, [7, 9], 1⟩

/-- The machine with that context. -/
def connected : State := { hosted 1 [] with contexts := [(3, context0)] }

/-- VF 0 is switched out, with its rope, and some held completions. -/
def asleep0 (held : List (Word64 × Nat)) : State :=
  { inRope id (hosted 1 []) with vfs := [(0, { guest0 [] with saved := some ⟨[(⟨0, 0⟩, 0, { Slot.vacant with phase := .waiting, stateLen := 16 })], [], true⟩, heldWrites := held })] }

theorem witness_RemoteWrites :
    (connected.contexts.get 3 = some context0 ∧ connected.contexts.get 4 = none)
    ∧ (connected.booted = true ∧ context0.ordered = false ∧ connected.draining (connected.partOfVf context0.vf) = false
      ∧ connected.deviceAsleep context0.vf 0x200000 1 true = false ∧ connected.mem.wf = true ∧ connected.devicePa context0.vf 0x200000 true = some 0x200000
      ∧ (connected.deviceWrite context0.vf true 0x200000 [5]).isSome = true ∧ connected.deviceWrite context0.vf true (2 ^ 40) [5] = none
      ∧ connected.deviceAsleep context0.vf (2 ^ 40) 1 true = false)
    ∧ 4096 < (List.replicate 4097 (0 : Byte)).length ∧ State.reset.booted = false ∧ ({ context0 with ordered := true }).ordered = true
    ∧ ({ connected with routes := [(0, ([], [], true))] } : State).draining (connected.partOfVf context0.vf) = true
    ∧ ({ connected with power := { Power.reset with thermal := Power.reset.thermal.set 0 3 } } : State).deviceAsleep context0.vf 0x200000 1 true = true
    ∧ (let s := { State.reset with transfers := [(1, transfer0 0 0)] }
       s.transfers.get 1 = some (transfer0 0 0) ∧ (transfer0 0 0).landed < (transfer0 0 0).total)
    ∧ ((transfer0 8 (2 ^ 63)).total ≤ (transfer0 8 (2 ^ 63)).landed ∧ connected.completionPlace (transfer0 8 (2 ^ 63)).address = none)
    ∧ (let s := { inRope id (ready id) with transfers := [(1, transfer0 8 0)], boot := { State.reset.boot with step := 6 } }
       s.booted = true ∧ s.completionPlace (transfer0 8 0).address = some (0, ⟨0, 0⟩, 0) ∧ s.switchedOut 0 = false ∧ s.mem.wf = true
        ∧ s.draining (s.partOfVf (transfer0 8 0).vf) = false
        ∧ ({ s with routes := [(0, ([], [], true))] } : State).draining (s.partOfVf (transfer0 8 0).vf) = true)
    ∧ (let s := asleep0 []
       s.completionPlace 0 = some (0, ⟨0, 0⟩, 0) ∧ s.draining (s.partOfVf 0) = false ∧ s.switchedOut 0 = true ∧ (∃ v, s.vfs.get 0 = some v ∧ v.heldWrites.length < 64))
    ∧ (let s := asleep0 (List.replicate 64 (0, 8))
       s.switchedOut 0 = true ∧ (∃ v, s.vfs.get 0 = some v ∧ 64 ≤ v.heldWrites.length)) := by
  iterate 10 refine ⟨by decide +kernel, ?_⟩
  exact ⟨⟨by decide +kernel, by decide +kernel, by decide +kernel, _, rfl, by decide⟩, by decide +kernel, _, rfl, by decide⟩

/-! ## Translation -/

/-- A miss or a walk of core 0 for an access to an address. -/
def walk0 (va : BitVec 52) (asked : Option Nat) : Walk := ⟨20, 0, va, false, [.core 0], asked⟩

/-- The ready firing waits for the translation of an address. -/
def translating (va : BitVec 52) (f : Cluster → Cluster) : State :=
  { (inRope id (readyCore fun k => { k.modCur fun t => { t with phase := .parked } with park := some (.translation va false (some (.x 9))) })).modCluster 0 f with
    mem := imaged, vfs := [(0, guest0 [])] }

/-- An entry of the tables whose bits 6 and 7 are not zero, or whose present bit is not set, with D. -/
def firstEntry (b : Byte) (va : BitVec 52) : State := { translating va (fun k => { k with walks := [walk0 va none] }) with mem := ⟨[(0, b)], [], [], []⟩ }

theorem witness_Walks :
    (let s := translating 0x1000 fun k => { k with misses := [walk0 0x1000 none], cache := [page0 0 false] }
     (s.cluster 0).misses = [walk0 0x1000 none] ∧ findEntry (s.cluster 0).cache 0 0x1000 false = some (page0 0 false)
      ∧ (s.core ⟨0, 0⟩).park = some (.translation 0x1000 false (some (.x 9))) ∧ s.vfAt ⟨0, 0⟩ = 0 ∧ (s.core ⟨0, 0⟩).running.isSome = true)
    ∧ (let s := translating 0x1000 fun k => { k with misses := [walk0 0x1000 none], walks := [walk0 0x1008 none] }
       findEntry (s.cluster 0).cache 0 0x1000 false = none ∧ (walk0 0x1008 none).samePage 0 0x1000 = true)
    ∧ (let s := translating 0x1000 fun k => { k with misses := [walk0 0x1000 none], walks := [walk0 0x101000 none] }
       (walk0 0x101000 none).samePage 0 0x1000 = false ∧ (s.cluster 0).walks.length < 64 ∧ 64 ≤ (List.replicate 64 (walk0 0x101000 none)).length)
    ∧ (let s := translating 0x1000 fun k => { k with walks := [walk0 0x1000 none] }
       (s.cluster 0).walks.find? (fun w => w.no == 20 && w.asked.isNone) = some (walk0 0x1000 none)
        ∧ (match s.walk 0 0x1000 false with | .leaf _ => true | _ => false) = true ∧ s.walkAsleep 0 0x1000 = false
        ∧ ({ s with power := { Power.reset with thermal := Power.reset.thermal.set 0 3 } } : State).walkAsleep 0 0x1000 = true)
    ∧ (firstEntry 0x40 0x1000).walkAsleep 0 0x1000 = false
    ∧ (firstEntry 0x40 0x1000).walk 0 0x1000 false = .xlate
    ∧ (firstEntry 0x20 0x1000).walk 0 0x1000 false = .fault 0 0x20 ∧ (0x20 : Word64).getLsbD 5 = true
    ∧ (firstEntry 0x02 0x1000).walk 0 0x1000 false = .fault 0 2 ∧ (2 : Word64).getLsbD 5 = false ∧ (firstEntry 0x02 0x1000).vfs.get 0 = some (guest0 []) := by
  decide +kernel

/-- A miss of another core. -/
def early0 : Walk := { walk0 0x20000000 none with waiters := [.core 1] }

/-- Cluster 0 with as many walks as there can be, a miss that needs one of its own, and one that the cache answers or that a walk covers. -/
def fullWalks (cached : Bool) : State := translating 0x1000 fun k => { k with
  misses := [early0] ++ walk0 0x1000 none :: [], walks := walk0 (if cached then 0x101000 else 0x1008) none :: List.replicate 63 (walk0 0x101000 none),
  cache := if cached then [page0 0 false] else [] }

theorem witness_Walks_full :
    (∀ b : Bool, ((fullWalks b).cluster 0).misses = [early0] ++ walk0 0x1000 none :: [] ∧ (∀ x ∈ [early0] ++ [], Waiter.core 0 ∉ x.waiters ∧ x.waiters ≠ []) ∧ 64 ≤ ((fullWalks b).cluster 0).walks.length
      ∧ findEntry ((fullWalks b).cluster 0).cache 0 0x20000000 false = none ∧ ∀ w ∈ ((fullWalks b).cluster 0).walks, w.samePage 0 0x20000000 = false)
    ∧ findEntry ((fullWalks true).cluster 0).cache 0 0x1000 false = some (page0 0 false)
    ∧ findEntry ((fullWalks false).cluster 0).cache 0 0x1000 false = none ∧ (∃ w ∈ ((fullWalks false).cluster 0).walks, w.samePage 0 0x1000 = true) := by decide +kernel

/-- Cores 0 and 1 wait for one walk. -/
def bothWait : State :=
  (translating 0x1000 fun k => { k with walks := [{ walk0 0x1000 none with waiters := [.core 0, .core 1] }] }).modCore ⟨0, 1⟩ fun k =>
    { k with running := some 0, park := some (.translation 0x1008 false none) }

theorem witness_Walks_several :
    (bothWait.cluster 0).walks.find? (fun w => w.no == 20 && w.asked.isNone) = some { walk0 0x1000 none with waiters := [.core 0, .core 1] }
    ∧ ([.core 0, .core 1] : List Waiter) = [0, 1].map Waiter.core
    ∧ (∀ n ∈ [0, 1], n < 16 ∧ (bothWait.core ⟨0, n⟩).running.isSome = true ∧ (bothWait.core ⟨0, n⟩).park.isSome = true)
    ∧ bothWait.walkAsleep 0 0x1000 = false ∧ (match bothWait.walk 0 0x1000 false with | .leaf _ => true | _ => false) = true := by decide +kernel

/-- A reply of a verb to the fault message of walk 20, or to no fault. -/
def faultReply (verb no : Nat) : SysReq := ⟨9, 0, 3, .ofNat 64 (no + 2 ^ 24 * verb), 5, ⟨0, .host 0 1, 0, 0, 0, ⟨0, [], false⟩, 0, none⟩, [], 0⟩

/-- The reply has come, and the walk is asked for. -/
def answered (verb no : Nat) : State := { translating 0x1000 (fun k => { k with walks := [walk0 0x1000 (some 0)] }) with sysReqs := [faultReply verb no] }

/-- The reply is found; whether it names a walk, and its verb. -/
def names (verb no : Nat) : Bool :=
  decide ((answered verb no).sysReqs.find? (fun x => x.no == 9) = some (faultReply verb no)) && (answered verb no).askedWalk (faultReply verb no) == some (0, walk0 0x1000 (some 0))
    && decide ((faultReply verb no).word0.toNat / 2 ^ 24 % 2 ^ 2 = verb)

/-- A shootdown of VF 0's every page in cluster 0, by a host. -/
def shoot : SysReq := ⟨9, 0, 2, .ofNat 64 (2 ^ 55), 0, ⟨0, .host 0 1, 0, 0, 0, ⟨0, [], false⟩, 0, none⟩, [], 0⟩

theorem witness_FaultReplies :
    names 0 20 = true ∧ names 1 20 = true ∧ names 2 20 = true ∧ names 3 20 = true ∧ (answered 0 21).askedWalk (faultReply 0 21) = none
    ∧ (walk0 0x1000 (some 0)).waiters = [.core 0] ∧ ((answered 1 20).core ⟨0, 0⟩).park = some (.translation 0x1000 false (some (.x 9)))
    ∧ ((answered 1 20).core ⟨0, 0⟩).running.isSome = true ∧ (answered 1 20).vfs.get 0 = some (guest0 [])
    ∧ (answered 1 20).now.toNat < 0 + (guest0 []).trapWait.toNat * 10 ^ 6
    ∧ 0 + (guest0 []).trapWait.toNat * 10 ^ 6 ≤ ({ answered 1 20 with now := 10000000 } : State).now.toNat
    ∧ (∃ q ∈ (answered 1 20).sysReqs, q.service = 3 ∧ (answered 1 20).askedWalk q = some (0, walk0 0x1000 (some 0)))
    ∧ ({ answered 1 20 with sysReqs := [] } : State).sysReqs = []
    ∧ (let s := { ready id with sysReqs := [shoot] }
       s.sysReqs.find? (fun q => q.no == 9 && q.service == 2) = some shoot ∧ shoot.word1.toNat % 2 ^ 8 ≤ 0 ∧ 0 < shoot.word1.toNat % 2 ^ 8 + (shoot.word1.toNat / 2 ^ 8 % 2 ^ 8 + 1)
        ∧ 0 ∉ shoot.done ∧ shoot.word1.toNat % 2 ^ 8 + (shoot.word1.toNat / 2 ^ 8 % 2 ^ 8 + 1) ≤ 1 ∧ s.deviceApplied 0 (List.range 8) = true ∧ shoot.reply.sender = .host 0 1
        ∧ (withStores [entry 3 0x40] s).deviceApplied 0 (List.range 8) = false) := by decide +kernel

/-! ## Slices, switching, stops -/

/-- VF 0 of partition 0 with a rope and a slice of 1,000 ticks; another VF may have work too. -/
def sliced (other : Bool) : State :=
  { inRope id (hosted 1 []) with
    vfs := (0, { guest0 [] with slice := 1000 }) :: (if other then [(1, guest0 [])] else [])
    ropes := (0, bareRope) :: (if other then [(1, { bareRope with vf := 1 })] else []) }

theorem witness_Slices :
    ((sliced false).part 0).slicePhase = .running 0 0 0 ∧ (sliced false).sliceDue 0 0 = false ∧ ({ sliced false with now := 1000 } : State).sliceDue 0 0 = true
    ∧ ((sliced false).part 0).halted = false ∧ (sliced false).vfs.get 0 = some { guest0 [] with slice := 1000 } ∧ (guest0 []).part = 0 ∧ (guest0 []).slice = 0
    ∧ (sliced false).booted = true ∧ (((sliced false).modPart 0 fun p => { p with halted := true }).part 0).halted = true
    ∧ (0 ∈ (sliced false).workers 0 ∧ ∀ v ∈ (sliced false).workers 0, v = 0) ∧ (∃ v ∈ (sliced true).workers 0, v ≠ 0) ∧ (hosted 1 []).workers 0 = []
    ∧ ((State.reset.part 0).slicePhase = .idle none)
    ∧ (((sliced false).part 0).lapsed = none ∧ (∃ v, (sliced false).vfs.get 0 = some v ∧ v.sliceEnd 0 = some 1000)
      ∧ (({ sliced false with now := 1000 } : State).modPart 0 fun p => { p with lapsed := some (1000, 5, 1000) }).sliceOver 0 0 = 1000) := by
  iterate 6 refine ⟨by decide +kernel, ?_⟩
  decide +kernel

/-- A save image of the slot of actor 0. -/
def saved0 (readable : Bool) : SaveImage := ⟨[(⟨0, 0⟩, 0, { Slot.vacant with phase := .waiting, stateLen := 16 })], [], readable⟩

/-- VF 0 at rest in a phase of its partition, with an image. -/
def resting (phase : SlicePhase) (saved : Option SaveImage) : State :=
  { (sliced false).modPart 0 (fun p => { p with slicePhase := phase }) with vfs := [(0, { guest0 [] with saved := saved })] }

theorem witness_Switching :
    (let s := resting (.ending 0 0 0) none
     (s.part 0).slicePhase = .ending 0 0 0 ∧ s.vfs.get 0 = some { guest0 [] with saved := none } ∧ s.atRest 0 0 = true ∧ (s.part 0).halted = false)
    ∧ (let s := (resting (.ending 0 0 0) none).modCore ⟨0, 0⟩ fun k => { k with running := some 0 }; s.atRest 0 0 = false)
    ∧ (let s := resting (.idle none) none
       s.nextVf 0 = some 0 ∧ (s.part 0).slicePhase = .idle none ∧ (s.part 0).halted = false)
    ∧ (let s := resting (.saved 0 0) (some (saved0 true))
       s.nextVf 0 = some 0 ∧ (s.part 0).slicePhase = .saved 0 0 ∧ (saved0 true).readable = true
        ∧ (saved0 true).slots.Pairwise (fun a b => (CoreId.key a.1, a.2.1) ≠ (CoreId.key b.1, b.2.1)) ∧ (guest0 []).heldWrites = []
        ∧ s.mem.wf = true ∧ (∀ x ∈ s.rangesOf 0, x.1 % 16 = 0 ∧ x.2 % 16 = 0) ∧ (∃ x ∈ s.rangesOf 0, x.1 ≤ 2 ^ 39 ∧ 2 ^ 39 < x.1 + x.2)
        ∧ (∀ x ∈ s.rangesOf 0, 2 ^ 39 + 0x1000 < x.1 ∨ x.1 + x.2 ≤ 2 ^ 39 + 0x1000)
        ∧ ∃ im : SaveImage, im.words = (s.rangesOf 0).map (fun x => (x.1, s.mem.restrict x.1 x.2)) ∧ im = { saved0 true with words := im.words })
    ∧ (let s := resting (.ending 0 0 0) none
       s.ropes.get 0 = some bareRope ∧ 0 < bareRope.strands.length ∧ (⟨0, 0⟩, 0) ∈ bareRope.placesOf 0 ∧ ((s.core ⟨0, 0⟩).slot 0).rope = 0
        ∧ ((s.modCore ⟨0, 0⟩ fun k => k.modSlot 0 fun t => { t with phase := .waiting }).core ⟨0, 0⟩).slots[(0 : Fin 16)].phase ≠ .vacant)
    ∧ (let s := toured (tile .arrived) .touring
       s.tours.get 4 = some (tile .arrived) ∧ (tile .arrived).phase = .arrived ∧ s.stopActor (tile .arrived) = some (⟨0, 0⟩, 0) ∧ (tile .leaving).phase ≠ .arrived)
    ∧ (let s := resting (.idle none) (some (saved0 false))
       s.nextVf 0 = some 0 ∧ (saved0 false).readable = false ∧ s.ropes.get 0 = some bareRope ∧ bareRope.vf = 0 ∧ bareRope.ending = none)
    ∧ (∀ c ∈ (resting (.idle none) none).coresOf 0, (resting (.idle none) none).unperformed c = [] ∧ ((resting (.idle none) none).core c).running = none)
    ∧ (let s := (resting (.idle none) none).modCore ⟨0, 0⟩ fun k => { k with running := some 0 }; ∃ c ∈ s.coresOf 0, (s.core c).running.isSome = true)
    ∧ (∃ c ∈ (withStores [entry 3 0x40] (resting (.idle none) none)).coresOf 0, (withStores [entry 3 0x40] (resting (.idle none) none)).unperformed c ≠ [])
    ∧ imaged.wf = true ∧ 0x40 % 16 = 0 := by
  iterate 3 refine ⟨by decide +kernel, ?_⟩
  refine ⟨?_, by decide +kernel⟩
  iterate 9 refine ⟨by decide +kernel, ?_⟩
  exact ⟨⟨_, _, _⟩, rfl, rfl⟩

theorem witness_FencesAndWaits_replica :
    let s := { (monitoring true).modCore ⟨0, 0⟩ (fun k => { k with wait := .waita 7 0x40 false 0 true }) with sequencer := [{ update0 with acks := [0] }] }
    (s.core ⟨0, 0⟩).wait = .waita 7 0x40 false 0 true ∧ s.replicaPending ⟨0, 0⟩ (loadOp 7 0x40 8 false) = true := by decide +kernel

theorem witness_GangStops :
    (let s := (hosted 4 []).modPart 0 fun p => { p with fatal := true }
     (s.part 0).base + (s.part 0).len ≤ 256 ∧ (s.part 0).fatal = true)
    ∧ ((hosted 4 []).part 0).fatal = false ∧ (hosted 4 []).booted = true ∧ ((hosted 4 []).part 0).len ≠ 0 ∧ ((hosted 4 []).part 0).halted = false
    ∧ ((hosted 4 []).part 1).len = 0
    ∧ (let s := (sliced false).modPart 0 fun p => { p with halted := true }
       (s.part 0).halted = true ∧ (s.part 0).slicePhase = .running 0 0 0 ∧ (s.part 0).slicePhase.holder = some 0 ∧ s.ropes.get 0 = some bareRope ∧ bareRope.vf = 0 ∧ bareRope.ending = none)
    ∧ (let s := (inRope id (ready id)).modPart 0 fun p => { p with len := 1, halted := true }
       s.agenda = [] ∧ s.cur.cluster < 256 ∧ s.cur.core ≤ 8 ∧ s.coreHalted s.cur = true ∧ (s.core s.cur).wait = .none)
    ∧ (let s := ((inRope id (readyCore fun k => { k with wait := .delay 9 }))).modPart 0 fun p => { p with len := 1, halted := true }
       s.coreHalted s.cur = true ∧ (s.core s.cur).wait = .delay 9 ∧ s.now.toNat < 9)
    ∧ (let s := ((inRope id (readyCore fun k => { k with wait := .vstore [entry 3 0x40] }))).modPart 0 fun p => { p with len := 1, halted := true }
       s.agenda = [] ∧ s.coreHalted s.cur = true ∧ (s.core s.cur).running.isSome = true ∧ (s.core s.cur).park = none ∧ (s.core s.cur).wait = .vstore [entry 3 0x40])
    ∧ (let s := inRope (fun r => { r with ending := some .gangstop }) (readyCore fun k => { k with wait := .vstore [entry 3 0x40] })
       (s.core ⟨0, 0⟩).running.isSome = true ∧ (∃ r, s.ropeAt ⟨0, 0⟩ = some r ∧ r.ending = some .gangstop) ∧ (s.core ⟨0, 0⟩).wait.issued = true
        ∧ (s.runs ⟨0, 0⟩ 0 = true ∧ 0 ∈ bareRope.gang 0))
    ∧ (let s := inRope (fun r => { r with ending := some .gangstop }) (ready id)
       (∃ r, s.ropes.get 0 = some r ∧ ⟨0, 0⟩ ∈ r.cores ∧ r.ending = some .gangstop) ∧ s.runs ⟨0, 0⟩ 0 = true ∧ (s.core ⟨0, 0⟩).wait.issued = false)
    ∧ ((∀ g ∈ bareRope.gang 0, State.reset.runs ⟨0, g⟩ 0 = false ∧ State.reset.storesApplied ⟨0, g⟩ = true)
      ∧ (withStores [entry 3 0x40] State.reset).storesApplied ⟨0, 0⟩ = false)
    ∧ ((hosted 4 []).partOfCluster 0 = some 0 ∧ ((hosted 4 []).part 0).latched = none ∧ (((hosted 4 []).modPart 0 fun p => { p with latched := some 3 }).part 0).latched = some 3)
    ∧ (hosted 4 []).spreading 0 = false ∧ ((hosted 4 []).modPart 0 fun p => { p with spread := [(CoreId.key ⟨0, 0⟩, 1000)] }).spreading 0 = true := by decide +kernel

/-! ## Power -/

/-- A frame of 60 Hz and 800 V with sequence number 1. -/
def frame0 : List Byte :=
  let body : List Byte := [1, 0] ++ leBytes 4 60000 ++ leBytes 4 800 ++ [0]
  [0xA5] ++ body ++ [.ofNat 8 (crc16 body / 256), .ofNat 8 (crc16 body)]

/-- The power controller is changed. -/
def powered (f : Power → Power) : State := { inRope id (hosted 1 []) with power := f Power.reset }

theorem witness_Shedding :
    frameValid [] = false ∧ frameValid frame0 = true ∧ BitVec.ofNat 16 (leNat ((frame0.drop 1).take 2)) = 1
    ∧ Power.reset.heard = false ∧ Power.reset.pendingWrites = []
    ∧ (let p := { Power.reset with heard := true, seq := (1 : BitVec 16) }; p.heard = true ∧ p.seq = .ofNat 16 (leNat ((frame0.drop 1).take 2)))
    ∧ (let p := { Power.reset with points := Power.reset.points.set 0 ⟨.ofNat 64 (2 ^ 48 * 2 + 2 ^ 56 + 2 ^ 57), true⟩, shed := 0 }
       p.shed.getLsbD 1 = false)
    ∧ Power.reset.stale = true ∧ (powered fun p => { p with stale := false }).power.stale = false
    ∧ 0 + 5000000 ≤ ({ powered (fun p => { p with stale := false }) with now := 5000000 } : State).now.toNat
    ∧ Power.reset.freshSince + Power.reset.control.toNat / 2 ^ 8 % 2 ^ 16 * 10 ^ 6 ≤ ({ powered id with now := 1000000000 } : State).now.toNat
    ∧ (let r := { bareRope with shed := .asked 7 }
       let s := { powered id with ropes := [(0, r)] }
       s.ropes.get 0 = some r ∧ s.now.toNat < 7 ∧ 7 ≤ ({ s with now := 7 } : State).now.toNat)
    ∧ (let s := { powered (fun p => { p with shedFrom := some (0, 0xFE) }) with now := 9 }
       s.power.shedFrom = some (0, 0xFE) ∧ ∀ e ∈ s.ropes, (0xFE : BitVec 8).getLsbD e.2.decl.cls.toNat = true → e.2.shed = .none ∨ e.2.stopped s.now.toNat = true ∨ e.2.retired = true)
    ∧ (let r := { bareRope with shed := .asked 7, decl := { bareRope.decl with cls := 1 } }
       let s := { powered (fun p => { p with shedFrom := some (0, 0xFE) }) with ropes := [(0, r)] }
       (0xFE : BitVec 8).getLsbD r.decl.cls.toNat = true ∧ r.shed ≠ .none ∧ r.stopped s.now.toNat = false ∧ r.retired = false ∧ r.ending = none ∧ (∃ st ∈ r.strands, st.retired = false))
    ∧ (powered id).booted = true
    ∧ (let p := { Power.reset with unnamedSince := [(1, 0)] }
       p.eligible 1000000000 1 = true ∧ (∀ c < 1, p.eligible 1000000000 c = false) ∧ p.restoreRising = false ∧ p.lastRestore = none)
    ∧ Power.reset.eligible 1000000000 1 = false := by decide +kernel

theorem witness_PowerWindows :
    (let p := Power.reset
     p.up ≠ 0 ∧ p.current + 1000 * p.up.toNat < (([⟨0, 30000⟩] : List LoadRow).map LoadRow.current).sum
      ∧ (([⟨0, 20000⟩] : List LoadRow).map LoadRow.current).sum ≤ p.current + 1000 * p.up.toNat ∧ p.missed ≠ BitVec.allOnes 16)
    ∧ (let p := { Power.reset with current := 1000000, down := 50 }; p.current - 1000 * p.down.toNat - 900000 = 50000 ∧ p.down ≠ 0)
    ∧ (let p := { Part.reset with allot := 10 }
       p.allot ≠ 0 ∧ 10 * p.allot.toNat < 101 ∧ p.throttle.toNat < 16 ∧ 100 ≤ 10 * p.allot.toNat)
    ∧ (let p := { Part.reset with allot := 10, throttle := 2, calmWindows := 9 }; 10 * 90 ≤ 90 * p.allot.toNat ∧ 9 ≤ p.calmWindows ∧ p.throttle ≠ 0)
    ∧ 10 * 100 ≤ 90 * (12 : BitVec 12).toNat
    ∧ ({ State.reset with now := 10000 } : State).idleLong 0 = true ∧ ({ State.reset with now := 9999 } : State).idleLong 0 = false ∧ (ready id).idleLong 0 = false
    ∧ (let s := { State.reset with agenda := [.tick 200] }; s.agenda = [.tick 200] ∧ s.power.stale = true)
    ∧ (let s := { powered (fun p => { p with stale := false }) with now := 4999900, agenda := [.tick 200] }
       s.agenda = [.tick 200] ∧ s.power.stale = false ∧ s.power.lastFrame + 5000000 ≤ (s.now + .ofNat 64 200).toNat)
    ∧ ({ State.reset with agenda := [.tick 200] } : State).agenda = [.tick 200] ∧ 850 ≤ 900 ∧ 700 < 850
    ∧ State.reset.clusterIdle 0 = true ∧ (ready id).clusterIdle 0 = false ∧ (hosted 1 []).partOfCluster 0 = some 0 ∧ ((hosted 1 []).part 0).throttle = 0
    ∧ ((((hosted 1 []).modPart 0 fun p => { p with throttle := 1 }).part 0).throttle ≠ 0)
    ∧ (0 < 4 ∧ 105 ≤ 105 ∧ (State.reset.power.thermal[0]) ≤ 1 ∧ ((hosted 1 []).part 0).len ≠ 0 ∧ ((hosted 1 []).part 0).halted = false) := by decide +kernel

/-! ## Management and boot -/

theorem witness_ManagementSenders : commandSender (.halt (.guest 3 2) 0) = some (.guest 3 2) ∧ State.reset.booted = false ∧ (hosted 1 []).booted = true := by decide +kernel

theorem witness_ManagementCommands :
    (hosted 4 []).booted = true ∧ (hosted 4 []).mayDefine 1 4 4 2 = true ∧ (hosted 4 []).mayDefine 1 0 4 2 = false ∧ (4 : Nat) ≠ 0
    ∧ (hosted 4 []).vfsOf 0 < 64 ∧ 384 ≤ 384 ∧ 383 < 384 ∧ (4096 ≤ (4096 : Nat) ∧ 4095 < 4096 ∧ (⟨0, 0, 4096, false⟩ : Endpoint).context = 4096)
    ∧ ([7].length ≤ (if true = true then 1 else 16) ∧ (if true = true then 1 else 16) < [7, 8].length)
    ∧ (950 < (955 : BitVec 16).toNat ∧ (948 : BitVec 16).toNat % 5 ≠ 0 ∧ (950 : BitVec 16).toNat ≤ 950 ∧ (950 : BitVec 16).toNat % 5 = 0)
    ∧ (hosted 4 []).vfs.get 7 = none ∧ (hosted 4 []).vfs.get 0 ≠ none ∧ (hosted 4 []).vfs.get 0 = some (guest0 [])
    ∧ ((0 : BitVec 32) = 0 ↔ (0 : BitVec 16) = 0) ∧ ¬ ((0 : BitVec 32) = 0 ↔ (1 : BitVec 16) = 0)
    ∧ ((((List.range 16).filter fun p => p != 0).map fun p => (((hosted 4 []).part p).shares.toList[0]?).getD 0).sum + 100 ≤ 100)
    ∧ 100 < (((List.range 16).filter fun p => p != 0).map fun p => (((hosted 4 []).part p).shares.toList[0]?).getD 0).sum + 101
    ∧ (powered fun p => { p with stale := false }).power.stale = false ∧ (powered id).power.stale = true := by decide +kernel

/-- Of an image whose fields stand right, whether it verifies is for the primitives of the package to say, and they are not the spec's to give (log entry 8): the cases
of BOOT events in which one verifies are met wherever they accept one. -/
theorem witness_BootEvents :
    State.reset.boot.verifies [] = false ∧ State.reset.boot.recovery = false ∧ State.reset.booted = false ∧ (hosted 1 []).boot.recovery = false ∧ ({ State.reset.boot with recovery := true }).recovery = true ∧ (hosted 1 []).booted = true
    ∧ State.reset.mayAttest (.guest 0 0) = true ∧ (hosted 1 []).mayAttest (.guest 0 0) = false
    ∧ (List.replicate 32 (0 : Byte)).length = 32 ∧ ([] : List Byte).length ≠ 32
    ∧ ({ State.reset with agenda := [.bootStep] } : State).agenda = [.bootStep] ∧ State.reset.boot.step = 0 ∧ (hosted 1 []).boot.step = 6
    ∧ 1 ≤ ({ State.reset.boot with step := 5 } : Boot).step ∧ ({ State.reset.boot with step := 5 } : Boot).step ≤ 5 := by decide +kernel

/-- An image of no code with the format that R376 asks for, and a version. -/
def firmware : List Byte :=
  leBytes 4 0x57464D41 ++ leBytes 4 1 ++ leBytes 4 0xFF ++ leBytes 4 0 ++ List.replicate 0x815 0

theorem witness_BootEvents_verifies (code : Config.sha384 [] = fwDigest firmware) (key : Config.sha384 (fwField firmware 0x40 97) = Config.fusedEcKey)
    (sig : Config.ecdsaVerifies (fwField firmware 0x40 97) (fwField firmware 0xA1 96) (fwField firmware 0 0x40) = true)
    (lms : Config.sha384 (fwField firmware 0x101 56) = Config.fusedLmsKey)
    (sig2 : Config.lmsVerifies (fwField firmware 0x101 56) (fwField firmware 0x139 1772) (fwField firmware 0 0x40) = true)
    (least : State.reset.boot.least ≤ 0xFF) : State.reset.boot.verifies firmware = true := by
  have len : leNat (fwField firmware 0xC 4) = 0 := by decide +kernel
  have svn : fwSvn firmware = 0xFF := by decide +kernel
  have none : fwField firmware 0x825 0 = [] := by decide +kernel
  have magic : leNat (fwField firmware 0 4) = 0x57464D41 ∧ leNat (fwField firmware 4 4) = 1 ∧ firmware.length = 0x825 := by decide +kernel
  simp only [Boot.verifies, len, svn, none, magic.1, magic.2.1, magic.2.2, code, key, sig, lms, sig2, decide_eq_true least, beq_self_eq_true, Bool.and_true]
  decide

/-! ## Invariants and frames -/

theorem witness_MemoryFormKept : (ready id).mem.wf = true ∧ (match step (fetching id) with | .next _ => true | _ => false) = true := by decide +kernel

theorem witness_RegisterFrame :
    (∃ f, integerForm (.add 7 5 6 false true) = some f ∧ oneTwo.Issues oneTwo.cur f.srcs [f.dest] ∧ oneTwo.mem.wf = true)
    ∧ (∃ f, floatForm (.fdiv 3 1 2 false false 1) = some f ∧ (divides 0).Issues (divides 0).cur f.srcs [f.dest] ∧ ¬ f.raises (divides 0) ∧ (divides 0).mem.wf = true)
    ∧ (∃ f, vectorIntegerForm (.vadd 3 1 2 0 true) = some f ∧ (lanes16 0).Issues (lanes16 0).cur f.srcs [.v f.dest] ∧ (lanes16 0).mem.wf = true)
    ∧ CoreId.key ⟨0, 1⟩ ≠ CoreId.key oneTwo.cur := by
  refine ⟨⟨_, rfl, issues_of (by decide), by decide⟩, ⟨_, rfl, issues_of (by decide), ?_, by decide⟩, ⟨_, rfl, issues_of (by decide), by decide⟩, by decide⟩
  unfold FpForm.raises
  decide

theorem witness_MemoryFrame :
    (loadPasses (holding own 0 0) (2 ^ 39 + 0x1000) false ∧ own.space = 1 ∧ (holding own 0 0).LoadsNow (2 ^ 39 + 0x1000) 8 false
      ∧ (holding own 0 0).mem.loadBad (2 ^ 39 + 0x1000) (((holding own 0 0).core ⟨0, 0⟩).forward (2 ^ 39 + 0x1000) 8) = false)
    ∧ (loadPasses (holding (other 2) 0 0) (2 ^ 39 + 0x1000) false ∧ ((holding (other 2) 0 0).core ⟨0, 0⟩).loadsOut < 32)
    ∧ (loadPasses (lately (holding own 0 0)) (2 ^ 39 + 0x1000) false ∧ ((lately (holding own 0 0)).core ⟨0, 0⟩).late = true)
    ∧ (vectorStores (vectors own 16) 16 ∧ ((vectors own 16).core ⟨0, 0⟩).entries + 16 ≤ 16 ∧ (vectors own 16).mem.wf = true)
    ∧ (vectorStores (vectors own 17) 17 ∧ ((vectors own 17).core ⟨0, 0⟩).stores = [])
    ∧ (storePasses (holding own 5 0) (2 ^ 39 + 0x1000) false ∧ (holding own 5 0).mem.wf = true)
    ∧ (atomicPasses (holding own 5 0) (2 ^ 39 + 0x1000) false ∧ ((holding own 5 0).core ⟨0, 0⟩).stores = [])
    ∧ imaged.wf = true ∧ ({ entry 3 0x40 with bytes := placed 0x40 [1, 2] } : StoreEntry).bytes = placed 0x40 [1, 2] :=
  ⟨⟨⟨_, rfl, issues_of (by decide), by decide⟩, by decide, by unfold State.LoadsNow; decide, by decide⟩,
    ⟨⟨_, rfl, issues_of (by decide), by decide⟩, by decide⟩,
    ⟨witness_LoadResults_late.1, witness_LoadResults_late.2.1⟩,
    ⟨witness_VectorMemory_blocks.1.1, witness_VectorMemory_blocks.1.2, by decide⟩, witness_VectorMemory_blocks.2.2.1,
    ⟨⟨_, rfl, issues_of (by decide), by decide, by decide⟩, by decide⟩, ⟨⟨_, rfl, issues_of (by decide), by decide⟩, by decide⟩, by decide +kernel, by decide⟩

end Sys2Proof.Tests
end

section
/-! SUPPORT. Operations of the state that write no memory: those that `Laws/Ops` does not name yet. -/

namespace Sys2Proof.Machine

@[simp] theorem State.mem_ite (p : Prop) [Decidable p] (s t : State) : (if p then s else t).mem = if p then s.mem else t.mem := apply_ite ..

@[simp] theorem State.snd_mem_ite {α : Type} (p : Prop) [Decidable p] (a b : α × State) :
    (if p then a else b).2.mem = if p then a.2.mem else b.2.mem := apply_ite (fun x : α × State => x.2.mem) ..

/-! ### Networks, limiters and rails -/

@[simp] theorem charge_mem (s : State) (part cl payload : Nat) : (s.charge part cl payload).mem = s.mem := by simp [State.charge]
@[simp] theorem chargeAccess_mem (s : State) (cl loc request reply : Nat) : (s.chargeAccess cl loc request reply).mem = s.mem := by
  unfold State.chargeAccess
  split
  · split <;> simp
  · simp

@[simp] theorem settleRail_mem (s : State) (cl : Nat) : (s.settleRail cl).mem = s.mem := rfl
@[simp] theorem wakeCluster_mem (s : State) (cl : Nat) : (s.wakeCluster cl).mem = s.mem := rfl
@[simp] theorem noteBusy_mem (s : State) : s.noteBusy.mem = s.mem := rfl

/-! ### Operands -/

@[simp] theorem markDest_mem (s : State) (c : CoreId) (dest : Option Reg) : (s.markDest c dest).mem = s.mem := by
  unfold State.markDest
  split <;> simp

@[simp] theorem putXNext_mem (s : State) (c : CoreId) (n : BitVec 5) (v : Word64) : (s.putXNext c n v).mem = s.mem := by simp [State.putXNext]
@[simp] theorem putCNext_mem (s : State) (c : CoreId) (n : BitVec 5) (v : Cap) : (s.putCNext c n v).mem = s.mem := rfl
@[simp] theorem putFNext_mem (s : State) (c : CoreId) (n : BitVec 5) (v : Word64) : (s.putFNext c n v).mem = s.mem := rfl
@[simp] theorem addProducer_mem (s : State) (c : CoreId) (dest : Option Reg) (detail : Word64) (p : Pending) :
    (s.addProducer c dest detail p).mem = s.mem := by simp [State.addProducer]
@[simp] theorem defer_mem (s : State) (c : CoreId) (dest : Reg) (detail : Word64) (p : Pending) : (s.defer c dest detail p).mem = s.mem := rfl

/-! ### Floating-point results -/

@[simp] theorem writeResult_mem (s : State) (c : CoreId) (d : FpDefault) (whole : Bool) : (s.writeResult c d whole).mem = s.mem := by
  unfold State.writeResult
  split <;> simp

/-! ### The lane pool -/

@[simp] theorem noteTake_mem (s : State) (c : CoreId) : (s.noteTake c).mem = s.mem := rfl

/-! ### What a mailbox unit decides -/

@[simp] theorem chargeMessage_mem (s : State) (p : Packet) : (s.chargeMessage p).mem = s.mem := by
  unfold State.chargeMessage
  split <;> simp

@[simp] theorem modActor_mem (s : State) (rope : Nat) (c : CoreId) (i : Nat) (f : Slot → Slot) :
    (s.modActor rope c i f).mem = s.mem := by simp [State.modActor]
@[simp] theorem offerActor_mem (s : State) (p : Packet) : (s.offerActor p).2.mem = s.mem := by
  unfold State.offerActor
  dsimp only
  split
  · rfl
  · split <;> simp

@[simp] theorem offerLauncher_mem (s : State) (p : Packet) : (s.offerLauncher p).2.mem = s.mem := by
  unfold State.offerLauncher
  dsimp only
  split
  · rfl
  · split <;> simp

@[simp] theorem offerHost_mem (s : State) (p : Packet) : (s.offerHost p).2.mem = s.mem := by
  unfold State.offerHost
  dsimp only
  split
  · rfl
  · split <;> simp

@[simp] theorem offerSystem_mem (s : State) (p : Packet) : (s.offerSystem p).2.mem = s.mem := by simp [State.offerSystem]
@[simp] theorem offer_mem (s : State) (p : Packet) : (s.offer p).2.mem = s.mem := by
  unfold State.offer
  split
  · simp
  · split <;> simp

@[simp] theorem refusalReply_mem (s : State) (rope : Nat) (c : CoreId) (slot port : Nat) (w0 w1 : Word64) :
    (s.refusalReply rope c slot port w0 w1).mem = s.mem := by
  unfold State.refusalReply
  split
  · rfl
  · split <;> simp

/-! ### Arrivals -/

@[simp] theorem arrive_mem (s : State) (c : CoreId) (p : Producer) (v : Value) : (s.arrive c p v).mem = s.mem := by
  unfold State.arrive
  dsimp only
  repeat' split
  all_goals simp

@[simp] theorem armLate_mem (s : State) (c : CoreId) (p : Producer) (w : Word64) (loc : Nat) (repl : Bool) :
    (s.armLate c p w loc repl).mem = s.mem := by simp [State.armLate]
@[simp] theorem readElement_mem (s : State) (c : CoreId) (p : Producer) (es : List ElemLoad) (width : Nat) (acc : BitVec 4096) (i : Nat) :
    (s.readElement c p es width acc i).mem = s.mem := by
  unfold State.readElement
  split <;> simp

@[simp] theorem readAhead_mem (s : State) (c : CoreId) (prod elem : Nat) : (s.readAhead c prod elem).mem = s.mem := by
  unfold State.readAhead
  split
  · split <;> simp
  · simp

@[simp] theorem arrival_mem (s : State) (c : CoreId) (p : Producer) : (s.arrival c p).mem = s.mem := by
  unfold State.arrival
  repeat' split
  all_goals simp

/-! ### Atomics, waits on a word, barriers -/

@[simp] theorem notify_mem (s : State) (c : CoreId) (x : AtomicAt) : (s.notify c x).mem = s.mem := by simp [State.notify]
@[simp] theorem replicaAck_mem (s : State) (upd die : Nat) : (s.replicaAck upd die).mem = s.mem := rfl
@[simp] theorem endWaita_mem (s : State) (c : CoreId) (no loc : Nat) (replicated stopped : Bool) :
    (s.endWaita c no loc replicated stopped).mem = s.mem := by simp [State.endWaita]
@[simp] theorem arriveTree_mem (s : State) (c : CoreId) (rd : Option (BitVec 5)) (v : Option Word64) :
    (s.arriveTree c rd v).mem = s.mem := by simp [State.arriveTree]
@[simp] theorem leaveTree_mem (s : State) (c : CoreId) (least : Word64) : (s.leaveTree c least).mem = s.mem := by
  unfold State.leaveTree
  split
  · split <;> simp
  · simp

/-! ### Messages -/

@[simp] theorem unbind_mem (s : State) (c : CoreId) (n : BitVec 5) : (s.unbind c n).mem = s.mem := by
  unfold State.unbind
  split <;> simp

@[simp] theorem rebind_mem (s : State) (c : CoreId) (n : BitVec 5) (same : Binding → Bool) (b : Binding) :
    (s.rebind c n same b).mem = s.mem := by simp [State.rebind]
@[simp] theorem startAnswered_mem (s : State) (rope logical : Nat) (a : Answer) :
    (s.startAnswered rope logical a).mem = s.mem := by simp [State.startAnswered]
@[simp] theorem modTourSlot_mem (s : State) (cl slot : Nat) (f : TourSlot → TourSlot) : (s.modTourSlot cl slot f).mem = s.mem := rfl
@[simp] theorem offerCompletion_mem (s : State) (cl : Nat) (e : Completion) : (s.offerCompletion cl e).mem = s.mem := by
  unfold State.offerCompletion
  split
  · simp
  · split <;> simp

@[simp] theorem finishTour_mem (s : State) (n : Nat) (t : Tour) : (s.finishTour n t).mem = s.mem := by
  unfold State.finishTour
  dsimp only
  repeat' split
  all_goals simp

@[simp] theorem completed_mem (s : State) (cl entry : Nat) : (s.completed cl entry).mem = s.mem := by
  unfold State.completed
  dsimp only
  repeat' split
  all_goals simp

@[simp] theorem unitAnswered_mem (s : State) (p : Packet) (a : Answer) : (s.unitAnswered p a).mem = s.mem := by
  unfold State.unitAnswered
  repeat' split
  all_goals simp

@[simp] theorem portAnswered_mem (s : State) (c : CoreId) (slot port rope : Nat) (p : Packet) (a : Answer) :
    (s.portAnswered c slot port rope p a).mem = s.mem := by simp [State.portAnswered]
/-! ### The copy unit -/

@[simp] theorem queueJob_mem (s : State) (c : CoreId) (work : JobWork) (rowBytes rows : Nat) : (s.queueJob c work rowBytes rows).2.mem = s.mem := by
  unfold State.queueJob
  dsimp only
  split
  · simp
  · split <;> simp

@[simp] theorem jobMiss_mem (s : State) (cl id va : Nat) (write : Bool) : (s.jobMiss cl id va write).mem = s.mem := by simp [State.jobMiss]
@[simp] theorem failJob_mem (s : State) (cl id : Nat) (code : TrapCode) : (s.failJob cl id code).mem = s.mem := by
  unfold State.failJob
  dsimp only
  split
  · simp
  · split <;> simp

@[simp] theorem noteSources_mem (s : State) (rope : Nat) (f : List SourceNote → List SourceNote) :
    (s.noteSources rope f).mem = s.mem := by simp [State.noteSources]
@[simp] theorem startSource_mem (s : State) (cl id : Nat) (tour : Bool) (ranges : List (Nat × Nat)) :
    (s.startSource cl id tour ranges).mem = s.mem := by simp [State.startSource]
@[simp] theorem noteRead_mem (s : State) (cl id : Nat) (src : Side) (loc : Nat) : (s.noteRead cl id src loc).mem = s.mem := by simp [State.noteRead]
@[simp] theorem doneJob_mem (s : State) (cl id : Nat) : (s.doneJob cl id).mem = s.mem := rfl

/-- A word that the copy unit cannot read yet leaves memory as it was. -/
theorem readJobWord_mem {s t : State} {cl id : Nat} {src : Side} {row off : Nat} (ht : s.readJobWord cl id src row off = .inl t) :
    t.mem = s.mem := by
  unfold State.readJobWord at ht
  dsimp only at ht
  split at ht
  · cases ht; simp
  · split at ht
    · cases ht; rfl
    · split at ht
      · cases ht; simp
      · cases ht

/-! ### The end of a firing -/

@[simp] theorem awaitProducers_mem (s : State) (c : CoreId) : (s.awaitProducers c).mem = s.mem := rfl
@[simp] theorem retireSlot_mem (s : State) (c : CoreId) : (s.retireSlot c).mem = s.mem := by simp [State.retireSlot]

/-! ### Tours -/

@[simp] theorem grantSlot_mem (s : State) (n cl slot : Nat) : (s.grantSlot n cl slot).mem = s.mem := by simp [State.grantSlot]
@[simp] theorem askSlot_mem (s : State) (n : Nat) (t : Tour) : (s.askSlot n t).mem = s.mem := by
  unfold State.askSlot
  dsimp only
  split <;> simp

@[simp] theorem expireTour_mem (s : State) (n : Nat) (t : Tour) : (s.expireTour n t).mem = s.mem := by
  unfold State.expireTour
  dsimp only
  split <;> simp

@[simp] theorem offerArrival_mem (s : State) (n : Nat) (t : Tour) : (s.offerArrival n t).mem = s.mem := by
  unfold State.offerArrival
  split <;> simp

@[simp] theorem hitched_mem (s : State) (n : Nat) (t : Tour) (cl slot : Nat) : (s.hitched n t cl slot).mem = s.mem := by simp [State.hitched]
/-! ### Vector stores -/

@[simp] theorem enterElems_mem (s : State) (c : CoreId) (elems : List StoreEntry) : (s.enterElems c elems).mem = s.mem := by simp [State.enterElems]
/-! ### Before a fetch -/

@[simp] theorem idleCycle_mem (s : State) (c : CoreId) : (s.idleCycle c).mem = s.mem := rfl
@[simp] theorem budgetTrap_mem (s : State) (c : CoreId) : (s.budgetTrap c).mem = s.mem := by simp [State.budgetTrap]

/-- What comes before a fetch, where it takes the turn, leaves memory as it was. -/
theorem before_mem {s t : State} {c : CoreId} (ht : s.before c = .inl t) : t.mem = s.mem := by
  unfold State.before at ht
  dsimp only at ht
  repeat' split at ht
  all_goals cases ht
  all_goals simp

/-! ### System registers, snapshots, strands -/

@[simp] theorem snapshot_mem (s : State) (part : Nat) (cause : BitVec 3) : (s.snapshot part cause).mem = s.mem := by
  unfold State.snapshot
  split
  · rfl
  · exact (modPart_mem ..).trans (foldl_mem _ (fun _ _ => State.modCore_mem ..) _ _)

@[simp] theorem writeSys_mem (s : State) (c : CoreId) (n : BitVec 12) (w : Word64) : (s.writeSys c n w).mem = s.mem := by
  unfold State.writeSys
  split <;> simp

@[simp] theorem retireStrand_mem (s : State) (rope strand : Nat) : (s.retireStrand rope strand).mem = s.mem := by
  unfold State.retireStrand
  split
  · rfl
  · simp [foldl_mem]

@[simp] theorem strandIfDone_mem (s : State) (rope strand : Nat) : (s.strandIfDone rope strand).mem = s.mem := by
  unfold State.strandIfDone
  split <;> simp

/-! ### Translation -/

@[simp] theorem endMiss_mem (s : State) (c : CoreId) (dest : Option Reg) : (s.endMiss c dest).mem = s.mem := by
  unfold State.endMiss
  split <;> simp

@[simp] theorem endTranslationPark_mem (s : State) (c : CoreId) : (s.endTranslationPark c).mem = s.mem := by
  unfold State.endTranslationPark
  split <;> simp

@[simp] theorem tlbInstall_mem (s : State) (cl : Nat) (cores : List Nat) (e : TlbEntry) : (s.tlbInstall cl cores e).mem = s.mem := by
  simp [State.tlbInstall, foldl_mem]

@[simp] theorem tlbRemove_mem (s : State) (cl : Nat) (cores : List Nat) (tag : Word64) : (s.tlbRemove cl cores tag).mem = s.mem := by
  unfold State.tlbRemove
  exact foldl_mem _ (fun _ _ => State.modCore_mem ..) _ _

@[simp] theorem failWaiter_mem (s : State) (cl : Nat) (code : TrapCode) (refused : Bool) (w : Waiter) :
    (s.failWaiter cl code refused w).mem = s.mem := by
  unfold State.failWaiter
  dsimp only
  split
  · simp
  · split <;> simp

@[simp] theorem endWalk_mem (s : State) (cl : Nat) (w : Walk) (f : State → Waiter → State) (hf : ∀ s w, (f s w).mem = s.mem) :
    (s.endWalk cl w f).mem = s.mem := by
  simp [State.endWalk, foldl_mem, hf]

@[simp] theorem takeReq_mem (s : State) (no : Nat) : (s.takeReq no).mem = s.mem := rfl
@[simp] theorem denyWalk_mem (s : State) (cl : Nat) (w : Walk) : (s.denyWalk cl w).mem = s.mem := by simp [State.denyWalk]

/-! ### Starting a firing, and answers to a trap -/

@[simp] theorem visitTiles_mem (s : State) (c : CoreId) (i : Nat) (firing : Nat) (claimed : List Msg) :
    (s.visitTiles c i firing claimed).mem = s.mem := rfl
@[simp] theorem expireOverdue_mem (s : State) (c : CoreId) : (s.expireOverdue c).mem = s.mem := by
  simp [State.expireOverdue, foldl_mem]

@[simp] theorem resume_mem (s : State) (c : CoreId) (replacement : Option Word64) : (s.resume c replacement).mem = s.mem := by
  unfold State.resume
  dsimp only
  split
  · split <;> simp
  · simp

@[simp] theorem retry_mem (s : State) (c : CoreId) : (s.retry c).mem = s.mem := by
  unfold State.retry
  split <;> simp

@[simp] theorem answerTrap_mem (s : State) (reply : Nat) (q : SysReq) (allowed : TrapCode → Bool) (act : State → CoreId → State)
    (hact : ∀ s c, (act s c).mem = s.mem) :
    (s.answerTrap reply q allowed act).mem = s.mem := by
  unfold State.answerTrap
  dsimp only
  split
  · simp
  · split <;> simp [hact]

/-! ### The routers -/

@[simp] theorem refuseContribution_mem (s : State) (p : Contribution) (why : BitVec 3) : (s.refuseContribution p why).mem = s.mem := by
  unfold State.refuseContribution
  split <;> simp

@[simp] theorem forward_mem (s : State) (cl i : Nat) : (s.forward cl i).mem = s.mem := by
  unfold State.forward
  split <;> simp

@[simp] theorem combineAt_mem (s : State) (cl i : Nat) (v : Word64) : (s.combineAt cl i v).mem = s.mem := by simp [State.combineAt]
@[simp] theorem applyHeld_mem (s : State) (cl i : Nat) (p : Contribution) : (s.applyHeld cl i p).mem = s.mem := by
  unfold State.applyHeld
  split <;> simp

@[simp] theorem nextWave_mem (s : State) (cl i : Nat) : (s.nextWave cl i).mem = s.mem := by
  simp [State.nextWave, foldl_mem]

@[simp] theorem freeRedSlot_mem (s : State) (cl i : Nat) : (s.freeRedSlot cl i).mem = s.mem := by
  simp [State.freeRedSlot, foldl_mem]

@[simp] theorem freeRopeSlots_mem (s : State) (rope : Nat) : (s.freeRopeSlots rope).mem = s.mem := by
  unfold State.freeRopeSlots
  exact foldl_mem _ (fun s e => foldl_mem _ (fun s i => by
    split
    · split <;> simp
    · rfl) _ _) _ _

@[simp] theorem chargeReq_mem (s : State) (q : RedReq) (payload : Nat) (now : Bool) :
    (s.chargeReq q payload now).mem = s.mem := by simp [State.chargeReq]
@[simp] theorem reserve_mem (s : State) (cl : Nat) (q : RedReq) : (s.reserve cl q).2.mem = s.mem := by
  unfold State.reserve
  dsimp only
  split
  · simp
  · split <;> simp

@[simp] theorem answerProducer_mem (s : State) (q : RedReq) (p : Pending) : (s.answerProducer q p).mem = s.mem := by simp [State.answerProducer]
@[simp] theorem redResult_mem (s : State) (cl i : Nat) (q : RedReq) (v : Word64) : (s.redResult cl i q v).mem = s.mem := by
  unfold State.redResult
  dsimp only
  split <;> simp

@[simp] theorem sendOver_mem (s : State) (ctx : Nat) : (s.sendOver ctx).2.mem = s.mem := by
  unfold State.sendOver
  split <;> simp

@[simp] theorem writeFails_mem (s : State) (ctx vf : Nat) : (s.writeFails ctx vf).mem = s.mem := by simp [State.writeFails]

/-! ### Cables -/

@[simp] theorem markComplete_mem (s : State) (n : Nat) (c : Cable) (o : RopeOutcome) (decider : Nat) :
    (s.markComplete n c o decider).mem = s.mem := by simp [State.markComplete]
@[simp] theorem sendDone_mem (s : State) (n : Nat) : (s.sendDone n).mem = s.mem := by
  unfold State.sendDone
  split <;> simp

@[simp] theorem freeTexts_mem (s : State) (vf : Nat) : (s.freeTexts vf).mem = s.mem := rfl
/-- Completing a cable, and those that depend on it, writes no memory. -/
@[simp] theorem completeCable_mem (fuel : Nat) : ∀ (s : State) (n : Nat) (o : RopeOutcome) (decider : Nat),
    (State.completeCable fuel s n o decider).mem = s.mem := by
  induction fuel with
  | zero => exact fun _ _ _ _ => rfl
  | succ fuel ih =>
    intro s n o decider
    unfold State.completeCable
    split
    · rfl
    · dsimp only
      rw [sendDone_mem, foldl_mem _ (fun s e => ?_), markComplete_mem]
      split
      · simp
      · split
        · split <;> simp [ih]
        · rfl

@[simp] theorem finishCable_mem (s : State) (n : Nat) (o : RopeOutcome) (decider : Nat) : (s.finishCable n o decider).mem = s.mem := by
  unfold State.finishCable
  dsimp only
  split <;> simp

@[simp] theorem cableIfDone_mem (s : State) (n : Nat) : (s.cableIfDone n).mem = s.mem := by
  unfold State.cableIfDone
  dsimp only
  repeat' split
  all_goals simp

/-! ### The matrix array -/

@[simp] theorem failGang_mem (s : State) (c : CoreId) : (s.failGang c).mem = s.mem := by simp [State.failGang]

@[simp] theorem stepRead_mem (s : State) (cl step loc : Nat) : (s.stepRead cl step loc).mem = s.mem := rfl

/-! ### Placing a rope -/

@[simp] theorem fillSlots_mem (s : State) (rope strand : Nat) (d : StrandDecl) (xs : List Extent) (places : List (CoreId × Nat)) :
    (s.fillSlots rope strand d xs places).mem = s.mem := by
  unfold State.fillSlots
  exact foldl_mem _ (fun _ _ => State.modSlot_mem ..) _ _

@[simp] theorem loadText_mem (s : State) (vf : Nat) (image : BitVec 52) (h : Header) : (s.loadText vf image h).mem = s.mem := by simp [State.loadText]
@[simp] theorem rechooseArgs_mem (s : State) (rope : Nat) : (s.rechooseArgs rope).mem = s.mem := by simp [State.rechooseArgs]
@[simp] theorem sendStart_mem (s : State) (rope : Nat) (r : Rope) (logical : Nat) : (s.sendStart rope r logical).mem = s.mem := rfl

/-- Placing strands in the clusters writes no memory. -/
theorem placeStrands_mem {part : Part} {rope : Nat} (ds : List (StrandDecl × Nat)) : ∀ {s t : State} {ptr ptr' : Nat} {used : List Nat}
    {strands : List Strand} {table : List (BitVec 32)}, s.placeStrands part rope ds ptr used = some (t, ptr', strands, table) → t.mem = s.mem := by
  induction ds with
  | nil => intro s t ptr ptr' used strands table ht; cases ht; rfl
  | cons d rest ih =>
    intro s t ptr ptr' used strands table ht
    unfold State.placeStrands at ht
    dsimp only at ht
    split at ht
    · cases ht
    · split at ht
      · cases ht
      · next hs => cases ht; simpa using ih hs

/-! ### Ends of ropes, slices and switches -/

@[simp] theorem tear_mem (s : State) (c : CoreId) : (s.tear c).mem = s.mem := by simp [State.tear]
@[simp] theorem abortParked_mem (s : State) (rope : Nat) (r : Rope) : (s.abortParked rope r).mem = s.mem := by
  simp [State.abortParked, foldl_mem]

@[simp] theorem endLaunch_mem (s : State) (n : Nat) (o : RopeOutcome) : (s.endLaunch n o).mem = s.mem := by simp [State.endLaunch]
@[simp] theorem endRope_mem (s : State) (rope : Nat) (o : RopeOutcome) : (s.endRope rope o).mem = s.mem := by
  unfold State.endRope
  split <;> simp

@[simp] theorem tearStopped_mem (s : State) (rope : Nat) (r : Rope) :
    (s.tearStopped rope r).mem = s.mem := by simp [State.tearStopped, foldl_mem]
@[simp] theorem retireRope_mem (s : State) (rope : Nat) (r : Rope) : (s.retireRope rope r).mem = s.mem := by simp [State.retireRope]
@[simp] theorem beginSliceAt_mem (s : State) (part vf since cyc : Nat) :
    (s.beginSliceAt part vf since cyc).mem = s.mem := by simp [State.beginSliceAt]
@[simp] theorem beginSlice_mem (s : State) (part vf : Nat) : (s.beginSlice part vf).mem = s.mem := by simp [State.beginSlice]
@[simp] theorem addThrottle_mem (s : State) (part vf ticks got : Nat) : (s.addThrottle part vf ticks got).mem = s.mem := by simp [State.addThrottle]
@[simp] theorem noteLapses_mem (s : State) : s.noteLapses.mem = s.mem := by
  unfold State.noteLapses
  refine foldl_mem _ (fun s part => ?_) _ _
  split
  · split
    · split <;> simp
    · rfl
  · rfl

@[simp] theorem endSlice_mem (s : State) (part vf since cyc : Nat) : (s.endSlice part vf since cyc).mem = s.mem := by
  unfold State.endSlice
  dsimp only
  split <;> simp

@[simp] theorem takeBack_mem (s : State) (n : Nat) (t : Tour) : (s.takeBack n t).mem = s.mem := by
  unfold State.takeBack
  split <;> simp

@[simp] theorem clearVf_mem (s : State) (vf : Nat) : (s.clearVf vf).mem = s.mem := by
  exact foldl_mem _ (fun _ _ => foldl_mem _ (fun _ _ => State.modCluster_mem ..) _ _) _ _

@[simp] theorem takeBackAll_mem (s : State) (vf : Nat) : (s.takeBackAll vf).mem = s.mem := by
  simp [State.takeBackAll, foldl_mem]

@[simp] theorem saveVf_mem (s : State) (part vf since last : Nat) : (s.saveVf part vf since last).mem = s.mem := by
  simp [State.saveVf, foldl_mem (fun (s : State) (e : CoreId × Nat × Slot) => s.modSlot e.1 e.2.1 fun _ => Slot.vacant) fun _ _ => rfl]

@[simp] theorem loseImage_mem (s : State) (vf : Nat) : (s.loseImage vf).mem = s.mem := by simp [State.loseImage, foldl_mem]
@[simp] theorem noteGap_mem (s : State) (vf since : Nat) : (s.noteGap vf since).mem = s.mem := by simp [State.noteGap]
@[simp] theorem closeSlice_mem (s : State) (part : Nat) : (s.closeSlice part).mem = s.mem := by
  unfold State.closeSlice
  split <;> simp

@[simp] theorem endStrand_mem (s : State) (rope : Nat) (r : Rope) (k : Nat) (st : Strand) : (s.endStrand rope r k st).mem = s.mem := by
  unfold State.endStrand
  dsimp only
  split <;> simp

@[simp] theorem endStrands_mem (s : State) (rope : Nat) : (s.endStrands rope).mem = s.mem := by
  unfold State.endStrands
  split
  · rfl
  · split
    · rfl
    · simp [foldl_mem]

@[simp] theorem gangEnd_mem (s : State) (vf : Nat) : (s.gangEnd vf).mem = s.mem := by simp [State.gangEnd, foldl_mem]

/-! ### The power controller -/

@[simp] theorem applyMasks_mem (s : State) (t : Nat) : (s.applyMasks t).mem = s.mem := by
  unfold State.applyMasks
  dsimp only
  split
  · rfl
  · split <;> simp [foldl_mem]

@[simp] theorem settleStale_mem (s : State) : s.settleStale.mem = s.mem := by
  unfold State.settleStale
  dsimp only
  split
  · rfl
  · split <;> simp [foldl_mem]

@[simp] theorem chargeFiller_mem (s : State) (fallen : List (Nat × Nat)) (energy : Nat) : (s.chargeFiller fallen energy).mem = s.mem := by
  simp [State.chargeFiller, foldl_mem]

@[simp] theorem settleRails_mem (s : State) : s.settleRails.mem = s.mem := rfl
@[simp] theorem holdVote_mem (s : State) (part die : Nat) : (s.holdVote part die).mem = s.mem := by
  unfold State.holdVote
  split <;> simp

@[simp] theorem moveRails_mem (s : State) (before : Nat) : (s.moveRails before).mem = s.mem := rfl

/-! ### Boot and the host -/

@[simp] theorem hostSends_mem (s : State) (ctx ep : Nat) (dest : Word64) (msg : Msg) : (s.hostSends ctx ep dest msg).mem = s.mem := by
  unfold State.hostSends
  split <;> simp

@[simp] theorem bootFrom_mem (s : State) (img : List Byte) : (s.bootFrom img).mem = s.mem := rfl

end Sys2Proof.Machine
end

section
/-! SUPPORT. The canonical form of memory through the shared operations: those that write memory, and the common forms of the instructions. -/

namespace Sys2Proof.Machine

/-! ### Acts and outcomes -/

@[simp] theorem Act.wf_done (t : State) : (Act.done t).Wf ↔ t.mem.wf = true := Iff.rfl
@[simp] theorem Act.wf_trap (t : State) (code : TrapCode) (d : Word64) : (Act.trap t code d).Wf ↔ t.mem.wf = true := Iff.rfl
@[simp] theorem Act.wf_stall : Act.stall.Wf := trivial
@[simp] theorem Act.wf_miss (va : BitVec 52) (w : Bool) (g : Option Reg) : (Act.miss va w g).Wf := trivial

@[simp] theorem OutWf.next_iff (t : State) : OutWf (.next t) ↔ t.mem.wf = true := ⟨fun h => h t rfl, OutWf.next⟩
@[simp] theorem OutWf.of_fault (f : Fault) : OutWf (.fault f) := fun _ h => nomatch h

@[simp] theorem Act.wf_ite (p : Prop) [Decidable p] (a b : Act) : (if p then a else b).Wf ↔ (p → a.Wf) ∧ (¬ p → b.Wf) := by
  split <;> simp [*]

@[simp] theorem OutWf.ite_iff (p : Prop) [Decidable p] (a b : Out) : OutWf (if p then a else b) ↔ (p → OutWf a) ∧ (¬ p → OutWf b) := by
  split <;> simp [*]

/-! ### Operations that write memory -/

theorem modMem_wf {s : State} {o : Option CoreId} {loc n : Nat} {g : Memory → Memory} (hg : (g s.mem).wf = true) :
    (s.modMem o loc n g).mem.wf = true := hg

theorem performAtomic_wf {s : State} (c : CoreId) (x : AtomicAt) (h : s.mem.wf = true) : (s.performAtomic c x).mem.wf = true := by
  have hw := Memory.wf_setTag x.loc false (Memory.wf_write (leBytes x.bytes (x.op.apply x.bytes (s.atomicOld x) x.operand).toNat) x.loc h)
  unfold State.performAtomic
  dsimp only
  split
  · simpa using hw
  · exact hw

theorem atomicAtHome_wf {s : State} (c : CoreId) (p : Producer) (x : AtomicAt) (fill : Fill) (h : s.mem.wf = true) :
    (s.atomicAtHome c p x fill).mem.wf = true := by
  unfold State.atomicAtHome
  dsimp only
  split
  · simpa using h
  · exact performAtomic_wf c x (by simpa using h)

theorem moveCopy_wf {s : State} (cl id : Nat) (src dst : Side) (w : Nat) (h : s.mem.wf = true) : (s.moveCopy cl id src dst w).mem.wf = true := by
  unfold State.moveCopy
  dsimp only
  split
  · exact h
  · split
    · split
      · next ht => rw [readJobWord_mem ht]; exact h
      · simpa using h
    · split
      · simpa using h
      · split
        · exact h
        · split <;> simpa using Memory.wf_engineWord _ _ h

theorem fillTile_wf {s : State} (n : Nat) (t : Tour) (cl slot w : Nat) (h : s.mem.wf = true) : (s.fillTile n t cl slot w).mem.wf = true := by
  unfold State.fillTile
  dsimp only
  split
  · split
    · exact h
    · split
      · next ht => rw [readJobWord_mem ht]; exact h
      · have hw := fun loc bs => Memory.wf_engineWord loc bs h
        split <;> split <;> simpa using hw _ _
  · exact h

theorem moveWord_wf {s : State} (cl job w : Nat) (h : s.mem.wf = true) : (s.moveWord cl job w).mem.wf = true := by
  unfold State.moveWord
  dsimp only
  split
  · split
    · exact moveCopy_wf _ _ _ _ _ h
    · exact h
  · split
    · split
      · exact fillTile_wf _ _ _ _ _ h
      · exact h
    · exact h
  · exact h

/-- Writing bytes of a VF's device memory, one by one, up to the first that has no place. -/
theorem deviceWrite_wf (bs : List Byte) : ∀ {s t : State} {vf : Nat} {write : Bool} {va : Nat}, s.mem.wf = true →
    s.deviceWrite vf write va bs = some t → t.mem.wf = true := by
  induction bs with
  | nil => intro s t vf write va h ht; cases ht; exact h
  | cons b r ih =>
    intro s t vf write va h ht
    unfold State.deviceWrite at ht
    split at ht
    · cases ht
    · next pa _ =>
      refine ih (modMem_wf ?_) ht
      have hb := Memory.wf_setByte (locDram pa) b h
      dsimp only
      split
      · exact Memory.wf_clearBad _ hb
      · exact hb

theorem writeCompletion_wf {s : State} (w : Word64) (count : Nat) (h : s.mem.wf = true) : (s.writeCompletion w count).mem.wf = true := by
  unfold State.writeCompletion
  split
  · exact modMem_wf (Memory.wf_clearBad _ (Memory.wf_setTag _ _ (Memory.wf_setFull _ _ (Memory.wf_write _ _ h))))
  · exact h

/-- A range that has no place in device memory is not written at all. -/
theorem deviceWrite_getD_wf {s : State} {vf : Nat} {write : Bool} {va : Nat} {bs : List Byte} (h : s.mem.wf = true) :
    ((s.deviceWrite vf write va bs).getD s).mem.wf = true := by
  cases hw : s.deviceWrite vf write va bs with
  | none => exact h
  | some t => exact deviceWrite_wf bs h hw

theorem joinStep_wf {s : State} (cl no : Nat) (scale : Option Nat) (n : Nat) (g : GangForm) (h : s.mem.wf = true) :
    (s.joinStep cl no scale n g).mem.wf = true := by
  unfold State.joinStep
  dsimp only
  rw [State.endWait_mem]
  refine takeX_wf _ _ (takeX_wf _ _ ?_)
  split <;> simpa using h

theorem scrubRope_wf {s : State} (r : Rope) (h : s.mem.wf = true) : (s.scrubRope r).mem.wf = true :=
  foldl_wf _ (fun _ st h => foldl_wf _ (fun _ _ h => Memory.wf_scrub _ _ h) st.extents _ h) _ _ h

theorem buildState_wf {s : State} (rope : Nat) (r : Rope) (hd : Header) (logical : Nat) (a : ActorDecl) (h : s.mem.wf = true) :
    (s.buildState rope r hd logical a).mem.wf = true := by
  unfold State.buildState
  split
  · split
    · exact Memory.wf_write _ _ h
    · exact h
  · exact h

theorem putImage_wf {s : State} (vf : Nat) (im : SaveImage) (h : s.mem.wf = true) : (s.putImage vf im).mem.wf = true := by
  unfold State.putImage
  dsimp only
  refine foldl_wf _ (fun _ w h => writeCompletion_wf _ _ h) _ _ ?_
  rw [modVf_mem, foldl_mem _ (fun _ _ => State.modSlot_mem ..)]
  exact foldl_wf _ (fun _ w h => Memory.wf_merge _ h) _ _ (foldl_wf _ (fun _ x h => Memory.wf_scrub _ _ h) _ _ h)

theorem bringBack_wf {s : State} (vf : Nat) (h : s.mem.wf = true) : (s.bringBack vf).mem.wf = true := by
  unfold State.bringBack
  split
  · exact h
  · split
    · exact putImage_wf _ _ h
    · simpa using h

theorem afterReset_wf (s : State) : s.afterReset.mem.wf = true := rfl

/-- A turn of the world outside: a soft error marks a word, a copy job moves one, and the rest leaves memory as it was. -/
theorem outside_wf {s : State} (t : Turn) (h : s.mem.wf = true) : (s.outside t).mem.wf = true := by
  cases t with
  | jobWord cl job w => exact moveWord_wf _ _ _ h
  | memoryError loc => exact Memory.wf_setBad _ h
  | icacheMiss c =>
    simp only [State.outside]
    split <;> exact h
  | core | event | tick | vectorWord | lateAccess | replicaAck | correctedError | textError | registerError | fatalError
    | imageLost | hostSend | stepRead | bootStep => simpa [State.outside] using h

/-! ### Loads, stores and atomics -/

theorem loadAt_wf {s : State} {c : CoreId} {space : BitVec 3} {detail : Word64} {loc n : Nat} {repl : Bool} {fill : Fill} {g : Reg}
    (h : s.mem.wf = true) : (s.loadAt c space detail loc n repl fill g).Wf := by
  unfold State.loadAt
  dsimp only
  repeat' split
  all_goals simp [h]

theorem doLoad_wf {s0 s : State} {c : CoreId} {cap : Cap} {a : Int} {n : Nat} {kind : AccKind} {fill : Fill} {g : Reg}
    (h0 : s0.mem.wf = true) (h : s.mem.wf = true) : (s0.doLoad s c cap a n kind fill g).Wf := by
  unfold State.doLoad
  split
  · exact h0
  · trivial
  · trivial
  · split <;> simp [h]
  · exact loadAt_wf h

theorem buffer_wf {s : State} {c : CoreId} {bytes : List (Nat × Byte × Byte)} {fullBit : Option (Nat × Bool)} {tags : List (Nat × Bool)}
    {repl : Bool} (h : s.mem.wf = true) : (s.buffer c bytes fullBit tags repl).Wf := by
  unfold State.buffer
  split <;> simp [h]

theorem doStore_wf {s0 s : State} {c : CoreId} {cap : Cap} {a : Int} {bs : List Byte} {kind : AccKind} {full : Option Bool} {tag : Bool}
    (h0 : s0.mem.wf = true) (h : s.mem.wf = true) : (s0.doStore s c cap a bs kind full tag).Wf := by
  unfold State.doStore
  split
  · exact h0
  · trivial
  · trivial
  · simpa using h
  · exact buffer_wf h

theorem atomicIssue_wf {s0 s : State} {c : CoreId} {cap : Cap} {n bytes : Nat} {op : AtomicOp} {v : Word64} {order : BitVec 2}
    {scope : BitVec 3} {fill : Fill} {g : Reg} (h0 : s0.mem.wf = true) (h : s.mem.wf = true) :
    (s0.atomicIssue s c cap n bytes op v order scope fill g).Wf := by
  unfold State.atomicIssue
  dsimp only
  split
  · exact h0
  · trivial
  · trivial
  · split <;> simp [h]
  · split
    · split
      · trivial
      · split
        · exact h0
        · simpa using performAtomic_wf c _ h
    · split
      · exact h
      · split
        · trivial
        · split <;> simpa using h

theorem vecCheck_nil (s : State) (c : CoreId) (cap : Cap) (n : Nat) (kind : AccKind) (addr : Nat → Int) (dest : Option Reg) :
    s.vecCheck c cap n kind addr dest [] = .inl [] := rfl

/-- The check of a vector's elements: the first that fails ends it. -/
theorem vecCheck_cons (s : State) (c : CoreId) (cap : Cap) (n : Nat) (kind : AccKind) (addr : Nat → Int) (dest : Option Reg) (i : Nat) (r : List Nat) :
    s.vecCheck c cap n kind addr dest (i :: r) = match s.accessCheck c cap (addr i) n kind with
      | .trap code d => .inr (.trap s code d)
      | .miss va w => .inr (.miss va w dest)
      | .stall => .inr .stall
      | a => match s.vecCheck c cap n kind addr dest r with
        | .inl l => .inl ((i, a) :: l)
        | .inr e => .inr e := rfl

/-- A check of a vector's elements that fails leads to a trap from the state it was made in, a miss, or a stall. -/
theorem vecCheck_wf {s : State} {c : CoreId} {cap : Cap} {n : Nat} {kind : AccKind} {addr : Nat → Int} {dest : Option Reg} (h : s.mem.wf = true)
    (l : List Nat) : ∀ {a : Act}, s.vecCheck c cap n kind addr dest l = .inr a → a.Wf := by
  induction l with
  | nil =>
    intro a ha
    rw [vecCheck_nil] at ha
    cases ha
  | cons i r ih =>
    intro a ha
    rw [vecCheck_cons] at ha
    cases hacc : s.accessCheck c cap (addr i) n kind with
    | trap code d => simp only [hacc, Sum.inr.injEq] at ha; subst ha; exact h
    | miss va w => simp only [hacc, Sum.inr.injEq] at ha; subst ha; trivial
    | stall => simp only [hacc, Sum.inr.injEq] at ha; subst ha; trivial
    | ok | emulated =>
      simp only [hacc] at ha
      split at ha
      · cases ha
      · next hr => cases ha; exact ih hr

theorem vecLoad_wf {s0 s : State} {d c : BitVec 5} {m : BitVec 3} {w : BitVec 2} {addr : Cap → Nat → Int} (h0 : s0.mem.wf = true)
    (h : s.mem.wf = true) : (vecLoad s0 s d c m w addr).Wf := by
  unfold vecLoad
  dsimp only
  split
  · exact h0
  · next ha => exact vecCheck_wf h _ ha
  · repeat' split
    all_goals simp [h, h0]

theorem vecStore_wf {s0 s : State} {d c : BitVec 5} {m : BitVec 3} {w : BitVec 2} {addr : Cap → Nat → Int} (h0 : s0.mem.wf = true)
    (h : s.mem.wf = true) : (vecStore s0 s d c m w addr).Wf := by
  unfold vecStore
  dsimp only
  split
  · exact h0
  · next ha => exact vecCheck_wf h _ ha
  · repeat' split
    all_goals simp [h]

/-! ### Results -/

theorem finishFp_wf {s : State} {c : CoreId} {d : FpDefault} {ev : Events} {first : Nat} {whole : Bool} (h : s.mem.wf = true) :
    (s.finishFp c d ev first whole).Wf := by
  unfold State.finishFp
  dsimp only
  split <;> simp [h]

theorem finishVec_wf {s : State} {c : CoreId} {d : BitVec 5} {wide : Bool} {res : List (Nat × Nat × Events)} (h : s.mem.wf = true) :
    (s.finishVec c d wide res).Wf := finishFp_wf h

theorem permute_wf {s : State} {c : CoreId} {d : BitVec 5} {act : List Nat} {f : Nat → Nat} (h : s.mem.wf = true) : (s.permute c d act f).Wf := by
  simpa [State.permute] using h

/-! ### The common forms of the instructions -/

section
variable {s : State} (h : s.mem.wf = true)
include h

theorem alu2_wf {d a b : BitVec 5} {u v : Bool} {f : Word64 → Word64 → Word64} : OutWf (alu2 s d a b u v f) :=
  issue_wf h (by simp [takeX_wf, h])

theorem alu1_wf {d a : BitVec 5} {u : Bool} {f : Word64 → Word64} : OutWf (alu1 s d a u f) := issue_wf h (by simp [takeX_wf, h])

theorem capRead_wf {d c : BitVec 5} {u : Bool} {f : Cap → Word64} : OutWf (capRead s d c u f) := issue_wf h (by simp [h])

theorem capDerive_wf {d c b : BitVec 5} {u v : Bool} {f : Cap → Word64 → Cap} : OutWf (capDerive s d c b u v f) :=
  issue_wf h (by simp [takeX_wf, h])

theorem fp2_wf {d a b : BitVec 5} {u v : Bool} {t : BitVec 2} {op : Fmt → Rnd → Nat → Nat → Nat × Events} : OutWf (fp2 s d a b u v t op) :=
  issue_wf h (finishFp_wf h)

theorem fp1_wf {d a : BitVec 5} {u : Bool} {t : BitVec 2} {op : Fmt → Rnd → Nat → Nat × Events} : OutWf (fp1 s d a u t op) :=
  issue_wf h (finishFp_wf h)

theorem fpCompare_wf {d a b : BitVec 5} {u v : Bool} {t : BitVec 2} {op : FVal → FVal → Bool × Events} : OutWf (fpCompare s d a b u v t op) :=
  issue_wf h (finishFp_wf h)

theorem fma_wf {d a b c : BitVec 5} {t : BitVec 2} {negP negC : Bool} : OutWf (fma s d a b c t negP negC) := issue_wf h (finishFp_wf h)

theorem vecInt_wf {d a b : BitVec 5} {m : BitVec 3} {scalar : Bool} {f : BitVec 32 → BitVec 32 → BitVec 32} : OutWf (vecInt s d a b m scalar f) :=
  issue_wf h (by cases scalar <;> simp [takeX_wf, h])

theorem vecIntCompare_wf {d : BitVec 3} {a b : BitVec 5} {m : BitVec 3} {scalar : Bool} {f : BitVec 32 → BitVec 32 → Bool} :
    OutWf (vecIntCompare s d a b m scalar f) :=
  issue_wf h (by cases scalar <;> simp [takeX_wf, h])

theorem vecFp2_wf {d a b : BitVec 5} {m : BitVec 3} {scalar : Bool} {t : BitVec 2} {op : Fmt → Rnd → Nat → Nat → Nat × Events} :
    OutWf (vecFp2 s d a b m scalar t op) := issue_wf h (finishVec_wf h)

theorem vecFp1_wf {d a : BitVec 5} {m : BitVec 3} {t : BitVec 2} {op : Fmt → Rnd → Nat → Nat × Events} : OutWf (vecFp1 s d a m t op) :=
  issue_wf h (finishVec_wf h)

theorem vecFma_wf {d a b : BitVec 5} {m : BitVec 3} {scalar : Bool} {t : BitVec 2} {negC : Bool} : OutWf (vecFma s d a b m scalar t negC) :=
  issue_wf h (finishVec_wf h)

theorem vecFpCompare_wf {d : BitVec 3} {a b : BitVec 5} {m : BitVec 3} {scalar : Bool} {t : BitVec 2} {op : FVal → FVal → Bool × Events} :
    OutWf (vecFpCompare s d a b m scalar t op) := issue_wf h (finishFp_wf h)

theorem vecFpReduce_wf {d a : BitVec 5} {m : BitVec 3} {t : BitVec 2} {op : Fmt → Rnd → List (Nat × Nat) → Nat × Events} :
    OutWf (vecFpReduce s d a m t op) := by
  refine issue_wf h ?_
  dsimp only
  split
  · simpa using h
  · exact finishFp_wf h

theorem vecReduce_wf {d a : BitVec 5} {m : BitVec 3} {init : BitVec 32} {f : BitVec 32 → BitVec 32 → BitVec 32} : OutWf (vecReduce s d a m init f) :=
  issue_wf h (permute_wf h)

theorem maskLogic_wf {d : BitVec 3} {srcs : List (BitVec 3)} {f : Regs → BitVec 128} : OutWf (maskLogic s d srcs f) := issue_wf h (by simp [h])

theorem loadBits_wf {d c : BitVec 5} {w : Bool} {b l : BitVec 5} {signed : Bool} : OutWf (loadBits d c w b l signed s) := by
  refine issue_wf h ?_
  dsimp only
  split
  · exact h
  · exact doLoad_wf h (takeX_wf _ _ h)

theorem atomicInt_wf {d c b : BitVec 5} {u v : Bool} {o : BitVec 2} {sz : BitVec 3} {op : AtomicOp} : OutWf (atomicInt s d c b u v o sz op) :=
  issue_wf h (atomicIssue_wf h (takeX_wf _ _ h))

theorem atomicFp_wf {d c b : BitVec 5} {u v t : Bool} {o : BitVec 2} {sz : BitVec 3} {op : AtomicOp} : OutWf (atomicFp s d c b u v t o sz op) :=
  issue_wf h (atomicIssue_wf h h)

theorem branch_wf {a b : BitVec 5} {u v : Bool} {off : BitVec 11} {cond : Word64 → Word64 → Bool} : OutWf (branch s a b u v off cond) := by
  refine issue_wf h ?_
  dsimp only
  split <;> simp [takeX_wf, h]

theorem gang_wf {sub : Nat} {f : Option (BitVec 5)} {a b : BitVec 5} {u v z t k : Bool} {i : Instr} : OutWf (gang s sub f a b u v z t k i) := by
  unfold gang
  refine issue_wf h ?_
  dsimp only
  split <;> simp [h]

theorem finishFiring_wf {c : CoreId} {after : State → State} (ha : ∀ t : State, t.mem.wf = true → (after t).mem.wf = true) :
    OutWf (finishFiring s c after) := by
  unfold finishFiring
  dsimp only
  split
  · simpa using h
  · split
    · simpa using h
    · split
      · simpa using h
      · simpa using ha _ (by simpa using h)

theorem onHandle_wf {a : BitVec 5} {u : Bool} {dests : List Reg} {f : Nat → Tour → State → Act}
    (hf : ∀ n t (s : State), s.mem.wf = true → (f n t s).Wf) :
    OutWf (onHandle s a u dests f) := by
  refine issue_wf h ?_
  dsimp only
  split
  · exact h
  · exact hf _ _ _ (takeX_wf _ _ h)

theorem command_wf {who : MgmtSender} {ok : Bool} {f : State → State} (hf : (f s).mem.wf = true) : OutWf (s.command who ok f) := by
  unfold State.command
  split
  · exact .next h
  · split
    · exact .next h
    · split
      · exact .next hf
      · exact .next h

theorem vfCommand_wf {who : MgmtSender} {vf : Nat} {ok : Bool} {f : Vf → Vf} : OutWf (s.vfCommand who vf ok f) := command_wf h (by simpa using h)

end

end Sys2Proof.Machine
end

section
/-! SUPPORT. Every instruction and every event keeps memory in its canonical form, and so does every step. -/

namespace Sys2Proof.Machine

section
variable {s : State} (h : s.mem.wf = true)
include h

/-! ### Integer instructions -/

theorem execBfi_wf {d a b : BitVec 5} {u v : Bool} :
    OutWf (execBfi d a b u v s) := issue_wf h (by simpa using takeX_wf s.cur d (takeX_wf s.cur b (takeX_wf s.cur a h)))
theorem execLih_wf {d : BitVec 5} {imm : BitVec 21} : OutWf (execLih d imm s) := issue_wf h (by simp [h])

/-! ### Capability instructions -/

theorem execCmov_wf {d c : BitVec 5} {u : Bool} : OutWf (execCmov d c u s) := issue_wf h (by simp [h])
theorem execCclr_wf {d c : BitVec 5} {u : Bool} : OutWf (execCclr d c u s) := issue_wf h (by simp [h])
theorem execCbnd_wf {d c b : BitVec 5} {u v : Bool} : OutWf (execCbnd d c b u v s) := issue_wf h (by simp [takeX_wf, h])
/-! ### Scalar floating point -/

theorem execFclass_wf {d a : BitVec 5} {u : Bool} {t : BitVec 2} : OutWf (execFclass d a u t s) := issue_wf h (by simp [h])
theorem execFmvx_wf {d a : BitVec 5} {u : Bool} : OutWf (execFmvx d a u s) := issue_wf h (by simp [h])
theorem execFmvf_wf {d a : BitVec 5} {u : Bool} : OutWf (execFmvf d a u s) := issue_wf h (by simp [takeX_wf, h])

/-! ### Lanes, permutes and masks -/

theorem execVclaim_wf {d a : BitVec 5} : OutWf (execVclaim d a s) := by
  unfold execVclaim
  split
  · exact .next h
  · refine issue_wf h ?_
    dsimp only
    split <;> simp [takeX_wf, h]

theorem execVrelease_wf : OutWf (execVrelease s) := by
  unfold execVrelease
  split
  · exact .next h
  · exact issue_wf h (by simp [h])

theorem execVsetvl_wf {d a : BitVec 5} : OutWf (execVsetvl d a s) := issue_wf h (by simp [takeX_wf, h])
theorem execVmv_wf {d a : BitVec 5} {m : BitVec 3} : OutWf (execVmv d a m s) := issue_wf h (permute_wf h)
theorem execVbcast_wf {d a : BitVec 5} {m : BitVec 3} : OutWf (execVbcast d a m s) := issue_wf h (permute_wf (takeX_wf _ _ h))
theorem execVbcastf_wf {d a : BitVec 5} {m : BitVec 3} : OutWf (execVbcastf d a m s) := issue_wf h (permute_wf h)
theorem execVslideup_wf {d a b : BitVec 5} {m : BitVec 3} : OutWf (execVslideup d a b m s) := issue_wf h (permute_wf (takeX_wf _ _ h))
theorem execVslidedn_wf {d a b : BitVec 5} {m : BitVec 3} : OutWf (execVslidedn d a b m s) := issue_wf h (permute_wf (takeX_wf _ _ h))
theorem execVgather_wf {d a b : BitVec 5} {m : BitVec 3} : OutWf (execVgather d a b m s) := issue_wf h (permute_wf h)
theorem execVcompress_wf {d a : BitVec 5} {m : BitVec 3} : OutWf (execVcompress d a m s) := issue_wf h (permute_wf h)
theorem execVexpand_wf {d a : BitVec 5} {m : BitVec 3} : OutWf (execVexpand d a m s) := issue_wf h (permute_wf h)
theorem execVext_wf {d a b : BitVec 5} : OutWf (execVext d a b s) := issue_wf h (by simp [takeX_wf, h])
theorem execVins_wf {d a b : BitVec 5} : OutWf (execVins d a b s) := issue_wf h (permute_wf (takeX_wf _ _ (takeX_wf _ _ h)))
theorem execMpopc_wf {d : BitVec 5} {a : BitVec 3} : OutWf (execMpopc d a s) := issue_wf h (by simp [h])
theorem execMfirst_wf {d : BitVec 5} {a : BitVec 3} : OutWf (execMfirst d a s) := issue_wf h (by simp [h])

/-! ### Conversions -/

theorem execCvtScalarForm_wf {d a b : BitVec 5} {u v : Bool} {p q : BitVec 4} : OutWf (execCvtScalarForm d a b u v p q s) := by
  unfold execCvtScalarForm
  refine issue_wf h ?_
  dsimp only
  refine finishFp_wf ?_
  split
  · exact takeX_wf _ _ h
  · exact h

theorem execCvtVectorForm_wf {d a b : BitVec 5} {v : Bool} {p q : BitVec 4} : OutWf (execCvtVectorForm d a b v p q s) := by
  unfold execCvtVectorForm
  exact issue_wf h (finishVec_wf h)

/-! ### The injection limiter -/

theorem execLimiterRefill_wf {part cl : Nat} : OutWf (execLimiterRefill part cl s) := by simp [execLimiterRefill, h]

/-! ### Loads and stores -/

theorem execLd_wf {d c : BitVec 5} {w : Bool} {sz : BitVec 3} {imm : BitVec 12} : OutWf (execLd d c w sz imm s) := issue_wf h (doLoad_wf h h)
theorem execFld_wf {d c : BitVec 5} {w : Bool} {sz : BitVec 2} {imm : BitVec 12} : OutWf (execFld d c w sz imm s) := issue_wf h (doLoad_wf h h)
theorem execSt_wf {d c : BitVec 5} {w : Bool} {sz : BitVec 2} {imm : BitVec 12} :
    OutWf (execSt d c w sz imm s) := issue_wf h (doStore_wf h (takeX_wf _ _ h))
theorem execFst_wf {d c : BitVec 5} {w : Bool} {sz : BitVec 2} {imm : BitVec 12} : OutWf (execFst d c w sz imm s) := issue_wf h (doStore_wf h h)
theorem execLdc_wf {d c : BitVec 5} {w : Bool} {imm : BitVec 12} : OutWf (execLdc d c w imm s) := issue_wf h (doLoad_wf h h)
theorem execStc_wf {d c : BitVec 5} {w : Bool} {imm : BitVec 12} : OutWf (execStc d c w imm s) := by
  refine issue_wf h ?_
  dsimp only
  split
  · exact h
  · split
    · exact h
    · trivial
    · trivial
    · simpa using h
    · exact buffer_wf h

theorem execLdw_wf {d c : BitVec 5} {w : Bool} {sz : BitVec 3} {imm : BitVec 12} : OutWf (execLdw d c w sz imm s) := by
  refine issue_wf h ?_
  dsimp only
  split <;> simp [h]

theorem execStf_wf {d c : BitVec 5} {w : Bool} {imm : BitVec 12} : OutWf (execStf d c w imm s) := issue_wf h (doStore_wf h (takeX_wf _ _ h))
theorem execClrf_wf {c : BitVec 5} {w : Bool} {imm : BitVec 12} : OutWf (execClrf c w imm s) := by
  refine issue_wf h ?_
  dsimp only
  split
  · exact h
  · trivial
  · exact buffer_wf h
  · trivial

theorem execStb_wf {d c : BitVec 5} {w : Bool} {b l : BitVec 5} : OutWf (execStb d c w b l s) := by
  refine issue_wf h ?_
  dsimp only
  split <;> simp [takeX_wf, h]

theorem execLdwSatisfy_wf {c : CoreId} {prod : Nat} : OutWf (execLdwSatisfy c prod s) := by
  unfold execLdwSatisfy
  dsimp only
  repeat' split
  all_goals simp [h]

theorem execStoreDrain_wf {c : CoreId} : OutWf (execStoreDrain c s) := by
  unfold execStoreDrain
  split
  · exact .next h
  · next e r _ =>
    have ha := Memory.wf_apply e h
    dsimp only
    split
    · exact .next h
    · split
      · split <;> simpa using h
      · split
        · split
          · simpa using ha
          · exact .next h
        · split <;> simpa using h

/-! ### Atomics, fences, waits on a word, barriers -/

theorem execCas_wf {d c b : BitVec 5} {u v : Bool} {o : BitVec 2} {sz : BitVec 3} :
    OutWf (execCas d c b u v o sz s) := issue_wf h (atomicIssue_wf h (takeX_wf _ _ (takeX_wf _ _ h)))
theorem execValueArrival_wf {c : CoreId} {prod : Nat} : OutWf (execValueArrival c prod s) := by
  unfold execValueArrival
  split
  · exact .next h
  · split
    · simpa using h
    · split
      · exact .next h
      · split
        · split <;> exact .next h
        · split
          · exact .next (atomicAtHome_wf _ _ _ _ h)
          · exact .next h

theorem execAppliedAtHome_wf {upd : Nat} : OutWf (execAppliedAtHome upd s) := by
  unfold execAppliedAtHome
  split
  · exact .next h
  · dsimp only
    split
    · split
      · exact .next (Memory.wf_apply _ h)
      · exact .next h
    · split
      · exact .next h
      · split
        · exact .next h
        · split
          · exact .next (atomicAtHome_wf _ _ _ _ h)
          · exact .next h

theorem execSequencerCommit_wf {upd : Nat} : OutWf (execSequencerCommit upd s) := by
  unfold execSequencerCommit
  split
  · exact .next h
  · split
    · exact .next h
    · dsimp only
      split
      · exact .next (Memory.wf_apply _ h)
      · split
        · exact .next h
        · split
          · exact .next h
          · exact .next (atomicAtHome_wf _ _ _ _ h)

theorem execFence_wf {o : BitVec 2} {sz : BitVec 3} : OutWf (execFence o sz s) := issue_wf h (by simp [h])
theorem execWaita_wf {d c b : BitVec 5} {u v : Bool} : OutWf (execWaita d c b u v s) := by
  refine issue_wf h ?_
  dsimp only
  repeat' split
  all_goals simp [takeX_wf, h]

theorem execWaitaWake_wf {c : CoreId} : OutWf (execWaitaWake c s) := by
  unfold execWaitaWake
  split <;> simp [h]

theorem execWaitaTimeout_wf {c : CoreId} : OutWf (execWaitaTimeout c s) := by
  unfold execWaitaTimeout
  split <;> simp [h]

theorem execCbar_wf : OutWf (execCbar s) := issue_wf h (by simp [h])
theorem execGbar_wf : OutWf (execGbar s) := issue_wf h (by split <;> simp [h])
theorem execBmin_wf {d a : BitVec 5} {u : Bool} : OutWf (execBmin d a u s) := issue_wf h (by simp [takeX_wf, h])
theorem execClusterBarrierComplete_wf {rope strand : Nat} : OutWf (execClusterBarrierComplete rope strand s) := by
  unfold execClusterBarrierComplete
  split
  · exact .next h
  · split
    · exact .next h
    · split
      · exact .next h
      · rw [OutWf.next_iff]
        split
        · rw [settleShed_mem, modRope_mem, foldl_mem _ fun _ _ => by simp, modRope_mem]
          exact h
        · rw [foldl_mem _ fun _ _ => by simp, modRope_mem]
          exact h

theorem execBarrierTreeComplete_wf {rope : Nat} : OutWf (execBarrierTreeComplete rope s) := by
  unfold execBarrierTreeComplete
  split
  · exact .next h
  · split
    · exact .next h
    · simpa [foldl_mem] using h

/-! ### Messages -/

theorem execPbindRecv_wf {d : BitVec 5} {k : BitVec 3} : OutWf (execPbindRecv d k s) := issue_wf h (by simp [h])
theorem execPbindSend_wf {d : BitVec 5} {k : BitVec 3} : OutWf (execPbindSend d k s) := issue_wf h (by simp [h])
theorem execPbindStream_wf {d a : BitVec 5} {u : Bool} : OutWf (execPbindStream d a u s) := by
  refine issue_wf h ?_
  dsimp only
  split <;> simp [takeX_wf, h]

theorem execPunbind_wf {d : BitVec 5} : OutWf (execPunbind d s) := issue_wf h (by split <;> simp [h])
theorem execMsend_wf {a b : BitVec 5} {u v : Bool} {k : BitVec 3} : OutWf (execMsend a b u v k s) := by
  refine issue_wf h ?_
  dsimp only
  split <;> simp [takeX_wf, h]

theorem execMcount_wf {d : BitVec 5} {k : BitVec 3} : OutWf (execMcount d k s) := by
  refine issue_wf h ?_
  dsimp only
  split <;> simp [h]

theorem execMstat_wf {d : BitVec 5} {k : BitVec 3} : OutWf (execMstat d k s) := by
  refine issue_wf h ?_
  split
  · trivial
  · split <;> simp [h]

theorem execMbind_wf {a : BitVec 5} {u : Bool} {k : BitVec 3} : OutWf (execMbind a u k s) := issue_wf h (by simp [takeX_wf, h])
theorem execMessageInject_wf {c : CoreId} : OutWf (execMessageInject c s) := by
  unfold execMessageInject
  dsimp only
  repeat' split
  all_goals simp [h]

theorem execMessageOffer_wf {msg : Nat} : OutWf (execMessageOffer msg s) := by
  unfold execMessageOffer
  split <;> simp [h]

theorem execMessageAnswer_wf {msg : Nat} : OutWf (execMessageAnswer msg s) := by
  unfold execMessageAnswer
  split
  · simp [h]
  · split <;> simp [h]

theorem execNotifyReoffer_wf {die entry : Nat} : OutWf (execNotifyReoffer die entry s) := by
  unfold execNotifyReoffer
  split <;> simp [h]

/-! ### The copy unit -/

theorem execEcfgCe_wf {e : BitVec 4} {a b : BitVec 5} {u v : Bool} : OutWf (execEcfgCe e a b u v s) := issue_wf h (by simp [takeX_wf, h])
theorem execCpq_wf {d a b : BitVec 5} {u v : Bool} {k : BitVec 3} : OutWf (execCpq d a b u v k s) := by
  unfold execCpq
  refine issue_wf h ?_
  dsimp only
  split
  · simp [h]
  · split <;> simp [takeX_wf, h]

theorem execCppoll_wf {d a : BitVec 5} {u : Bool} : OutWf (execCppoll d a u s) := issue_wf h (by simp [takeX_wf, h])
theorem execCpwait_wf {a : BitVec 5} {u : Bool} : OutWf (execCpwait a u s) := issue_wf h (by simp [takeX_wf, h])
theorem execCopyJobStart_wf {cl job : Nat} : OutWf (execCopyJobStart cl job s) := by
  unfold execCopyJobStart
  split <;> simp [h]

theorem execCopyJobDone_wf {cl job : Nat} : OutWf (execCopyJobDone cl job s) := by
  unfold execCopyJobDone
  dsimp only
  split
  · split
    · exact .next (moveCopy_wf _ _ _ _ _ h)
    · exact .next h
  · exact .next h

theorem execStreamDeliver_wf {cl job : Nat} : OutWf (execStreamDeliver cl job s) := by
  unfold execStreamDeliver
  dsimp only
  split
  · split
    all_goals
      split
      · exact .next h
      · split
        · next ht => rw [OutWf.next_iff, readJobWord_mem ht]; exact h
        · rw [OutWf.next_iff]
          split <;> simpa using h
  · exact .next h

/-! ### Control transfer -/

theorem execJal_wf {d : BitVec 5} {imm : BitVec 21} : OutWf (execJal d imm s) := issue_wf h (by simp [h])
theorem execJalr_wf {d a : BitVec 5} {u : Bool} {imm : BitVec 15} : OutWf (execJalr d a u imm s) := issue_wf h (by simp [takeX_wf, h])
theorem execNop_wf : OutWf (execNop s) := issue_wf h (by simp [h])
theorem execDelay_wf {a : BitVec 5} {u : Bool} : OutWf (execDelay a u s) := issue_wf h (by simp [takeX_wf, h])
theorem execDelayExpiry_wf {c : CoreId} : OutWf (execDelayExpiry c s) := by
  unfold execDelayExpiry
  split <;> simp [h]

theorem execEndFiring_wf : OutWf (execEndFiring s) := finishFiring_wf h fun t ht => by simpa using ht

/-! ### Tours -/

theorem execTour_wf {d a c : BitVec 5} {u v : Bool} : OutWf (execTour d a c u v s) := by
  refine issue_wf h ?_
  dsimp only
  repeat' split
  all_goals simp [takeX_wf, h]

theorem execCast_wf {a : BitVec 5} {u : Bool} : OutWf (execCast a u s) := onHandle_wf h fun n t s hs => by simp [hs]
theorem execTstat_wf {d a : BitVec 5} {u : Bool} : OutWf (execTstat d a u s) := onHandle_wf h fun n t s hs => by simp [hs]
theorem execTslot_wf {d a : BitVec 5} {u : Bool} : OutWf (execTslot d a u s) := onHandle_wf h fun n t s hs => by simp [hs]
theorem execTourSlotScrubDone_wf {cl slot : Nat} : OutWf (execTourSlotScrubDone cl slot s) := by
  have hm := Memory.wf_scrub (locTile cl slot 0) (2 ^ 16) h
  unfold execTourSlotScrubDone
  split
  · split
    · dsimp only
      split <;> simpa using hm
    · exact .next h
  · exact .next h

theorem execTourJobStart_wf {cl job : Nat} : OutWf (execTourJobStart cl job s) := by
  unfold execTourJobStart
  dsimp only
  split <;> simp [h]

theorem execHitch_wf {tour : Nat} : OutWf (execHitch tour s) := by
  unfold execHitch
  split
  · exact .next h
  · dsimp only
    split
    · exact .next (fillTile_wf _ _ _ _ _ h)
    · split
      · exact .next h
      · split
        · simpa using h
        · split
          · exact .next h
          · split
            · simpa using h
            · rw [OutWf.next_iff, hitched_mem]
              refine Memory.wf_copyWords _ _ _ ?_
              split <;> simpa using h
    · exact .next h

theorem execHitchReport_wf {cl job : Nat} : OutWf (execHitchReport cl job s) := by
  unfold execHitchReport
  split <;> simp [h]

theorem execArrivalReoffer_wf {tour : Nat} : OutWf (execArrivalReoffer tour s) := by
  unfold execArrivalReoffer
  split <;> simp [h]

theorem execHoldExpiry_wf {tour : Nat} : OutWf (execHoldExpiry tour s) := by
  unfold execHoldExpiry
  split
  · exact .next h
  · split <;> simp [h]

theorem execTileOnward_wf {tour : Nat} : OutWf (execTileOnward tour s) := by
  unfold execTileOnward
  dsimp only
  repeat' split
  all_goals simp [h]

theorem execCompletionReoffer_wf {cl entry : Nat} : OutWf (execCompletionReoffer cl entry s) := by
  unfold execCompletionReoffer
  split <;> simp [h]

/-! ### Vector loads and stores -/

theorem execVld_wf {d c : BitVec 5} {m : BitVec 3} {w : BitVec 2} : OutWf (execVld d c m w s) := issue_wf h (vecLoad_wf h h)
theorem execVlds_wf {d c b : BitVec 5} {m : BitVec 3} {w : BitVec 2} : OutWf (execVlds d c b m w s) := issue_wf h (vecLoad_wf h (takeX_wf _ _ h))
theorem execVldx_wf {d c b : BitVec 5} {m : BitVec 3} {w : BitVec 2} : OutWf (execVldx d c b m w s) := issue_wf h (vecLoad_wf h h)
theorem execVst_wf {d c : BitVec 5} {m : BitVec 3} {w : BitVec 2} : OutWf (execVst d c m w s) := issue_wf h (vecStore_wf h h)
theorem execVsts_wf {d c b : BitVec 5} {m : BitVec 3} {w : BitVec 2} : OutWf (execVsts d c b m w s) := issue_wf h (vecStore_wf h (takeX_wf _ _ h))
theorem execVstx_wf {d c b : BitVec 5} {m : BitVec 3} {w : BitVec 2} : OutWf (execVstx d c b m w s) := issue_wf h (vecStore_wf h h)

/-! ### The instruction cache -/

theorem execIcacheMissFill_wf {c : CoreId} : OutWf (execIcacheMissFill c s) := by simp [execIcacheMissFill, h]

/-! ### System instructions and strands -/

theorem execRds_wf {d : BitVec 5} {n : BitVec 12} : OutWf (execRds d n s) := issue_wf h (by simp [h])
theorem execWrs_wf {a : BitVec 5} {u : Bool} {n : BitVec 12} : OutWf (execWrs a u n s) := issue_wf h (by simp [takeX_wf, h])
theorem execTrap_wf {c : BitVec 12} : OutWf (execTrap c s) := issue_wf h (by simp [h])
theorem execSnap_wf : OutWf (execSnap s) := issue_wf h (by simp [h])
theorem execTime_wf {d : BitVec 5} : OutWf (execTime d s) := issue_wf h (by simp [h])
theorem execIllegalWord_wf {word : BitVec 32} : OutWf (execIllegalWord word s) := by simp [execIllegalWord, h]
theorem execRetire_wf : OutWf (execRetire s) := by
  unfold execRetire
  dsimp only
  split
  · simpa using h
  · split
    · simpa using h
    · exact finishFiring_wf h fun t ht => by simpa using ht

/-! ### Translation -/

theorem execTlbw_wf {d a : BitVec 5} {u : Bool} : OutWf (execTlbw d a u s) := by
  unfold execTlbw
  split
  · simpa using h
  · refine issue_wf h ?_
    dsimp only
    split <;> simp [takeX_wf, h]

theorem execTlbinv_wf {a : BitVec 5} {u : Bool} : OutWf (execTlbinv a u s) := by
  unfold execTlbinv
  split
  · simpa using h
  · refine issue_wf h ?_
    dsimp only
    split
    · exact h
    · split <;> simp [takeX_wf, h]

theorem execTscMissRequest_wf {cl : Nat} : OutWf (execTscMissRequest cl s) := by
  unfold execTscMissRequest
  dsimp only
  split
  · exact .next h
  · split <;> simp [h]

theorem execTscWalkDone_wf {cl walk : Nat} : OutWf (execTscWalkDone cl walk s) := by
  unfold execTscWalkDone
  split
  · exact .next h
  · split
    · exact .next h
    · split
      · rw [OutWf.next_iff, endWalk_mem _ _ _ _ fun s x => by simp]; exact h
      · rw [OutWf.next_iff, endWalk_mem _ _ _ _ fun s x => by cases x <;> simp]; exact h
      · split
        · rw [OutWf.next_iff, endWalk_mem _ _ _ _ fun s x => by simp]; exact h
        · simpa using h

theorem execFaultRetry_wf {reply : Nat} : OutWf (execFaultRetry reply s) := by
  unfold execFaultRetry
  split
  · simp [h]
  · split <;> simp [h]

theorem execFaultDeny_wf {reply : Nat} : OutWf (execFaultDeny reply s) := by
  unfold execFaultDeny
  split
  · simp [h]
  · split <;> simp [h]

theorem execFaultEmulated_wf {reply : Nat} : OutWf (execFaultEmulated reply s) := by
  unfold execFaultEmulated
  split
  · exact .next h
  · split
    · simpa using h
    · rw [OutWf.next_iff, endWalk_mem]
      · simpa using h
      · intro s x
        cases x with
        | job => simp
        | core n =>
          dsimp only
          split <;> simp

theorem execFaultAnswerTimeout_wf {cl walk : Nat} : OutWf (execFaultAnswerTimeout cl walk s) := by
  unfold execFaultAnswerTimeout
  split
  · exact .next h
  · split <;> simp [h]

theorem execShootdown_wf {req cl : Nat} : OutWf (execShootdown req cl s) := by
  unfold execShootdown
  split <;> simp [h]

/-! ### Firings and answers to a trap -/

theorem execFiringStart_wf {c : CoreId} : OutWf (execFiringStart c s) := by
  unfold execFiringStart
  dsimp only
  repeat' split
  all_goals simp [h]

theorem execBudgetExpiry_wf {c : CoreId} : OutWf (execBudgetExpiry c s) := by simp [execBudgetExpiry, h]
theorem execTrapAbort_wf {reply : Nat} : OutWf (execTrapAbort reply s) := by
  unfold execTrapAbort
  split <;> simp [h]

theorem execTrapResume_wf {reply : Nat} : OutWf (execTrapResume reply s) := by
  unfold execTrapResume
  split <;> simp [h]

theorem execTrapRetry_wf {reply : Nat} : OutWf (execTrapRetry reply s) := by
  unfold execTrapRetry
  split <;> simp [h]

theorem execTrapReplace_wf {reply : Nat} : OutWf (execTrapReplace reply s) := by
  unfold execTrapReplace
  split <;> simp [h]

theorem execTrapwaitExpiry_wf {c : CoreId} : OutWf (execTrapwaitExpiry c s) := by
  unfold execTrapwaitExpiry
  split <;> simp [h]

theorem execTrapMessageReoffer_wf {c : CoreId} : OutWf (execTrapMessageReoffer c s) := by
  unfold execTrapMessageReoffer
  split <;> simp [h]

/-! ### The routers -/

theorem execRedslot_wf {d a b : BitVec 5} {u v : Bool} : OutWf (execRedslot d a b u v s) := issue_wf h (by simp [takeX_wf, h])
theorem execRedput_wf {a b : BitVec 5} {u v : Bool} : OutWf (execRedput a b u v s) := issue_wf h (by simp [takeX_wf, h])
theorem execRedget_wf {d a : BitVec 5} {u : Bool} : OutWf (execRedget d a u s) := issue_wf h (by simp [takeX_wf, h])
theorem execRedfree_wf {a : BitVec 5} {u : Bool} : OutWf (execRedfree a u s) := issue_wf h (by simp [takeX_wf, h])
theorem execRedslotServe_wf {cl : Nat} : OutWf (execRedslotServe cl s) := by
  unfold execRedslotServe
  split <;> simp [h]

theorem execContributionArrival_wf {cl pkt : Nat} : OutWf (execContributionArrival cl pkt s) := by
  unfold execContributionArrival
  dsimp only
  repeat' split
  all_goals simp [h]

theorem execRedgetServe_wf {cl req : Nat} : OutWf (execRedgetServe cl req s) := by
  unfold execRedgetServe
  split
  · exact .next h
  · split
    · exact .next h
    · dsimp only
      split
      · simpa using h
      · split
        · simpa using h
        · split <;> simpa using h

theorem execRedfreeServe_wf {cl req : Nat} : OutWf (execRedfreeServe cl req s) := by
  unfold execRedfreeServe
  dsimp only
  split
  · exact .next h
  · split
    · exact .next h
    · split <;> simp [h]

theorem execRouteSwap_wf {who : MgmtSender} {net : Nat} {routes : List RouteRow} :
    OutWf (execRouteSwap who net routes s) := command_wf h (by simp [h])
theorem execRouteSwapActivate_wf {net : Nat} : OutWf (execRouteSwapActivate net s) := by simp [execRouteSwapActivate, h]
theorem execRemoteWriteData_wf {ctx xfer total : Nat} {compl : Word64} {va : BitVec 52} {data : List Byte} :
    OutWf (execRemoteWriteData ctx xfer total compl va data s) := by
  unfold execRemoteWriteData
  split
  · exact .next h
  · split
    · exact .next h
    · split
      · simpa using h
      · next ht => simpa using deviceWrite_wf data h ht

theorem execRemoteWriteCompletion_wf {xfer : Nat} : OutWf (execRemoteWriteCompletion xfer s) := by
  unfold execRemoteWriteCompletion
  split
  · exact .next h
  · split
    · exact .next h
    · dsimp only
      split
      · simpa using h
      · split
        · split
          · split <;> simpa using h
          · exact .next h
        · exact .next (writeCompletion_wf _ _ h)

/-! ### Cables -/

theorem execLaunchMessage_wf {vf : Nat} : OutWf (execLaunchMessage vf s) := by
  unfold execLaunchMessage
  dsimp only
  repeat' split
  all_goals simp [h]

/-! ### The matrix array -/

theorem execEcfgMe_wf {e : BitVec 4} {a b : BitVec 5} {u v : Bool} : OutWf (execEcfgMe e a b u v s) := issue_wf h (by simp [takeX_wf, h])
theorem execMzero_wf {k : Bool} : OutWf (execMzero k s) := by
  refine issue_wf h ?_
  dsimp only
  repeat' split
  all_goals simp [h]

theorem execMdrain_wf {a b : BitVec 5} {u v : Bool} {f : BitVec 2} {k : Bool} : OutWf (execMdrain a b u v f k s) := by
  refine issue_wf h ?_
  dsimp only
  repeat' split
  all_goals simp [takeX_wf, h]

theorem execMdrainWritesApplied_wf {c : CoreId} : OutWf (execMdrainWritesApplied c s) := by
  unfold execMdrainWritesApplied
  dsimp only
  split
  · split
    · exact .next h
    · split
      · split
        · exact .next h
        · rw [OutWf.next_iff]
          split <;> simpa using Memory.wf_engineWord _ _ h
      · rw [OutWf.next_iff]
        split <;> simpa using h
      · simpa using h
      · exact .next h
  · exact .next h

theorem execStepStart_wf {cl : Nat} : OutWf (execStepStart cl s) := by
  unfold execStepStart
  split
  · exact .next h
  · dsimp only
    split
    · exact .next h
    · split
      · exact .next h
      · split
        · simpa [foldl_mem] using h
        · exact .next (foldl_wf _ (fun _ e ht => joinStep_wf _ _ _ _ _ ht) _ _ h)

theorem execScaleWrite_wf {cl step : Nat} : OutWf (execScaleWrite cl step s) := by simpa [execScaleWrite, foldl_mem] using h

theorem execStepComplete_wf {cl step : Nat} : OutWf (execStepComplete cl step s) := by
  unfold execStepComplete
  dsimp only
  split <;> simp [h]

/-! ### Placing and starting a rope -/

theorem execPlaceRope_wf {vf : Nat} : OutWf (execPlaceRope vf s) := by
  unfold execPlaceRope
  split
  · dsimp only
    split
    · exact .next h
    · split
      · exact .next h
      · split
        · exact .next h
        · split
          · exact .next h
          · split
            · exact .next h
            · next ht => simpa [placeStrands_mem _ ht] using h
  · exact .next h

theorem execRopeStart_wf {rope : Nat} : OutWf (execRopeStart rope s) := by
  unfold execRopeStart
  split
  · exact .next h
  · split
    · exact .next h
    · split
      · exact .next h
      · split
        · simpa using h
        · split
          · exact .next h
          · dsimp only
            rw [OutWf.next_iff, foldl_mem _ fun s l => by simp, modRope_mem]
            exact deviceWrite_getD_wf (foldl_wf _ (fun _ e ht => buildState_wf _ _ _ _ _ ht) _ _ (scrubRope_wf _ h))

theorem execStartMessageReoffer_wf {rope actor : Nat} : OutWf (execStartMessageReoffer rope actor s) := by
  unfold execStartMessageReoffer
  split <;> simp [h]

/-! ### Ends of ropes, slices, switches and gang stops -/

theorem execRopeRetire_wf {rope : Nat} : OutWf (execRopeRetire rope s) := by
  unfold execRopeRetire
  dsimp only
  split <;> simp [h]

theorem execEndCable_wf {who : MgmtSender} {vf cable : Nat} : OutWf (execEndCable who vf cable s) := by
  unfold execEndCable
  split
  · exact .next h
  · split
    · simpa using h
    · split
      · simpa using h
      · split <;> simpa [foldl_mem] using h

theorem execSliceEnd_wf {part : Nat} : OutWf (execSliceEnd part s) := by
  unfold execSliceEnd
  split <;> simp [h]

theorem execSwitchSlice_wf {who : MgmtSender} {part : Nat} : OutWf (execSwitchSlice who part s) := by
  unfold execSwitchSlice
  split
  · exact command_wf h (by simpa using h)
  · exact command_wf h h

theorem execSwitchSave_wf {part : Nat} : OutWf (execSwitchSave part s) := by
  unfold execSwitchSave
  split <;> simp [h]

theorem execRestore_wf {part : Nat} : OutWf (execRestore part s) := by
  unfold execRestore
  split
  · exact .next h
  · split
    · dsimp only
      split <;> simpa using bringBack_wf _ h
    · simpa using bringBack_wf _ h
    · exact .next h

theorem execSpillRingDrain_wf {c : CoreId} {slot port : Nat} : OutWf (execSpillRingDrain c slot port s) := by simp [execSpillRingDrain, h]
theorem execGangStop_wf {part : Nat} : OutWf (execGangStop part s) := by simp [execGangStop, h]
theorem execHalt_wf {who : MgmtSender} {part : Nat} : OutWf (execHalt who part s) := command_wf h (by simp [h])
theorem execRelease_wf {who : MgmtSender} {part : Nat} {vfs : List Nat} : OutWf (execRelease who part vfs s) := by
  refine command_wf h ?_
  dsimp only
  rw [modPart_mem, foldl_mem _ fun s v => by simp]
  split <;> simpa using h

theorem execManagementSnapshot_wf {who : MgmtSender} {part : Nat} : OutWf (execManagementSnapshot who part s) := command_wf h (by simp [h])
theorem execSnapshotRead_wf {who : MgmtSender} {c : CoreId} : OutWf (execSnapshotRead who c s) := by simp [execSnapshotRead, h]
/-! ### The power controller -/

theorem execTelemetryFrame_wf {frame : List Byte} : OutWf (execTelemetryFrame frame s) := by simp [execTelemetryFrame, h]
theorem execFramesStale_wf : OutWf (execFramesStale s) := by simp [execFramesStale, h]
theorem execSafeMaskWithdraw_wf : OutWf (execSafeMaskWithdraw s) := by simp [execSafeMaskWithdraw, h]
theorem execDroopConfigWrite_wf {who : MgmtSender} {index : Nat} {value : Word64} :
    OutWf (execDroopConfigWrite who index value s) := command_wf h (by dsimp only; split <;> simp [h])
theorem execShedDeadline_wf {rope : Nat} : OutWf (execShedDeadline rope s) := by
  unfold execShedDeadline
  split
  · exact .next h
  · split <;> simp [h]

theorem execClassRestore_wf {cls : Nat} : OutWf (execClassRestore cls s) := by simp [execClassRestore, h]
theorem execCurrentWindow_wf {loads : List LoadRow} : OutWf (execCurrentWindow loads s) := by simp [execCurrentWindow, h]
theorem execMeterWindow_wf {part energy : Nat} : OutWf (execMeterWindow part energy s) := by
  rw [execMeterWindow, OutWf.next_iff, foldl_mem _ fun s cl => by simp]
  simpa using h

theorem execVoteWrite_wf {who : MgmtSender} {part die : Nat} {mv : BitVec 16} :
    OutWf (execVoteWrite who part die mv s) := command_wf h (by simpa using h)
theorem execIdleLowRail_wf {cl : Nat} : OutWf (execIdleLowRail cl s) := by simp [execIdleLowRail, h]
theorem execRailSwitch_wf {cl : Nat} : OutWf (execRailSwitch cl s) := by simp [execRailSwitch, h]
theorem execStackSample_wf {die celsius : Nat} : OutWf (execStackSample die celsius s) := by
  unfold execStackSample
  split <;> simp [h]

theorem execDramShareWrite_wf {who : MgmtSender} {part die percent : Nat} : OutWf (execDramShareWrite who part die percent s) := by
  unfold execDramShareWrite
  exact command_wf h (by simpa using h)

theorem execAllotWrite_wf {who : MgmtSender} {part : Nat} {watts : BitVec 12} : OutWf (execAllotWrite who part watts s) := command_wf h (by simp [h])
theorem execSlopeWrite_wf {who : MgmtSender} {down up : BitVec 16} : OutWf (execSlopeWrite who down up s) := command_wf h (by simp [h])

/-! ### Management and boot -/

theorem execPartitionDefine_wf {who : MgmtSender} {part base len barctx : Nat} :
    OutWf (execPartitionDefine who part base len barctx s) := command_wf h (by simpa [foldl_mem] using h)
theorem execVfCreate_wf {who : MgmtSender} {vf part : Nat} : OutWf (execVfCreate who vf part s) := command_wf h (by simp [h])
theorem execMeshrateWrite_wf {who : MgmtSender} {part : Nat} {rate : BitVec 32} {burst : BitVec 16} :
    OutWf (execMeshrateWrite who part rate burst s) := command_wf h (by simp [h])
theorem execVfctlWrite_wf {who : MgmtSender} {vf : Nat} {value : Word64} : OutWf (execVfctlWrite who vf value s) := vfCommand_wf h
theorem execEndpointTableWrite_wf {who : MgmtSender} {vf index : Nat} {entry : Option Endpoint} :
    OutWf (execEndpointTableWrite who vf index entry s) := vfCommand_wf h
theorem execShadowRootWrite_wf {who : MgmtSender} {vf : Nat} {pa : BitVec 39} : OutWf (execShadowRootWrite who vf pa s) := vfCommand_wf h
theorem execDeliveryContextAssign_wf {who : MgmtSender} {ctx vf : Nat} {entropy : Entropy} :
    OutWf (execDeliveryContextAssign who ctx vf entropy s) := command_wf h (by simp [h])
theorem execPacketCounterRead_wf {who : MgmtSender} : OutWf (execPacketCounterRead who s) := by simp [execPacketCounterRead, h]
theorem execDroppedPacket_wf {reason : DropReason} : OutWf (execDroppedPacket reason s) := by
  unfold execDroppedPacket
  split
  · simp [h]
  · split <;> simp [h]

theorem execQuery_wf {who : MgmtSender} {vf cable : Nat} : OutWf (execQuery who vf cable s) := by
  unfold execQuery
  dsimp only
  split
  · exact .next h
  · split
    · exact .next h
    · split <;> simp [h]

omit h in
theorem execPackageReset_wf : OutWf (execPackageReset s) := by
  unfold execPackageReset
  dsimp only
  split
  · exact .next (afterReset_wf s)
  · split <;> exact .next (afterReset_wf s)

theorem execRecoveryImageLoad_wf {who : MgmtSender} {img : List Byte} : OutWf (execRecoveryImageLoad who img s) := by
  unfold execRecoveryImageLoad
  split
  · exact command_wf h h
  · split
    · exact .next h
    · split
      · exact .next (afterReset_wf s)
      · exact .next h

theorem execFirmwareWrite_wf {who : MgmtSender} {img : List Byte} {raise : Bool} :
    OutWf (execFirmwareWrite who img raise s) := command_wf h (by simp [h])
theorem execAttest_wf {who : MgmtSender} {request : AttestRequest} : OutWf (execAttest who request s) := by simp [execAttest, h]

/-! ### The dispatch and the step -/

/-- Every instruction and every event keeps memory in its canonical form: one arm for each constructor, by the common form it has. -/
theorem exec_wf (i : Instr) : OutWf (exec i s) :=
  match i with
  -- Integer instructions
  | .add .. => show OutWf (execAdd ..) from alu2_wf h
  | .sub .. => show OutWf (execSub ..) from alu2_wf h
  | .mul .. => show OutWf (execMul ..) from alu2_wf h
  | .mulh .. => show OutWf (execMulh ..) from alu2_wf h
  | .mulhn .. => show OutWf (execMulhn ..) from alu2_wf h
  | .div .. => show OutWf (execDiv ..) from alu2_wf h
  | .divn .. => show OutWf (execDivn ..) from alu2_wf h
  | .rem .. => show OutWf (execRem ..) from alu2_wf h
  | .remn .. => show OutWf (execRemn ..) from alu2_wf h
  | .and .. => show OutWf (execAnd ..) from alu2_wf h
  | .or .. => show OutWf (execOr ..) from alu2_wf h
  | .xor .. => show OutWf (execXor ..) from alu2_wf h
  | .andn .. => show OutWf (execAndn ..) from alu2_wf h
  | .shl .. => show OutWf (execShl ..) from alu2_wf h
  | .shr .. => show OutWf (execShr ..) from alu2_wf h
  | .sra .. => show OutWf (execSra ..) from alu2_wf h
  | .rot .. => show OutWf (execRot ..) from alu2_wf h
  | .slt .. => show OutWf (execSlt ..) from alu2_wf h
  | .sltn .. => show OutWf (execSltn ..) from alu2_wf h
  | .min .. => show OutWf (execMin ..) from alu2_wf h
  | .max .. => show OutWf (execMax ..) from alu2_wf h
  | .minn .. => show OutWf (execMinn ..) from alu2_wf h
  | .maxn .. => show OutWf (execMaxn ..) from alu2_wf h
  | .clz .. => show OutWf (execClz ..) from alu1_wf h
  | .ctz .. => show OutWf (execCtz ..) from alu1_wf h
  | .popc .. => show OutWf (execPopc ..) from alu1_wf h
  | .bswap .. => show OutWf (execBswap ..) from alu1_wf h
  | .bfx .. => show OutWf (execBfx ..) from alu2_wf h
  | .bfi .. => execBfi_wf h
  | .addi .. => show OutWf (execAddi ..) from alu1_wf h
  | .andi .. => show OutWf (execAndi ..) from alu1_wf h
  | .ori .. => show OutWf (execOri ..) from alu1_wf h
  | .xori .. => show OutWf (execXori ..) from alu1_wf h
  | .slti .. => show OutWf (execSlti ..) from alu1_wf h
  | .sltni .. => show OutWf (execSltni ..) from alu1_wf h
  | .shli .. => show OutWf (execShli ..) from alu1_wf h
  | .shri .. => show OutWf (execShri ..) from alu1_wf h
  | .srai .. => show OutWf (execSrai ..) from alu1_wf h
  | .roti .. => show OutWf (execRoti ..) from alu1_wf h
  | .lih .. => execLih_wf h
  -- Loads and stores
  | .ld .. => execLd_wf h
  | .st .. => execSt_wf h
  | .ldc .. => execLdc_wf h
  | .stc .. => execStc_wf h
  | .ldw .. => execLdw_wf h
  | .stf .. => execStf_wf h
  | .clrf .. => execClrf_wf h
  | .ldb .. => show OutWf (execLdb ..) from loadBits_wf h
  | .ldbx .. => show OutWf (execLdbx ..) from loadBits_wf h
  | .stb .. => execStb_wf h
  | .fld .. => execFld_wf h
  | .fst .. => execFst_wf h
  -- Atomics, fences, waits on a word, barriers
  | .aadd .. => show OutWf (execAadd ..) from atomicInt_wf h
  | .aand .. => show OutWf (execAand ..) from atomicInt_wf h
  | .aor .. => show OutWf (execAor ..) from atomicInt_wf h
  | .axor .. => show OutWf (execAxor ..) from atomicInt_wf h
  | .amin .. => show OutWf (execAmin ..) from atomicInt_wf h
  | .amax .. => show OutWf (execAmax ..) from atomicInt_wf h
  | .aminn .. => show OutWf (execAminn ..) from atomicInt_wf h
  | .amaxn .. => show OutWf (execAmaxn ..) from atomicInt_wf h
  | .aswap .. => show OutWf (execAswap ..) from atomicInt_wf h
  | .aaddz .. => show OutWf (execAaddz ..) from atomicInt_wf h
  | .afadd .. => show OutWf (execAfadd ..) from atomicFp_wf h
  | .afmin .. => show OutWf (execAfmin ..) from atomicFp_wf h
  | .afmax .. => show OutWf (execAfmax ..) from atomicFp_wf h
  | .afminn .. => show OutWf (execAfminn ..) from atomicFp_wf h
  | .afmaxn .. => show OutWf (execAfmaxn ..) from atomicFp_wf h
  | .cas .. => execCas_wf h
  -- Control transfer
  | .beq .. => show OutWf (execBeq ..) from branch_wf h
  | .bne .. => show OutWf (execBne ..) from branch_wf h
  | .blt .. => show OutWf (execBlt ..) from branch_wf h
  | .bge .. => show OutWf (execBge ..) from branch_wf h
  | .bltn .. => show OutWf (execBltn ..) from branch_wf h
  | .bgen .. => show OutWf (execBgen ..) from branch_wf h
  | .jal .. => execJal_wf h
  | .jalr .. => execJalr_wf h
  | .delay .. => execDelay_wf h
  -- Atomics, fences, waits on a word, barriers
  | .fence .. => execFence_wf h
  | .waita .. => execWaita_wf h
  | .bmin .. => execBmin_wf h
  -- Messages
  | .pbindRecv .. => execPbindRecv_wf h
  | .pbindStream .. => execPbindStream_wf h
  | .pbindSend .. => execPbindSend_wf h
  | .punbind .. => execPunbind_wf h
  | .msend .. => execMsend_wf h
  | .mcount .. => execMcount_wf h
  | .mstat .. => execMstat_wf h
  | .mbind .. => execMbind_wf h
  -- Tours
  | .tour .. => execTour_wf h
  | .cast .. => execCast_wf h
  | .tstat .. => execTstat_wf h
  | .tslot .. => execTslot_wf h
  -- Capability instructions
  | .cmov .. => execCmov_wf h
  | .cbnd .. => execCbnd_wf h
  | .cadd .. => show OutWf (execCadd ..) from capDerive_wf h
  | .cset .. => show OutWf (execCset ..) from capDerive_wf h
  | .cperm .. => show OutWf (execCperm ..) from capDerive_wf h
  | .cbase .. => show OutWf (execCbase ..) from capRead_wf h
  | .clen .. => show OutWf (execClen ..) from capRead_wf h
  | .ccur .. => show OutWf (execCcur ..) from capRead_wf h
  | .cprm .. => show OutWf (execCprm ..) from capRead_wf h
  | .ctag .. => show OutWf (execCtag ..) from capRead_wf h
  | .cclr .. => execCclr_wf h
  -- System instructions and strands
  | .rds .. => execRds_wf h
  | .wrs .. => execWrs_wf h
  | .trap .. => execTrap_wf h
  | .time .. => execTime_wf h
  -- Translation
  | .tlbw .. => execTlbw_wf h
  | .tlbinv .. => execTlbinv_wf h
  -- Scalar floating point
  | .fadd .. => show OutWf (execFadd ..) from fp2_wf h
  | .fsub .. => show OutWf (execFsub ..) from fp2_wf h
  | .fmul .. => show OutWf (execFmul ..) from fp2_wf h
  | .fdiv .. => show OutWf (execFdiv ..) from fp2_wf h
  | .fsqrt .. => show OutWf (execFsqrt ..) from fp1_wf h
  | .fmin .. => show OutWf (execFmin ..) from fp2_wf h
  | .fmax .. => show OutWf (execFmax ..) from fp2_wf h
  | .fminn .. => show OutWf (execFminn ..) from fp2_wf h
  | .fmaxn .. => show OutWf (execFmaxn ..) from fp2_wf h
  | .fabs .. => show OutWf (execFabs ..) from fp1_wf h
  | .fneg .. => show OutWf (execFneg ..) from fp1_wf h
  | .feq .. => show OutWf (execFeq ..) from fpCompare_wf h
  | .flt .. => show OutWf (execFlt ..) from fpCompare_wf h
  | .fle .. => show OutWf (execFle ..) from fpCompare_wf h
  | .fclass .. => execFclass_wf h
  | .fmvx .. => execFmvx_wf h
  | .fmvf .. => execFmvf_wf h
  | .fmadd .. => show OutWf (execFmadd ..) from fma_wf h
  | .fmsub .. => show OutWf (execFmsub ..) from fma_wf h
  | .fnmsub .. => show OutWf (execFnmsub ..) from fma_wf h
  | .fnmadd .. => show OutWf (execFnmadd ..) from fma_wf h
  -- Lanes, permutes and masks
  | .vadd .. => show OutWf (execVadd ..) from vecInt_wf h
  | .vsub .. => show OutWf (execVsub ..) from vecInt_wf h
  | .vmul .. => show OutWf (execVmul ..) from vecInt_wf h
  | .vmulh .. => show OutWf (execVmulh ..) from vecInt_wf h
  | .vmulhn .. => show OutWf (execVmulhn ..) from vecInt_wf h
  | .vand .. => show OutWf (execVand ..) from vecInt_wf h
  | .vor .. => show OutWf (execVor ..) from vecInt_wf h
  | .vxor .. => show OutWf (execVxor ..) from vecInt_wf h
  | .vandn .. => show OutWf (execVandn ..) from vecInt_wf h
  | .vshl .. => show OutWf (execVshl ..) from vecInt_wf h
  | .vshr .. => show OutWf (execVshr ..) from vecInt_wf h
  | .vsra .. => show OutWf (execVsra ..) from vecInt_wf h
  | .vmin .. => show OutWf (execVmin ..) from vecInt_wf h
  | .vmax .. => show OutWf (execVmax ..) from vecInt_wf h
  | .vminn .. => show OutWf (execVminn ..) from vecInt_wf h
  | .vmaxn .. => show OutWf (execVmaxn ..) from vecInt_wf h
  | .vadds .. => show OutWf (execVadds ..) from vecInt_wf h
  | .vaddsn .. => show OutWf (execVaddsn ..) from vecInt_wf h
  | .vsubs .. => show OutWf (execVsubs ..) from vecInt_wf h
  | .vsubsn .. => show OutWf (execVsubsn ..) from vecInt_wf h
  | .vseq .. => show OutWf (execVseq ..) from vecIntCompare_wf h
  | .vslt .. => show OutWf (execVslt ..) from vecIntCompare_wf h
  | .vsltn .. => show OutWf (execVsltn ..) from vecIntCompare_wf h
  | .vfadd .. => show OutWf (execVfadd ..) from vecFp2_wf h
  | .vfsub .. => show OutWf (execVfsub ..) from vecFp2_wf h
  | .vfmul .. => show OutWf (execVfmul ..) from vecFp2_wf h
  | .vfdiv .. => show OutWf (execVfdiv ..) from vecFp2_wf h
  | .vfsqrt .. => show OutWf (execVfsqrt ..) from vecFp1_wf h
  | .vfmin .. => show OutWf (execVfmin ..) from vecFp2_wf h
  | .vfmax .. => show OutWf (execVfmax ..) from vecFp2_wf h
  | .vfminn .. => show OutWf (execVfminn ..) from vecFp2_wf h
  | .vfmaxn .. => show OutWf (execVfmaxn ..) from vecFp2_wf h
  | .vfma .. => show OutWf (execVfma ..) from vecFma_wf h
  | .vfms .. => show OutWf (execVfms ..) from vecFma_wf h
  | .vfabs .. => show OutWf (execVfabs ..) from vecFp1_wf h
  | .vfneg .. => show OutWf (execVfneg ..) from vecFp1_wf h
  | .vfeq .. => show OutWf (execVfeq ..) from vecFpCompare_wf h
  | .vflt .. => show OutWf (execVflt ..) from vecFpCompare_wf h
  | .vfle .. => show OutWf (execVfle ..) from vecFpCompare_wf h
  | .vfrec .. => show OutWf (execVfrec ..) from vecFp1_wf h
  | .vfrsq .. => show OutWf (execVfrsq ..) from vecFp1_wf h
  | .vfexp2 .. => show OutWf (execVfexp2 ..) from vecFp1_wf h
  | .vflog2 .. => show OutWf (execVflog2 ..) from vecFp1_wf h
  | .vfredsum .. => show OutWf (execVfredsum ..) from vecFpReduce_wf h
  | .vfredmin .. => show OutWf (execVfredmin ..) from vecFpReduce_wf h
  | .vfredmax .. => show OutWf (execVfredmax ..) from vecFpReduce_wf h
  | .vmv .. => execVmv_wf h
  | .vbcast .. => execVbcast_wf h
  | .vbcastf .. => execVbcastf_wf h
  | .vslideup .. => execVslideup_wf h
  | .vslidedn .. => execVslidedn_wf h
  | .vgather .. => execVgather_wf h
  | .vcompress .. => execVcompress_wf h
  | .vexpand .. => execVexpand_wf h
  | .vext .. => execVext_wf h
  | .vins .. => execVins_wf h
  | .vredadd .. => show OutWf (execVredadd ..) from vecReduce_wf h
  | .vredmin .. => show OutWf (execVredmin ..) from vecReduce_wf h
  | .vredmax .. => show OutWf (execVredmax ..) from vecReduce_wf h
  | .vredminn .. => show OutWf (execVredminn ..) from vecReduce_wf h
  | .vredmaxn .. => show OutWf (execVredmaxn ..) from vecReduce_wf h
  | .mand .. => show OutWf (execMand ..) from maskLogic_wf h
  | .mor .. => show OutWf (execMor ..) from maskLogic_wf h
  | .mxor .. => show OutWf (execMxor ..) from maskLogic_wf h
  | .mnot .. => show OutWf (execMnot ..) from maskLogic_wf h
  | .mpopc .. => execMpopc_wf h
  | .mfirst .. => execMfirst_wf h
  | .vsetvl .. => execVsetvl_wf h
  | .vclaim .. => execVclaim_wf h
  -- Vector loads and stores
  | .vld .. => execVld_wf h
  | .vst .. => execVst_wf h
  | .vlds .. => execVlds_wf h
  | .vsts .. => execVsts_wf h
  | .vldx .. => execVldx_wf h
  | .vstx .. => execVstx_wf h
  -- Conversions
  | .cvtScalarForm .. => execCvtScalarForm_wf h
  | .cvtVectorForm .. => execCvtVectorForm_wf h
  -- The copy unit
  | .ecfgCe .. => execEcfgCe_wf h
  | .cpq .. => execCpq_wf h
  | .cppoll .. => execCppoll_wf h
  | .cpwait .. => execCpwait_wf h
  -- The matrix array
  | .mmaE4e4 .. => show OutWf (execMmaE4e4 ..) from gang_wf h
  | .mmaE4e5 .. => show OutWf (execMmaE4e5 ..) from gang_wf h
  | .mmaE5e4 .. => show OutWf (execMmaE5e4 ..) from gang_wf h
  | .mmaE5e5 .. => show OutWf (execMmaE5e5 ..) from gang_wf h
  | .mmaE3e3 .. => show OutWf (execMmaE3e3 ..) from gang_wf h
  | .mmaE2e2 .. => show OutWf (execMmaE2e2 ..) from gang_wf h
  | .mmaI8i8 .. => show OutWf (execMmaI8i8 ..) from gang_wf h
  | .mmaI4i4 .. => show OutWf (execMmaI4i4 ..) from gang_wf h
  | .mmaI8q8 .. => show OutWf (execMmaI8q8 ..) from gang_wf h
  | .mmaI8q4 .. => show OutWf (execMmaI8q4 ..) from gang_wf h
  | .mmaI4q4 .. => show OutWf (execMmaI4q4 ..) from gang_wf h
  | .mmaBf16 .. => show OutWf (execMmaBf16 ..) from gang_wf h
  | .mmaF16 .. => show OutWf (execMmaF16 ..) from gang_wf h
  | .mmbE4e4 .. => show OutWf (execMmbE4e4 ..) from gang_wf h
  | .mmbE5e5 .. => show OutWf (execMmbE5e5 ..) from gang_wf h
  | .mmbE3e3 .. => show OutWf (execMmbE3e3 ..) from gang_wf h
  | .mmbE2e2 .. => show OutWf (execMmbE2e2 ..) from gang_wf h
  | .ecfgMe .. => execEcfgMe_wf h
  | .mdrain .. => execMdrain_wf h
  | .mzero .. => execMzero_wf h
  -- The routers
  | .redslot .. => execRedslot_wf h
  | .redput .. => execRedput_wf h
  | .redget .. => execRedget_wf h
  | .redfree .. => execRedfree_wf h
  -- System instructions and strands
  | .illegalWord .. => execIllegalWord_wf h
  -- Control transfer
  | .nop => execNop_wf h
  | .endFiring => execEndFiring_wf h
  -- System instructions and strands
  | .retire => execRetire_wf h
  -- Atomics, fences, waits on a word, barriers
  | .cbar => execCbar_wf h
  | .gbar => execGbar_wf h
  -- System instructions and strands
  | .snap => execSnap_wf h
  -- Lanes, permutes and masks
  | .vrelease => execVrelease_wf h
  -- Cables
  | .launchMessage .. => execLaunchMessage_wf h
  -- Placing and starting a rope
  | .placeRope .. => execPlaceRope_wf h
  | .ropeStart .. => execRopeStart_wf h
  | .startMessageReoffer .. => execStartMessageReoffer_wf h
  -- Firings and answers to a trap
  | .firingStart .. => execFiringStart_wf h
  -- Messages
  | .messageInject .. => execMessageInject_wf h
  | .messageOffer .. => execMessageOffer_wf h
  | .messageAnswer .. => execMessageAnswer_wf h
  -- Firings and answers to a trap
  | .budgetExpiry .. => execBudgetExpiry_wf h
  -- Atomics, fences, waits on a word, barriers
  | .valueArrival .. => execValueArrival_wf h
  -- Control transfer
  | .delayExpiry .. => execDelayExpiry_wf h
  -- Loads and stores
  | .storeDrain .. => execStoreDrain_wf h
  | .ldwSatisfy .. => execLdwSatisfy_wf h
  -- The copy unit
  | .copyJobStart .. => execCopyJobStart_wf h
  | .copyJobDone .. => execCopyJobDone_wf h
  | .streamDeliver .. => execStreamDeliver_wf h
  -- Tours
  | .tourJobStart .. => execTourJobStart_wf h
  | .hitch .. => execHitch_wf h
  | .hitchReport .. => execHitchReport_wf h
  | .arrivalReoffer .. => execArrivalReoffer_wf h
  | .holdExpiry .. => execHoldExpiry_wf h
  | .tileOnward .. => execTileOnward_wf h
  | .completionReoffer .. => execCompletionReoffer_wf h
  | .tourSlotScrubDone .. => execTourSlotScrubDone_wf h
  -- The matrix array
  | .stepStart .. => execStepStart_wf h
  | .scaleWrite .. => execScaleWrite_wf h
  | .stepComplete .. => execStepComplete_wf h
  -- Atomics, fences, waits on a word, barriers
  | .sequencerCommit .. => execSequencerCommit_wf h
  | .waitaWake .. => execWaitaWake_wf h
  | .waitaTimeout .. => execWaitaTimeout_wf h
  | .clusterBarrierComplete .. => execClusterBarrierComplete_wf h
  | .barrierTreeComplete .. => execBarrierTreeComplete_wf h
  -- Messages
  | .notifyReoffer .. => execNotifyReoffer_wf h
  -- The routers
  | .routeSwap .. => execRouteSwap_wf h
  | .routeSwapActivate .. => execRouteSwapActivate_wf h
  -- The injection limiter
  | .limiterRefill .. => execLimiterRefill_wf h
  -- The routers
  | .redslotServe .. => execRedslotServe_wf h
  | .contributionArrival .. => execContributionArrival_wf h
  | .redgetServe .. => execRedgetServe_wf h
  | .redfreeServe .. => execRedfreeServe_wf h
  | .remoteWriteData .. => execRemoteWriteData_wf h
  | .remoteWriteCompletion .. => execRemoteWriteCompletion_wf h
  -- Firings and answers to a trap
  | .trapMessageReoffer .. => execTrapMessageReoffer_wf h
  | .trapAbort .. => execTrapAbort_wf h
  | .trapResume .. => execTrapResume_wf h
  | .trapRetry .. => execTrapRetry_wf h
  | .trapReplace .. => execTrapReplace_wf h
  | .trapwaitExpiry .. => execTrapwaitExpiry_wf h
  -- Translation
  | .tscMissRequest .. => execTscMissRequest_wf h
  | .tscWalkDone .. => execTscWalkDone_wf h
  | .faultRetry .. => execFaultRetry_wf h
  | .faultDeny .. => execFaultDeny_wf h
  | .faultEmulated .. => execFaultEmulated_wf h
  | .shootdown .. => execShootdown_wf h
  -- Ends of ropes, slices, switches and gang stops
  | .sliceEnd .. => execSliceEnd_wf h
  | .switchSlice .. => execSwitchSlice_wf h
  | .switchSave .. => execSwitchSave_wf h
  | .restore .. => execRestore_wf h
  | .spillRingDrain .. => execSpillRingDrain_wf h
  | .gangStop .. => execGangStop_wf h
  | .halt .. => execHalt_wf h
  | .release .. => execRelease_wf h
  | .managementSnapshot .. => execManagementSnapshot_wf h
  | .snapshotRead .. => execSnapshotRead_wf h
  -- The power controller
  | .telemetryFrame .. => execTelemetryFrame_wf h
  | .framesStale => execFramesStale_wf h
  | .safeMaskWithdraw => execSafeMaskWithdraw_wf h
  | .shedDeadline .. => execShedDeadline_wf h
  | .classRestore .. => execClassRestore_wf h
  | .currentWindow .. => execCurrentWindow_wf h
  | .meterWindow .. => execMeterWindow_wf h
  | .idleLowRail .. => execIdleLowRail_wf h
  | .railSwitch .. => execRailSwitch_wf h
  | .stackSample .. => execStackSample_wf h
  -- Ends of ropes, slices, switches and gang stops
  | .ropeRetire .. => execRopeRetire_wf h
  | .endCable .. => execEndCable_wf h
  -- Management and boot
  | .query .. => execQuery_wf h
  | .attest .. => execAttest_wf h
  | .packageReset => execPackageReset_wf
  | .recoveryImageLoad .. => execRecoveryImageLoad_wf h
  | .firmwareWrite .. => execFirmwareWrite_wf h
  | .partitionDefine .. => execPartitionDefine_wf h
  | .vfCreate .. => execVfCreate_wf h
  | .meshrateWrite .. => execMeshrateWrite_wf h
  | .vfctlWrite .. => execVfctlWrite_wf h
  | .endpointTableWrite .. => execEndpointTableWrite_wf h
  | .shadowRootWrite .. => execShadowRootWrite_wf h
  -- The power controller
  | .droopConfigWrite .. => execDroopConfigWrite_wf h
  | .voteWrite .. => execVoteWrite_wf h
  | .allotWrite .. => execAllotWrite_wf h
  | .dramShareWrite .. => execDramShareWrite_wf h
  | .slopeWrite .. => execSlopeWrite_wf h
  -- Management and boot
  | .packetCounterRead .. => execPacketCounterRead_wf h
  -- Atomics, fences, waits on a word, barriers
  | .appliedAtHome .. => execAppliedAtHome_wf h
  -- The matrix array
  | .mdrainWritesApplied .. => execMdrainWritesApplied_wf h
  -- Translation
  | .faultAnswerTimeout .. => execFaultAnswerTimeout_wf h
  -- The instruction cache
  | .icacheMissFill .. => execIcacheMissFill_wf h
  -- Management and boot
  | .deliveryContextAssign .. => execDeliveryContextAssign_wf h
  | .droppedPacket .. => execDroppedPacket_wf h

end

theorem afterInstr_wf {c : CoreId} {s : State} {o : Out} (ho : OutWf o) : OutWf (afterInstr c s o) := by
  cases o with
  | next t =>
    have ht := (OutWf.next_iff t).1 ho
    simp only [afterInstr]
    split
    · split
      · exact .next ht
      · exact ho
    · exact ho
  | fault => exact ho
  | refused => exact ho

theorem coreTurn_wf {c : CoreId} {s : State} (h : s.mem.wf = true) : OutWf (coreTurn c s) := by
  have hd : ({ s with cur := c }.wakeDelay c).mem.wf = true := by simpa using h
  unfold coreTurn
  split
  · exact .of_fault _
  · dsimp only
    split
    · next ht => rw [OutWf.next_iff, before_mem ht]; exact hd
    · exact afterInstr_wf (exec_wf hd _)

theorem turn_wf {t : Turn} {s : State} (h : s.mem.wf = true) : OutWf (turn t s) := by
  unfold turn
  split
  · exact coreTurn_wf h
  · exact exec_wf h _
  · exact .next (outside_wf _ h)

theorem step_wf {s : State} (h : s.mem.wf = true) : OutWf (step s) := by
  unfold step
  split
  · exact turn_wf h
  · exact coreTurn_wf h

end Sys2Proof.Machine
end

section
/-! SUPPORT. The statements settled by the invariant of memory. -/

namespace Sys2Proof.Machine

/-- Settles O57: a step is a turn of the world outside, an event, or an instruction, and each keeps the canonical form (`step_wf`). -/
theorem memoryFormKept : Obligations.MemoryFormKept := fun _ t h ht => step_wf h t ht

end Sys2Proof.Machine
end

section
/-! SUPPORT. The trigger of `snap` (R340) where an earlier one of the partition has one core cycle left to spread: `snap` looks at the spread after its own
core cycle, so the earlier trigger has ended by then, and the core latches. -/

namespace Sys2Proof.Machine

/-- `snap` completes first, and raises its trigger in the state after its core cycle. -/
theorem exec_snap {s : State} (h : s.Issues s.cur [] []) : exec .snap s = .next ((s.advance s.cur).snapshot (s.partAt s.cur) 0) :=
  issue_go h fun s => .done ((s.advance s.cur).snapshot (s.partAt s.cur) 0)

/-- A firing on core 0 of a partition of one cluster, an earlier trigger of which spreads until the core has counted one cycle, which is its next. -/
def lastSpreadCycle : State :=
  (State.reset.withFiring []).modPart 0 fun p => { p with len := 1, spread := [(CoreId.key ⟨0, 0⟩, 1)] }

theorem lastSpreadCycle_issues : lastSpreadCycle.Issues lastSpreadCycle.cur [] [] where
  running := by decide
  going := by decide
  full := by simp
  scaled := by simp
  settled := by simp
  granule := by simp
  sound := by simp
  room := by simp

theorem lastSpreadCycle_spreading : lastSpreadCycle.spreading (lastSpreadCycle.partAt lastSpreadCycle.cur) = true := by decide

/-- After the core cycle of `snap` the earlier trigger spreads no more, and the core latches a snapshot of its own. -/
theorem lastSpreadCycle_snap_latches :
    (((lastSpreadCycle.advance lastSpreadCycle.cur).snapshot (lastSpreadCycle.partAt lastSpreadCycle.cur) 0).core ⟨0, 0⟩).snap.seq = 1
      ∧ ((lastSpreadCycle.advance lastSpreadCycle.cur).core ⟨0, 0⟩).snap.seq = 0 := by decide

/-- Refutes O28: in `lastSpreadCycle` an earlier trigger still spreads as `snap` issues, but not after the core cycle that `snap` takes, so it latches a
snapshot and does not merge into the earlier one. -/
theorem not_systemInstructions : ¬ Obligations.SystemInstructions := by
  unfold Obligations.SystemInstructions
  rintro ⟨hinstr, -⟩
  obtain ⟨-, -, -, -, -, -, hmerges⟩ := hinstr lastSpreadCycle
  have hstep := hmerges lastSpreadCycle_issues lastSpreadCycle_spreading
  rw [exec_snap lastSpreadCycle_issues, Host.Outcome.next.injEq] at hstep
  obtain ⟨hlatched, hstands⟩ := lastSpreadCycle_snap_latches
  rw [hstep, hstands] at hlatched
  exact absurd hlatched (by decide)

end Sys2Proof.Machine
end

section
/-! SUPPORT. A port register (R25, R53, R155, R258, R259, R268): what a read of one takes from its port or stream, and what a write of one adds to its message. -/

namespace Sys2Proof.Machine

/-! ## The running firing's slot -/

/-- The model's change of one entry of a list is the library's. -/
theorem modAt_eq_modify {α : Type} (f : α → α) : ∀ (l : List α) (i : Nat), modAt l i f = l.modify i f
  | [], 0 => rfl
  | [], _ + 1 => rfl
  | _ :: _, 0 => rfl
  | _ :: r, i + 1 => congrArg _ (modAt_eq_modify f r i)

theorem getElem?_modAt {α : Type} {l : List α} {i : Nat} {x : α} (f : α → α) (h : l[i]? = some x) : (modAt l i f)[i]? = some (f x) := by
  simp [modAt_eq_modify, h]

@[simp] theorem Core.modCur_regs (k : Core) (f : Slot → Slot) : (k.modCur f).regs = k.regs := by
  unfold Core.modCur
  split <;> rfl

@[simp] theorem Core.modCur_running (k : Core) (f : Slot → Slot) : (k.modCur f).running = k.running := by
  unfold Core.modCur
  split <;> simp [*]

/-- A core that runs a firing has the changed slot as the firing's. -/
theorem Core.curSlot_modCur {k : Core} (f : Slot → Slot) (h : k.running.isSome = true) : (k.modCur f).curSlot = f k.curSlot := by
  obtain ⟨i, hi⟩ := Option.isSome_iff_exists.1 h
  simp [Core.modCur, Core.curSlot, hi]

/-! ## Bindings -/

/-- A register that is bound is one of x24 to x27, and keeps what it is bound to next. -/
theorem Regs.binding_setBinding {r : Regs} {n : BitVec 5} (b : Binding) (h : r.binding n ≠ .unbound) : (r.setBinding n b).binding n = b := by
  by_cases hn : 24 ≤ n.toNat ∧ n.toNat < 28
  · simp [Regs.binding, Regs.setBinding, hn]
  · exact absurd (dif_neg hn) h

/-! ## Waits that a write tells -/

theorem Table.get_map {α β : Type} (f : Nat × α → β) (n : Nat) : ∀ t : Table α,
    Table.get (t.map fun e => (e.1, f e)) n = (t.get n).map fun v => f (n, v)
  | [] => rfl
  | (k, v) :: r => by
    by_cases h : k = n
    · subst h; simp [Table.get]
    · simpa [Table.get, h] using Table.get_map f n r

/-- Telling the waits of a write leaves a core's registers, slots and firing. -/
theorem State.core_wake (s : State) (by_ : Option CoreId) (loc n : Nat) (c : CoreId) :
    ∃ w ps, (s.wake by_ loc n).core c = { s.core c with wait := w, prods := ps } := by
  unfold State.wake State.core
  rw [Table.get_map]
  cases s.cores.get (CoreId.key c) with
  | none => exact ⟨_, _, rfl⟩
  | some k => exact ⟨_, _, rfl⟩

/-- The capability of a `cap` message goes to memory, and leaves the reader's registers, slots and firing. -/
theorem State.core_receiveCap (s : State) (c : CoreId) (m : Msg) :
    ∃ w ps, (s.receiveCap c m).core c = { s.core c with wait := w, prods := ps } :=
  State.core_wake _ _ _ _ _

/-! ## Reading a port register -/

/-- A register that is not bound gives its value, and the machine stands. -/
theorem takeX_unbound {s : State} {c : CoreId} {n : BitVec 5} (h : (s.core c).regs.binding n = .unbound) :
    s.takeX c n = ((s.core c).regs.readX n, s) := by
  simp [State.takeX, h]

/-- A stream register gives its next word, and keeps the rest. -/
theorem takeX_stream {s : State} {c : CoreId} {n : BitVec 5} {j : Nat} {g : BitVec 8} {w : Word64} {ws : List Word64} {l : Nat}
    (h : (s.core c).regs.binding n = .stream j g (w :: ws) l) :
    (s.takeX c n).1 = w ∧ ((s.takeX c n).2.core c).regs.binding n = .stream j g ws l := by
  simp [State.takeX, h, Regs.binding_setBinding]

/-- The state in which a word of a message leaves its port: the first word of a `cap` message brings its capability first (R268). -/
def State.readied (s : State) (c : CoreId) (q : InPort) (m : Msg) : State := if q.readWords = 0 ∧ kindOf q.typ = 2 then s.receiveCap c m else s

theorem State.core_readied (s : State) (c : CoreId) (q : InPort) (m : Msg) :
    ∃ w ps, (s.readied c q m).core c = { s.core c with wait := w, prods := ps } := by
  unfold State.readied
  split
  · exact s.core_receiveCap c m
  · exact ⟨_, _, rfl⟩

theorem InPort.pop_of_msgs {q : InPort} {m : Msg} {ms : List Msg} (h : q.msgs = m :: ms) :
    q.pop = if q.readWords + 1 < m.words.length then { q with readWords := q.readWords + 1 }
      else { q with msgs := ms, claimed := q.claimed - 1, readWords := 0 } := by
  simp [InPort.pop, h]

/-- A register bound to a receive port gives the next word of the port's first message, and pops it. -/
theorem takeX_recv {s : State} {c : CoreId} {n : BitVec 5} {p : Nat} {q : InPort} {m : Msg} {ms : List Msg}
    (hrun : (s.core c).running.isSome = true) (hbind : (s.core c).regs.binding n = .recv p) (hport : (s.core c).curSlot.ins[p]? = some q)
    (hmsgs : q.msgs = m :: ms) :
    (s.takeX c n).1 = (m.words[q.readWords]?).getD 0 ∧ ((s.takeX c n).2.core c).curSlot.ins[p]? = some q.pop
      ∧ ((s.takeX c n).2.core c).regs = (s.core c).regs ∧ (s.takeX c n).2.mem = (s.readied c q m).mem := by
  have htake : s.takeX c n = ((m.words[q.readWords]?).getD 0,
      (s.readied c q m).modCore c fun k => k.modCur fun t => { t with ins := modAt t.ins p InPort.pop }) := by
    simp only [State.takeX, hbind, hport, hmsgs, State.readied]
  obtain ⟨w, ps, hcore⟩ := s.core_readied c q m
  have hrun' : ((s.readied c q m).core c).running.isSome = true := by rw [hcore]; exact hrun
  have hport' : ((s.readied c q m).core c).curSlot.ins[p]? = some q := by rw [hcore]; exact hport
  rw [htake]
  refine ⟨rfl, ?_, ?_, rfl⟩
  · rw [State.core_modCore, Core.curSlot_modCur _ hrun']
    exact getElem?_modAt _ hport'
  · rw [State.core_modCore, Core.modCur_regs, hcore]

/-! ## Writing a port register -/

/-- A word that does not make the message whole is kept with the binding. -/
theorem putX_send_partial {s : State} {c : CoreId} {n : BitVec 5} {p : Nat} {ws : List Word64} {q : OutPort} (v : Word64)
    (hbind : (s.core c).regs.binding n = .send p ws) (hport : (s.core c).curSlot.outs[p]? = some q) (h : ws.length + 1 < wordsOf q.typ) :
    ((s.putX c n v).core c).regs.binding n = .send p (ws ++ [v]) ∧ ((s.putX c n v).core c).sendQ = (s.core c).sendQ := by
  simp [State.putX, hbind, hport, Nat.not_le.2 h, Regs.binding_setBinding]

/-- The entry that the send queue takes for a message of a port. -/
def Core.sendEntry (k : Core) (c : CoreId) (port : Nat) (q : OutPort) (ws : List Word64) : SendEntry :=
  ⟨k.opNo, k.curIndex, k.curSlot.rope, k.firingNo, some port, q.dest,
    ⟨q.typ, ws, kindOf q.typ == 2 && (k.regs.readC 1).tag && (k.regs.readC 1).perm.getLsbD 3⟩, q.seq, k.curSlot.granule c⟩

/-- The counts of a port after one more message. -/
def OutPort.counted (q : OutPort) (firing : Nat) : OutPort :=
  { q with sent := q.sent + 1, seq := q.seq + 1, used := true, unanswered := q.unanswered ++ [(q.seq, firing)] }

/-- A message enters the send queue, and the counts of its port move on. -/
theorem core_send {s : State} {c : CoreId} {p : Nat} {q : OutPort} (ws : List Word64)
    (hrun : (s.core c).running.isSome = true) (hport : (s.core c).curSlot.outs[p]? = some q) :
    ((s.send c p ws).core c).regs = (s.core c).regs
      ∧ ((s.send c p ws).core c).sendQ = (s.core c).sendQ ++ [(s.core c).sendEntry c p q ws]
      ∧ ((s.send c p ws).core c).curSlot.outs[p]? = some (q.counted (s.core c).firingNo) := by
  have hcore : (s.send c p ws).core c = { (s.core c).modCur fun t =>
        { t with outs := modAt t.outs p fun q => q.counted (s.core c).firingNo } with
      sendQ := (s.core c).sendQ ++ [(s.core c).sendEntry c p q ws] } := by
    unfold State.send
    rw [State.core_modCore, hport]
    rfl
  rw [hcore]
  refine ⟨Core.modCur_regs _ _, rfl, ?_⟩
  exact (congrArg (fun t : Slot => t.outs[p]?) (Core.curSlot_modCur _ hrun)).trans (getElem?_modAt _ hport)

/-- The word that makes the message whole sends it, and the port's next message is begun. -/
theorem putX_send_whole {s : State} {c : CoreId} {n : BitVec 5} {p : Nat} {ws : List Word64} {q : OutPort} (v : Word64)
    (hrun : (s.core c).running.isSome = true) (hbind : (s.core c).regs.binding n = .send p ws) (hport : (s.core c).curSlot.outs[p]? = some q)
    (h : wordsOf q.typ ≤ ws.length + 1) :
    ((s.putX c n v).core c).regs.binding n = .send p []
      ∧ (∃ e, ((s.putX c n v).core c).sendQ = (s.core c).sendQ ++ [e] ∧ e.dest = q.dest ∧ e.seq = q.seq ∧ e.port = some p
        ∧ e.msg.typ = q.typ ∧ e.msg.words = ws ++ [v])
      ∧ (∃ q', ((s.putX c n v).core c).curSlot.outs[p]? = some q' ∧ q'.sent = q.sent + 1 ∧ q'.seq = q.seq + 1) := by
  have hput : s.putX c n v = (s.modRegs c fun r => r.setBinding n (.send p [])).send c p (ws ++ [v]) := by
    simp [State.putX, hbind, hport, h]
  have hcore := s.core_modRegs c fun r => r.setBinding n (.send p [])
  obtain ⟨hregs, hqueue, houts⟩ := core_send (s := s.modRegs c fun r => r.setBinding n (.send p [])) (p := p) (q := q) (ws ++ [v])
    (by rw [hcore]; exact hrun) (by rw [hcore]; exact hport)
  rw [hput]
  refine ⟨?_, ⟨_, hqueue.trans (by rw [hcore]), rfl, rfl, rfl, rfl, rfl⟩, _, houts, rfl, rfl⟩
  rw [hregs, hcore]
  exact Regs.binding_setBinding _ (by simp [hbind])

/-- Settles O9: a read takes `InPort.pop` of its port (`takeX_recv`), and a write adds a word to the message of its port, which `core_send` queues when it is whole. -/
theorem portRegisters : Obligations.PortRegisters := by
  unfold Obligations.PortRegisters
  refine ⟨⟨fun _ _ _ => takeX_unbound, ?message, ?capMessage, fun _ _ _ _ _ _ _ _ => takeX_stream⟩, ?send⟩
  case message =>
    intro s c n p q m ms hrun hbind hport hmsgs hkind
    obtain ⟨hword, hpop, hregs, hmem⟩ := takeX_recv hrun hbind hport hmsgs
    exact ⟨hword, hpop.trans (by rw [InPort.pop_of_msgs hmsgs]), hregs, hmem.trans (by simp [State.readied, hkind])⟩
  case capMessage =>
    intro s c n p q m ms _ hrun hbind hport hmsgs hkind hread
    obtain ⟨hword, hpop, hregs, hmem⟩ := takeX_recv hrun hbind hport hmsgs
    rw [InPort.pop_of_msgs hmsgs] at hpop
    simp only [hread, Nat.zero_add] at hword hpop
    have hready : s.readied c q m = s.receiveCap c m := if_pos ⟨hread, hkind⟩
    exact ⟨hword, hmem.trans (by rw [hready]; rfl), hpop, hregs⟩
  case send =>
    intro s c n p ws q v hrun hbind hport
    exact ⟨putX_send_partial v hbind hport, putX_send_whole v hrun hbind hport⟩

end Sys2Proof.Machine
end

section
/-! SUPPORT. A firing's start (R24, R99, R100, R107, R108, R109, Table 04-4): the slot that the scheduler takes, the core that runs its firing, and the registers
that the firing starts with. -/

namespace Sys2Proof.Machine

/-! ## The scheduler's choice (R100) -/

theorem foldl_min_le (l : List Nat) : ∀ a, l.foldl min a ≤ a ∧ ∀ x ∈ l, l.foldl min a ≤ x := by
  induction l with
  | nil => simp
  | cons y r ih =>
    intro a
    obtain ⟨hmin, hrest⟩ := ih (min a y)
    refine ⟨Nat.le_trans hmin (Nat.min_le_left ..), fun x hx => ?_⟩
    rcases List.mem_cons.1 hx with rfl | hx
    · exact Nat.le_trans hmin (Nat.min_le_right ..)
    · exact hrest x hx

/-- The search of the 16 places after a pointer, around the end, finds the place of the least distance from it. -/
theorem find?_after_pointer_least {ptr i e : Nat} {p : Nat → Bool} (hptr : ptr < 16)
    (hfind : ((List.range 16).map fun j => (ptr + 1 + j) % 16).find? p = some i) (he : e < 16) (hpe : p e = true) :
    (i + 15 - ptr) % 16 ≤ (e + 15 - ptr) % 16 := by
  rw [List.find?_map, Option.map_eq_some_iff] at hfind
  obtain ⟨j, hj, rfl⟩ := hfind
  obtain ⟨-, hjmem, hfirst⟩ := List.find?_range_eq_some.1 hj
  have hj16 : j < 16 := List.mem_range.1 hjmem
  refine Nat.le_of_not_lt fun hlt => ?_
  have hbefore : (e + 15 - ptr) % 16 < j := by omega
  have hplace : (ptr + 1 + (e + 15 - ptr) % 16) % 16 = e := by omega
  have hnot := hfirst _ hbefore
  simp [hplace, hpe] at hnot

theorem readySlots_lt {s : State} {c : CoreId} {e : Nat × Nat} (h : e ∈ s.readySlots c) : e.1 < 16 := by
  obtain ⟨i, hi, hif⟩ := List.mem_filterMap.1 h
  split at hif
  · obtain ⟨r, -, rfl⟩ := Option.map_eq_some_iff.1 hif
    exact List.mem_range.1 hi
  · cases hif

/-- The slot that the scheduler takes is READY, of the lowest class, and of those the first after the class's pointer. -/
theorem pickSlot_first {s : State} {c : CoreId} {i cls : Nat} (h : s.pickSlot c = some (i, cls)) :
    (i, cls) ∈ s.readySlots c ∧ ∀ e ∈ s.readySlots c, cls ≤ e.2
      ∧ ∀ p, (s.core c).pointers.toList[cls]? = some p → e.2 = cls → (i + 15 - p.toNat) % 16 ≤ (e.1 + 15 - p.toNat) % 16 := by
  simp only [State.pickSlot, Option.map_eq_some_iff, Prod.mk.injEq] at h
  obtain ⟨i, hfind, rfl, hcls⟩ := h
  simp only [hcls] at hfind
  refine ⟨List.contains_iff_mem.1 (List.find?_some hfind :), fun e he => ⟨?_, fun p hp hsame => ?_⟩⟩
  · exact hcls ▸ (foldl_min_le _ 8).2 _ (List.mem_map_of_mem he)
  · rw [hp] at hfind
    exact find?_after_pointer_least p.isLt hfind (readySlots_lt he) (List.contains_iff_mem.2 (hsame ▸ he))

theorem pickSlot_lt {s : State} {c : CoreId} {i cls : Nat} (h : s.pickSlot c = some (i, cls)) : i < 16 := readySlots_lt (pickSlot_first h).1

/-! ## Tiles that expire before a firing starts (R159, R170) -/

/-- A change of a slot leaves the registers of every core. -/
@[simp] theorem modSlot_regs (s : State) (a c : CoreId) (i : Nat) (f : Slot → Slot) : ((s.modSlot a i f).core c).regs = (s.core c).regs := by
  unfold State.modSlot
  by_cases h : CoreId.key a = CoreId.key c
  · have hcore : s.core a = s.core c := by simp [State.core, h]
    have hmod : ∀ g : Core → Core, (s.modCore a g).core c = g (s.core c) := fun g => by
      rw [← hcore, ← State.core_modCore s a g]
      simp [State.core, h]
    rw [hmod]
    unfold Core.modSlot
    split <;> rfl
  · rw [State.core_modCore_ne _ _ _ _ h]

@[simp] theorem modTour_core (s : State) (n : Nat) (f : Tour → Tour) (c : CoreId) : (s.modTour n f).core c = s.core c := by
  unfold State.modTour
  split <;> rfl

@[simp] theorem expireTour_regs (s : State) (n : Nat) (t : Tour) (c : CoreId) : ((s.expireTour n t).core c).regs = (s.core c).regs := by
  unfold State.expireTour
  dsimp only
  split <;> simp

@[simp] theorem expireOverdue_regs (s : State) (c : CoreId) : ((s.expireOverdue c).core c).regs = (s.core c).regs := by
  unfold State.expireOverdue
  refine List.foldlRecOn (motive := fun t : State => (t.core c).regs = (s.core c).regs) _ _ rfl fun t ht e _ => ?_
  split
  · rw [expireTour_regs, ht]
  · exact ht

/-- Where no tile at a stop of the core is overdue, nothing expires. -/
theorem expireOverdue_of_none_overdue {s : State} {c : CoreId} (h : ∀ e ∈ s.tours, (e.2.phase = .held ∨ e.2.phase = .arrived) →
    s.tileOverdue e.2 = true → ∀ p, s.stopActor e.2 = some p → p.1 ≠ c) : s.expireOverdue c = s := by
  unfold State.expireOverdue
  refine List.foldlRecOn (motive := fun t => t = s) _ _ rfl fun t ht e he => ?_
  subst ht
  refine if_neg fun ⟨hphase, hover, hstop⟩ => ?_
  obtain ⟨hsome, hhere⟩ := (Option.any_eq_true_iff_get ..).1 hstop
  exact h e he hphase hover _ (Option.some_get hsome).symm (by simpa using hhere)

/-! ## The registers of a start (Table 04-4, R109) -/

/-- RoundLen finds an exponent for every length that a capability can have. -/
theorem roundExp_fits {n : Nat} (h : n ≤ 4095 * 2 ^ 31) : roundExp n < 32 ∧ (n + 2 ^ roundExp n - 1) / 2 ^ roundExp n ≤ 4095 := by
  have hsome : ((List.range 32).find? fun e => decide ((n + 2 ^ e - 1) / 2 ^ e ≤ 4095)).isSome = true := by
    rw [List.find?_isSome]
    refine ⟨31, by simp, decide_eq_true ?_⟩
    omega
  obtain ⟨e, he⟩ := Option.isSome_iff_exists.1 hsome
  have hexp : roundExp n = e := by rw [roundExp, he, Option.getD_some]
  rw [hexp]
  exact ⟨List.mem_range.1 (List.mem_of_find?_eq_some he), of_decide_eq_true (List.find?_some he :)⟩

/-- A capability takes the length of RoundLen. -/
theorem Cap.len_withLen {n : Nat} (c : Cap) (h : n ≤ 4095 * 2 ^ 31) : (c.withLen n).len = roundLen n := by
  obtain ⟨hexp, hmant⟩ := roundExp_fits h
  simp only [Cap.len, Cap.withLen, roundLen, BitVec.toNat_ofNat]
  rw [Nat.mod_eq_of_lt (by omega), Nat.mod_eq_of_lt (by omega)]

theorem presetCap_len {n : Nat} (space : BitVec 3) (base : Nat) (perm : BitVec 4) (h : n ≤ 2 ^ 32) : (presetCap space base n perm).len = roundLen n :=
  Cap.len_withLen _ (by omega)

/-- A register file of one value. -/
@[simp] theorem get_replicate {α : Type} {k : Nat} (a : α) (i : Fin k) : (Vector.replicate k a).get i = a :=
  Vector.getElem_replicate i.isLt

/-- A register file after one register is written. -/
theorem get_toFin_set {α : Type} (v : Vector α 32) {k : Nat} (hk : k < 32) (a : α) (n : BitVec 5) :
    (v.set k a hk).get n.toFin = if n = .ofNat 5 k then a else v.get n.toFin := by
  have hplace : k = n.toNat ↔ n = .ofNat 5 k := by
    rw [← BitVec.toNat_inj, BitVec.toNat_ofNat, Nat.mod_eq_of_lt hk, eq_comm]
  have hset : (v.set k a hk).get n.toFin = if k = n.toNat then a else v.get n.toFin := Vector.getElem_set hk n.isLt
  simp only [hset, hplace]

section

variable (t : Slot) (h : Handler) (argVa : BitVec 52) (argLen : Nat)

theorem startRegs_readX (n : BitVec 5) : (t.startRegs h argVa argLen).readX n =
    if n = 12 then .ofNat 64 ((gatingPorts h.mask).head?.getD 0) else if n = 11 then .ofNat 64 t.strand else if n = 10 then .ofNat 64 t.actor else 0 := by
  by_cases hn : n = 0
  · subst hn; rfl
  · rw [Regs.readX, if_neg hn]
    simp [Slot.startRegs, Regs.zero, get_toFin_set]

theorem startRegs_readC (n : BitVec 5) : (t.startRegs h argVa argLen).readC n =
    if n = 3 then (if t.scratchLen = 0 then Cap.null else presetCap 1 t.scratchBase t.scratchLen 0xB)
    else if n = 2 then presetCap 4 argVa.toNat argLen 0x1 else if n = 1 then presetCap 1 t.stateBase t.stateLen 0xB else Cap.null := by
  by_cases hn : n = 0
  · subst hn; rfl
  · rw [Regs.readC, if_neg hn]
    simp [Slot.startRegs, Regs.zero, get_toFin_set]

theorem startRegs_readF (n : BitVec 5) : (t.startRegs h argVa argLen).readF n = 0 := by
  simp [Regs.readF, Slot.startRegs, Regs.zero]

theorem startRegs_readV (n : BitVec 5) : (t.startRegs h argVa argLen).readV n = 0 := by
  simp [Regs.readV, Slot.startRegs, Regs.zero]

theorem startRegs_readM (n : BitVec 3) : (t.startRegs h argVa argLen).readM n = 0 := by
  simp [Regs.readM, Slot.startRegs, Regs.zero]

theorem startRegs_binding {j : Nat} (hj : j < 4) : (t.startRegs h argVa argLen).binding (.ofNat 5 (24 + j)) =
    match (gatingPorts h.mask)[j]? with | some k => .recv k | none => .unbound := by
  match j, hj with
  | 0, _ | 1, _ | 2, _ | 3, _ => rfl

end

/-! ## The core that runs the firing (R24, R99, R107) -/

/-- The slot of a firing that starts: the messages of the handler's ports are claimed, and the counts of the send ports begin again. -/
def Slot.started (t : Slot) (h : Handler) : Slot :=
  { t with
    phase := .firing
    ins := claimPorts h.mask t.ins
    outs := t.outs.map fun q => { q with sent := 0, refusals := [] } }

/-- A core as the firing of an actor starts on it, in a slot of a class. -/
def Core.started (k : Core) (i : Fin 16) (t : Slot) (cls hn : Nat) (h : Handler) (argVa : BitVec 52) (argLen : Nat) : Core :=
  { k with
    regs := t.startRegs h argVa argLen
    slots := k.slots.set i (t.started h)
    running := some i
    handler := .ofNat 3 hn
    firingNo := k.firingNo + 1
    streams := 0
    left := t.limit
    budget := t.limit
    wait := .none
    park := none
    fpDefault := .none
    hbind := []
    hbad := false
    pointers := if hc : cls < 8 then k.pointers.set cls (.ofNat 4 i) else k.pointers
    emul := []
    after := [] }

section

variable (k : Core) (i : Fin 16) (t : Slot) (cls hn : Nat) (h : Handler) (argVa : BitVec 52) (argLen : Nat)

theorem Core.slot_eq_getElem : k.slot i = k.slots[i] := by
  simp [Core.slot]

theorem Core.slot_started : (k.started i t cls hn h argVa argLen).slot i = t.started h := by
  simp [Core.slot_eq_getElem, Core.started]

theorem Core.curSlot_started : (k.started i t cls hn h argVa argLen).curSlot = t.started h := by
  simp [Core.curSlot, Core.started]

theorem Core.pointers_started (hc : cls < 8) : (k.started i t cls hn h argVa argLen).pointers.toList[cls]? = some (.ofNat 4 i) := by
  simp [Core.started, hc]

end

/-- FIRINGID of a firing that has started (Table 04-3). -/
theorem firingId_started {u : State} {c : CoreId} {k : Core} {i : Fin 16} {t : Slot} {cls hn : Nat} {h : Handler} {argVa : BitVec 52} {argLen : Nat} {r : Rope}
    (hcore : u.core c = k.started i t cls hn h argVa argLen) (hrope : u.ropes.get t.rope = some r) (hlt : hn < 8) :
    u.firingId c = .ofNat 64 (i + 2 ^ 4 * hn + 2 ^ 8 * r.decl.cls.toNat + 2 ^ 16 * (128 * t.strand + t.actor) + 2 ^ 32 * r.pos) := by
  have hhandler : (k.started i t cls hn h argVa argLen).handler.toNat = hn := Nat.mod_eq_of_lt hlt
  have hget : u.ropes.get (t.started h).rope = some r := hrope
  simp only [State.firingId, hcore, Core.curSlot_started, hget, hhandler]
  rfl

@[simp] theorem modCable_core (s : State) (n : Nat) (f : Cable → Cable) (c : CoreId) : (s.modCable n f).core c = s.core c := by
  unfold State.modCable
  split <;> rfl

@[simp] theorem modCable_ropes (s : State) (n : Nat) (f : Cable → Cable) : (s.modCable n f).ropes = s.ropes := by
  unfold State.modCable
  split <;> rfl

@[simp] theorem visitTiles_core (s : State) (c : CoreId) (i firing : Nat) (claimed : List Msg) (a : CoreId) :
    (s.visitTiles c i firing claimed).core a = s.core a := rfl
@[simp] theorem visitTiles_ropes (s : State) (c : CoreId) (i firing : Nat) (claimed : List Msg) : (s.visitTiles c i firing claimed).ropes = s.ropes := rfl
@[simp] theorem wakeCluster_core (s : State) (cl : Nat) (a : CoreId) : (s.wakeCluster cl).core a = s.core a := rfl
@[simp] theorem wakeCluster_ropes (s : State) (cl : Nat) : (s.wakeCluster cl).ropes = s.ropes := rfl

/-- No firing starts on a core that runs one, nor on a TSC core. -/
theorem execFiringStart_idle {s : State} {c : CoreId} (h : (s.core c).running.isSome = true ∨ 8 ≤ c.core) : execFiringStart c s = .next s := if_pos h

/-- Where no slot is READY, no more happens than that overdue tiles expire. -/
theorem execFiringStart_none {s : State} {c : CoreId} (hrun : (s.core c).running = none) (hc : c.core < 8)
    (hpick : (s.expireOverdue c).pickSlot c = none) : execFiringStart c s = .next (s.expireOverdue c) := by
  unfold execFiringStart
  rw [if_neg (by simp [hrun, hc])]
  simp only [hpick]

/-- A firing starts: its core is as `Core.started` says, and memory and the ropes stand. -/
theorem execFiringStart_starts {s : State} {c : CoreId} {i cls hn : Nat} {h : Handler} {r : Rope} (hc : c.core < 8) (hrun : (s.core c).running = none)
    (hpick : (s.expireOverdue c).pickSlot c = some (i, cls)) (hchosen : (((s.expireOverdue c).core c).slot i).chosen = some hn)
    (hh : (((s.expireOverdue c).core c).slot i).handlers[hn]? = some h)
    (hr : (s.expireOverdue c).ropes.get (((s.expireOverdue c).core c).slot i).rope = some r) :
    ∃ u, execFiringStart c s = .next u ∧ u.mem = s.mem ∧ u.ropes = (s.expireOverdue c).ropes
      ∧ u.core c = ((s.expireOverdue c).core c).started ⟨i, pickSlot_lt hpick⟩ (((s.expireOverdue c).core c).slot i) cls hn h r.argVa r.argLen := by
  have hi := pickSlot_lt hpick
  have hslot : ((s.expireOverdue c).core c).slot i = ((s.expireOverdue c).core c).slots[i] := Core.slot_eq_getElem _ ⟨i, hi⟩
  rw [hslot] at hchosen hh hr ⊢
  unfold execFiringStart
  rw [if_neg (by simp [hrun, hc])]
  simp only [hpick, hi, dif_pos, hchosen, hr, hh, Option.getD_some]
  refine ⟨_, rfl, by simp, by simp, ?_⟩
  rw [wakeCluster_core, visitTiles_core, modCable_core, State.core_setCore]
  rfl

/-- Settles O36: the scheduler's choice is `pickSlot_first`, and the firing that it starts is `Core.started`, with the registers of `Slot.startRegs`. -/
theorem firingStarts : Obligations.FiringStarts := by
  unfold Obligations.FiringStarts
  refine ⟨fun _ _ => execFiringStart_idle, fun _ _ => execFiringStart_none,
    fun s c => ⟨expireOverdue_of_none_overdue, expireOverdue_mem s c, expireOverdue_regs s c⟩, fun _ _ _ _ => pickSlot_first, ?start⟩
  intro s0 c i cls hn h r hc hrun s hpick t hchosen hh hr
  obtain ⟨u, hu, hmem, hropes, hcore⟩ := execFiringStart_starts hc hrun hpick hchosen hh hr
  have hslot : (u.core c).slot i = t.started h := hcore ▸ Core.slot_started _ ⟨i, pickSlot_lt hpick⟩ ..
  have hid := firingId_started hcore (hropes ▸ hr)
  have hptr := Core.pointers_started (s.core c) ⟨i, pickSlot_lt hpick⟩ t cls hn h r.argVa r.argLen
  refine ⟨u, hu, hmem, ?_⟩
  rw [hslot, hcore]
  refine ⟨rfl, rfl, rfl, rfl, rfl, rfl, rfl, rfl, rfl, rfl, rfl, rfl, rfl, hid, hptr, ?registers⟩
  intro q
  have hx : ∀ n, q.readX n = _ := startRegs_readX t h r.argVa r.argLen
  have hcap : ∀ n, q.readC n = _ := startRegs_readC t h r.argVa r.argLen
  refine ⟨rfl, hx 10, hx 11, hx 12, fun n h10 h11 h12 => ?others, fun n => ⟨startRegs_readF .., startRegs_readV ..⟩, fun n => startRegs_readM ..,
    rfl, rfl, rfl, rfl, rfl, rfl, rfl, rfl, rfl, rfl, rfl, rfl, fun j hj => startRegs_binding _ _ _ _ hj, ?caps⟩
  case others => rw [hx, if_neg h12, if_neg h11, if_neg h10]
  have hstate : q.readC 1 = presetCap 1 t.stateBase t.stateLen 0xB := hcap 1
  have hargs : q.readC 2 = presetCap 4 r.argVa.toNat r.argLen 0x1 := hcap 2
  have hscratch : q.readC 3 = if t.scratchLen = 0 then Cap.null else presetCap 1 t.scratchBase t.scratchLen 0xB := hcap 3
  have hva : (BitVec.ofNat 52 r.argVa.toNat) = r.argVa := by simp
  rw [hstate, hargs, hscratch]
  refine ⟨rfl, rfl, presetCap_len _ _ _, rfl, rfl, rfl, hva, hva, presetCap_len _ _ _, rfl, rfl, rfl,
    fun hnone => if_pos hnone, fun hsome => ?scratch, fun n h1 h2 h3 => ?null⟩
  case scratch =>
    rw [if_neg hsome]
    exact ⟨rfl, rfl, presetCap_len _ _ _, rfl, rfl, rfl⟩
  case null => rw [hcap, if_neg h3, if_neg h2, if_neg h1]

end Sys2Proof.Machine
end

section
/-! SUPPORT. Launch, placement and start (R75 to R78, R91 to R96): what each of these events makes of the VF's launch port, its cables, its ropes and the mesh. -/

namespace Sys2Proof.Machine

/-! ## What the changes of the tables leave -/

theorem modVf_of_get {s : State} {n : Nat} {v : Vf} (f : Vf → Vf) (h : s.vfs.get n = some v) : s.modVf n f = { s with vfs := s.vfs.set n (f v) } := by
  simp [State.modVf, h]

theorem modCable_of_get {s : State} {n : Nat} {c : Cable} (f : Cable → Cable) (h : s.cables.get n = some c) :
    s.modCable n f = { s with cables := s.cables.set n (f c) } := by
  simp [State.modCable, h]

theorem modRope_of_get {s : State} {n : Nat} {r : Rope} (f : Rope → Rope) (h : s.ropes.get n = some r) :
    s.modRope n f = { s with ropes := s.ropes.set n (f r) } := by
  simp [State.modRope, h]

theorem modVf_get {s : State} {n : Nat} {v : Vf} (f : Vf → Vf) (h : s.vfs.get n = some v) : (s.modVf n f).vfs.get n = some (f v) := by
  simp [modVf_of_get f h, Table.get_set_self]

theorem modCable_get {s : State} {n : Nat} {c : Cable} (f : Cable → Cable) (h : s.cables.get n = some c) : (s.modCable n f).cables.get n = some (f c) := by
  simp [modCable_of_get f h, Table.get_set_self]

theorem modRope_get {s : State} {n : Nat} {r : Rope} (f : Rope → Rope) (h : s.ropes.get n = some r) : (s.modRope n f).ropes.get n = some (f r) := by
  simp [modRope_of_get f h, Table.get_set_self]

@[simp] theorem modVf_cores (s : State) (n : Nat) (f : Vf → Vf) : (s.modVf n f).cores = s.cores := by unfold State.modVf; split <;> rfl
@[simp] theorem modVf_ropes (s : State) (n : Nat) (f : Vf → Vf) : (s.modVf n f).ropes = s.ropes := by unfold State.modVf; split <;> rfl
@[simp] theorem modVf_cables (s : State) (n : Nat) (f : Vf → Vf) : (s.modVf n f).cables = s.cables := by unfold State.modVf; split <;> rfl
@[simp] theorem modVf_flight (s : State) (n : Nat) (f : Vf → Vf) : (s.modVf n f).flight = s.flight := by unfold State.modVf; split <;> rfl
@[simp] theorem modVf_fresh (s : State) (n : Nat) (f : Vf → Vf) : (s.modVf n f).fresh = s.fresh := by unfold State.modVf; split <;> rfl
@[simp] theorem modCable_cores (s : State) (n : Nat) (f : Cable → Cable) : (s.modCable n f).cores = s.cores := by unfold State.modCable; split <;> rfl
@[simp] theorem modCable_vfs (s : State) (n : Nat) (f : Cable → Cable) : (s.modCable n f).vfs = s.vfs := by unfold State.modCable; split <;> rfl
@[simp] theorem modRope_cores (s : State) (n : Nat) (f : Rope → Rope) : (s.modRope n f).cores = s.cores := by unfold State.modRope; split <;> rfl
@[simp] theorem modRope_flight (s : State) (n : Nat) (f : Rope → Rope) : (s.modRope n f).flight = s.flight := by unfold State.modRope; split <;> rfl

/-! ## The launch message (R75, R77, R78) -/

/-- Whether a launch message waits: its image or its arguments lie in a stack that takes no access (R361). -/
def State.launchWaits (s : State) (vf : Nat) (m : LaunchWords) : Bool :=
  s.imageAsleep vf (.ofNat 52 (m.bits 1 0 52)) || s.deviceAsleep vf (m.bits 2 0 52) (m.bits 3 0 13) false

/-- The answer to a launch message (R77). -/
def State.launchStatus (s : State) (vf : Nat) (m : LaunchWords) (st : LaunchStatus) : State :=
  s.inject (.launcher vf) vf (s.homeOf vf) ((m.w[6]?).getD 0) (statusMsg m.cable st ((m.w[7]?).getD 0)) 0 none

/-- The launch message is taken from its port. -/
def State.launchTaken (s : State) (vf : Nat) (rest : List Msg) : State := s.modVf vf fun v => { v with launchPort := rest }

/-- The cable of an accepted launch message is queued, and its identifier has no completion any more. -/
def State.launchQueued (s : State) (vf : Nat) (rest : List Msg) (m : LaunchWords) (args : List Byte) : State :=
  let t := s.launchTaken vf rest
  { t with cables := t.cables.set t.fresh (s.cableOf vf m args), fresh := t.fresh + 1 }.modVf vf fun v => { v with completion := v.completion.erase m.cable }

section

variable {s : State} {vf : Nat} {v : Vf} {msg : Msg} {rest : List Msg} (hv : s.vfs.get vf = some v) (hport : v.launchPort = msg :: rest)

include hv hport

theorem execLaunchMessage_waits (hwait : s.launchWaits vf ⟨msg.words⟩ = true) : execLaunchMessage vf s = .next s := by
  simp only [execLaunchMessage, hv, hport]
  exact if_pos hwait

theorem execLaunchMessage_refused {st : LaunchStatus} (hawake : s.launchWaits vf ⟨msg.words⟩ = false) (hcheck : s.launchCheck vf v ⟨msg.words⟩ = .inr st) :
    execLaunchMessage vf s = .next ((s.launchTaken vf rest).launchStatus vf ⟨msg.words⟩ st) := by
  simp only [execLaunchMessage, hv, hport, hcheck]
  exact if_neg (Bool.eq_false_iff.1 hawake)

theorem execLaunchMessage_accepted {args : List Byte} (hawake : s.launchWaits vf ⟨msg.words⟩ = false)
    (hcheck : s.launchCheck vf v ⟨msg.words⟩ = .inl args)
    (hdeps : ∀ d ∈ LaunchWords.deps ⟨msg.words⟩, (s.liveCable vf (.ofNat 16 d)).isSome = true ∨ v.completion.get d ≠ some 2) :
    execLaunchMessage vf s = .next ((s.launchQueued vf rest ⟨msg.words⟩ args).launchStatus vf ⟨msg.words⟩ ⟨0, 0, false⟩) := by
  have hgood : ((LaunchWords.deps ⟨msg.words⟩).any fun d => (s.liveCable vf (.ofNat 16 d)).isNone && v.completion.get d == some 2) = false := by
    rw [List.any_eq_false]
    intro d hd
    rcases hdeps d hd with hlive | hdone
    · simp [Option.isSome_iff_ne_none.1 hlive]
    · simp [hdone]
  simp only [execLaunchMessage, hv, hport, hcheck, hgood]
  exact if_neg (Bool.eq_false_iff.1 hawake)

end

theorem launchTaken_vfs {s : State} {vf : Nat} {v : Vf} (rest : List Msg) (hv : s.vfs.get vf = some v) :
    (s.launchTaken vf rest).vfs.get vf = some { v with launchPort := rest } := modVf_get _ hv

theorem launchQueued_cables (s : State) (vf : Nat) (rest : List Msg) (m : LaunchWords) (args : List Byte) :
    (s.launchQueued vf rest m args).cables = s.cables.set s.fresh (s.cableOf vf m args) := by
  simp [State.launchQueued, State.launchTaken]

theorem launchQueued_flight (s : State) (vf : Nat) (rest : List Msg) (m : LaunchWords) (args : List Byte) :
    (s.launchQueued vf rest m args).flight = s.flight := by
  simp [State.launchQueued, State.launchTaken]

theorem launchQueued_mem (s : State) (vf : Nat) (rest : List Msg) (m : LaunchWords) (args : List Byte) :
    (s.launchQueued vf rest m args).mem = s.mem := by
  simp [State.launchQueued, State.launchTaken]

/-- The answer to a launch message goes onto the mesh, to the address of word 6 (R77). -/
theorem launchStatus_flight (s : State) (vf : Nat) (m : LaunchWords) (st : LaunchStatus) :
    ∃ p, (s.launchStatus vf m st).flight = s.flight ++ [p] ∧ p.dest = (m.w[6]?).getD 0 ∧ p.msg = statusMsg m.cable st ((m.w[7]?).getD 0) :=
  ⟨_, rfl, rfl, rfl⟩

/-! ## Placing a rope (R91 to R94) -/

/-- Placing strands changes the cores only, whose slots the actors take. -/
theorem fillSlots_frame (s : State) (rope strand : Nat) (d : StrandDecl) (xs : List Extent) (places : List (CoreId × Nat)) :
    ∃ ks, s.fillSlots rope strand d xs places = { s with cores := ks } := by
  unfold State.fillSlots
  refine List.foldlRecOn (motive := fun t : State => ∃ ks, t = { s with cores := ks }) _ _ ⟨_, rfl⟩ fun t ht e _ => ?_
  obtain ⟨ks, rfl⟩ := ht
  exact ⟨_, rfl⟩

theorem placeStrands_frame {part : Part} {rope : Nat} (ds : List (StrandDecl × Nat)) : ∀ {s t : State} {ptr ptr' : Nat} {used : List Nat}
    {strands : List Strand} {table : List (BitVec 32)}, s.placeStrands part rope ds ptr used = some (t, ptr', strands, table) →
    ∃ ks, t = { s with cores := ks } := by
  induction ds with
  | nil => intro s t ptr ptr' used strands table ht; cases ht; exact ⟨_, rfl⟩
  | cons d rest ih =>
    intro s t ptr ptr' used strands table ht
    unfold State.placeStrands at ht
    dsimp only at ht
    split at ht
    · cases ht
    · split at ht
      · cases ht
      · next hs =>
        cases ht
        obtain ⟨ks, ht⟩ := ih hs
        obtain ⟨ks', hfill⟩ := fillSlots_frame s rope d.2 d.1 _ _
        rw [hfill] at ht
        exact ⟨ks, ht⟩

@[simp] theorem loadText_cores (s : State) (vf : Nat) (image : BitVec 52) (h : Header) : (s.loadText vf image h).cores = s.cores := by
  unfold State.loadText; split <;> rfl
@[simp] theorem loadText_ropes (s : State) (vf : Nat) (image : BitVec 52) (h : Header) : (s.loadText vf image h).ropes = s.ropes := by
  unfold State.loadText; split <;> rfl
@[simp] theorem loadText_cables (s : State) (vf : Nat) (image : BitVec 52) (h : Header) : (s.loadText vf image h).cables = s.cables := by
  unfold State.loadText; split <;> rfl
@[simp] theorem loadText_vfs (s : State) (vf : Nat) (image : BitVec 52) (h : Header) : (s.loadText vf image h).vfs = s.vfs := by
  unfold State.loadText; split <;> rfl

/-- The rope as `PLACE_ROPE` enters it: one of a shed class is stopped (R84, R97). -/
def State.newRope (s : State) (vf n : Nat) (c : Cable) (im : Image) (d : RopeDecl) (ctx : Nat) (strands : List Strand) (table : List (BitVec 32)) : Rope :=
  { placedRope vf n c.next d c.image ctx strands table (.ofNat 52 ((Config.argPage s.freeNo).toNat * 2 ^ 16)) (roundLen (0x1000 + im.header.constSize)) with
    shed := if s.classShed d.cls then .stopped else .none }

/-- The cable once its next rope is placed. -/
def Cable.placedNext (c : Cable) (rope : Nat) : Cable :=
  { c with
    next := c.next + 1
    placed := c.placed ++ [rope]
    state := if c.count ≤ c.next + 1 then .running else .inLaunch }

/-- The tables once the strands of a rope stand in their slots: the rope, the text, the VF's pointer and the cable. -/
def State.withPlaced (t : State) (vf n : Nat) (image : BitVec 52) (h : Header) (rope ptr : Nat) (r : Rope) : State :=
  (({ t with ropes := t.ropes.set rope r, fresh := t.fresh + 1, freeNo := t.freeNo + 1 }.loadText vf image h).modVf vf
    fun v => { v with ptr := ptr }).modCable n fun c => c.placedNext rope

theorem withPlaced_tables {t : State} {vf n rope : Nat} {v : Vf} {c : Cable} (image : BitVec 52) (h : Header) (ptr : Nat) (r : Rope)
    (hv : t.vfs.get vf = some v) (hc : t.cables.get n = some c) :
    let u := t.withPlaced vf n image h rope ptr r
    u.ropes.get rope = some r ∧ u.vfs.get vf = some { v with ptr := ptr } ∧ u.cables.get n = some (c.placedNext rope)
      ∧ u.cores = t.cores ∧ u.mem = t.mem := by
  refine ⟨?_, ?_, modCable_get _ (by simpa using hc), by simp [State.withPlaced], by simp [State.withPlaced]⟩
  · simp [State.withPlaced, Table.get_set_self]
  · simp only [State.withPlaced, modCable_vfs]
    exact modVf_get _ (by simpa using hv)

section

variable {vf n ctx : Nat} {v : Vf} {c : Cable} {im : Image} {d : RopeDecl} {s : State}
  (hv : s.vfs.get vf = some v) (hhead : s.headCable vf = some (n, c)) (hslice : s.holdsSlice vf = true) (hgoing : (s.part v.part).halted = false)
  (hawake : s.imageAsleep vf c.image = false) (himage : s.readImage vf c.image = .inl im)
  (hnext : ((c.ropes[c.next]?).bind fun r => im.ropes[r]?) = some d) (hctx : s.freeContext vf (s.part v.part) = some ctx)

include hv hhead hslice hgoing hawake himage hnext hctx

theorem execPlaceRope_none (hplace : s.placeStrands (s.part v.part) s.fresh d.strands.zipIdx v.ptr [] = none) : execPlaceRope vf s = .next s := by
  simp [execPlaceRope, hv, hhead, hslice, hgoing, hawake, himage, hnext, hctx, hplace]

/-- The next rope of the head cable is placed: the rope, the cable and the VF's pointer change, the cores are those of the placed strands, and memory stands. -/
theorem execPlaceRope_placed {t : State} {ptr : Nat} {strands : List Strand} {table : List (BitVec 32)} (hcable : s.cables.get n = some c)
    (hplace : s.placeStrands (s.part v.part) s.fresh d.strands.zipIdx v.ptr [] = some (t, ptr, strands, table)) :
    ∃ u, execPlaceRope vf s = .next u ∧ u.ropes.get s.fresh = some (s.newRope vf n c im d ctx strands table)
      ∧ u.vfs.get vf = some { v with ptr := ptr } ∧ u.cables.get n = some (c.placedNext s.fresh) ∧ u.cores = t.cores ∧ u.mem = s.mem := by
  obtain ⟨ks, hks⟩ := placeStrands_frame _ hplace
  have hrope (p : Rope) (hp : p.shed = .none) : (if s.classShed d.cls then { p with shed := .stopped } else p)
      = { p with shed := if s.classShed d.cls then .stopped else .none } := by
    split <;> simp [← hp]
  have hexec : execPlaceRope vf s
      = .next (t.withPlaced vf n c.image im.header s.fresh ptr (s.newRope vf n c im d ctx strands table)) := by
    simp only [execPlaceRope, hv, hhead, hslice, hgoing, hawake, himage, hnext, hctx, hplace, Bool.not_true, Bool.or_self, Bool.false_eq_true, if_false]
    rw [hrope _ rfl]
    rfl
  obtain ⟨hropes, hvfs, hcables, hcores, hmem⟩ := withPlaced_tables (rope := s.fresh) c.image im.header ptr (s.newRope vf n c im d ctx strands table)
    (t := t) (by rw [hks]; exact hv) (by rw [hks]; exact hcable)
  exact ⟨_, hexec, hropes, hvfs, hcables, hcores, hmem.trans (by rw [hks])⟩

end

/-! ## Scrub and start (R95, R96) -/

/-- A step of the launcher's that writes memory: the ropes and the mesh stand. -/
def State.SameRopes (s t : State) : Prop := t.ropes = s.ropes ∧ t.flight = s.flight

theorem State.SameRopes.refl (s : State) : s.SameRopes s := ⟨rfl, rfl⟩

theorem State.SameRopes.trans {s t u : State} (h : s.SameRopes t) (h' : t.SameRopes u) : s.SameRopes u := ⟨h'.1.trans h.1, h'.2.trans h.2⟩

theorem sameRopes_foldl {α : Type} {f : State → α → State} (hf : ∀ (s : State) x, s.SameRopes (f s x)) (l : List α) (s : State) : s.SameRopes (l.foldl f s) :=
  List.foldlRecOn (motive := s.SameRopes) l f (.refl s) fun _ ht x _ => ht.trans (hf _ x)

theorem sameRopes_scrubRope (s : State) (r : Rope) : s.SameRopes (s.scrubRope r) := by
  unfold State.scrubRope
  refine sameRopes_foldl (fun s st => ?_) _ s
  exact sameRopes_foldl (f := fun s (x : Extent) => { s with mem := s.mem.scrub (locScratch st.cluster x.core x.base) x.len })
    (fun _ _ => ⟨rfl, rfl⟩) _ s

theorem sameRopes_buildState (s : State) (rope : Nat) (r : Rope) (h : Header) (logical : Nat) (a : ActorDecl) :
    s.SameRopes (s.buildState rope r h logical a) := by
  unfold State.buildState
  split
  · split <;> exact ⟨rfl, rfl⟩
  · exact .refl s

theorem sameRopes_deviceWrite {vf : Nat} {write : Bool} (bs : List Byte) : ∀ {s t : State} {va : Nat}, s.deviceWrite vf write va bs = some t → s.SameRopes t := by
  induction bs with
  | nil => intro s t va ht; cases ht; exact .refl s
  | cons b r ih =>
    intro s t va ht
    unfold State.deviceWrite at ht
    dsimp only at ht
    split at ht
    · cases ht
    · exact ⟨(ih ht).1, (ih ht).2⟩

theorem sameRopes_deviceWrite_getD (s : State) (vf : Nat) (write : Bool) (va : Nat) (bs : List Byte) : s.SameRopes ((s.deviceWrite vf write va bs).getD s) := by
  cases hw : s.deviceWrite vf write va bs with
  | none => exact .refl s
  | some t => exact sameRopes_deviceWrite bs hw

/-- The actors of a rope whose port 0 is `data:1`, which get start messages (R96). -/
def RopeDecl.startActors (d : RopeDecl) : List Nat :=
  (d.allActors.filter fun e => match e.2.ins[0]? with | some p => p.typ == 0 | none => false).map Prod.fst

theorem startActors_eq_filterMap (d : RopeDecl) :
    d.startActors = d.allActors.filterMap fun e => if (e.2.ins[0]?).map PortDecl.typ = some 0 then some e.1 else none := by
  unfold RopeDecl.startActors
  induction d.allActors with
  | nil => rfl
  | cons e r ih =>
    rw [List.filter_cons, List.filterMap_cons, ← ih]
    cases e.2.ins[0]? with
    | none => simp
    | some p => by_cases hp : p.typ = 0#8 <;> simp [hp]

/-- The start messages go onto the mesh in their order, and the ropes stand. -/
theorem foldl_sendStart (rope : Nat) (r : Rope) (ls : List Nat) : ∀ s : State, (ls.foldl (fun s l => s.sendStart rope r l) s).ropes = s.ropes
    ∧ ∃ ps, (ls.foldl (fun s l => s.sendStart rope r l) s).flight = s.flight ++ ps ∧ ps.map Packet.startOf = ls.map fun l => some (rope, l) := by
  induction ls with
  | nil => exact fun s => ⟨rfl, [], by simp⟩
  | cons l ls ih =>
    intro s
    obtain ⟨hropes, ps, hflight, hps⟩ := ih (s.sendStart rope r l)
    refine ⟨hropes, _ :: ps, hflight.trans (List.append_assoc ..), ?_⟩
    rw [List.map_cons, List.map_cons, hps]

/-- The launcher has written what a rope starts with: its scrubbed extents, its state regions and its argument block. -/
def State.ropeBuilt (s : State) (rope : Nat) (r : Rope) (im : Image) : State :=
  let s := s.scrubRope r
  let s := r.decl.allActors.foldl (fun s e => s.buildState rope r im.header e.1 e.2) s
  let args := match s.cables.get r.cable with | some c => c.args | none => []
  let const := s.deviceRead r.vf (r.image.toNat + im.header.constOff) im.header.constSize
  (s.deviceWrite r.vf false r.argVa.toNat (argBytes args const r.argLen)).getD s

theorem sameRopes_ropeBuilt (s : State) (rope : Nat) (r : Rope) (im : Image) : s.SameRopes (s.ropeBuilt rope r im) :=
  ((sameRopes_scrubRope s r).trans (sameRopes_foldl (fun s _ => sameRopes_buildState s ..) _ _)).trans (sameRopes_deviceWrite_getD ..)

/-- A rope starts: it is scrubbed and built, and its start messages go out. -/
def State.ropeStarted (s : State) (rope : Nat) (r : Rope) (im : Image) : State :=
  r.decl.startActors.foldl (fun s l => s.sendStart rope r l) ((s.ropeBuilt rope r im).modRope rope fun x =>
    { x with scrubbed := true, toStart := r.decl.startActors, fireable := r.decl.startActors.isEmpty })

theorem ropeStarted_messages {s : State} {rope : Nat} {r : Rope} (im : Image) (hrope : s.ropes.get rope = some r) :
    (s.ropeStarted rope r im).ropes.get rope
        = some { r with scrubbed := true, toStart := r.decl.startActors, fireable := r.decl.startActors.isEmpty }
      ∧ ∃ ps, (s.ropeStarted rope r im).flight = s.flight ++ ps ∧ ps.map Packet.startOf = r.decl.startActors.map fun l => some (rope, l) := by
  obtain ⟨hropes, hflight⟩ := sameRopes_ropeBuilt s rope r im
  obtain ⟨hsent, ps, hps, hof⟩ := foldl_sendStart rope r r.decl.startActors ((s.ropeBuilt rope r im).modRope rope fun x =>
    { x with scrubbed := true, toStart := r.decl.startActors, fireable := r.decl.startActors.isEmpty })
  rw [modRope_flight, hflight] at hps
  refine ⟨?_, ps, hps, hof⟩
  rw [State.ropeStarted, hsent]
  exact modRope_get _ (hropes ▸ hrope)

/-- A store or an atomic that is not performed yet, of a core of a strand's cluster, to a byte of one of the strand's extents keeps the rope waiting. -/
theorem extentsBusy_of_unperformed {s : State} {r : Rope} (h : ∃ st ∈ r.strands, ∃ x ∈ st.extents, ∃ k < 8, ∃ a ∈ s.unperformed ⟨st.cluster, k⟩, a.store = true
    ∧ a.loc < locScratch st.cluster x.core x.base + x.len ∧ locScratch st.cluster x.core x.base < a.loc + a.bytes) : s.extentsBusy r = true := by
  obtain ⟨st, hst, x, hx, k, hk, a, ha, hstore, hbelow, habove⟩ := h
  have hwrites : s.writesInto st.cluster (locScratch st.cluster x.core x.base) x.len = true :=
    List.any_eq_true.2 ⟨k, List.mem_range.2 hk, List.any_eq_true.2 ⟨a, ha, by simp [hstore, hbelow, habove]⟩⟩
  have hextents : (st.extents.any fun x => s.writesInto st.cluster (locScratch st.cluster x.core x.base) x.len) = true := List.any_eq_true.2 ⟨x, hx, hwrites⟩
  exact List.any_eq_true.2 ⟨st, hst, by simp [hextents]⟩

/-- The launcher's new place for an argument block lies on a page, and only the rope's address changes. -/
theorem rechooseArgs_argVa {rope : Nat} {r : Rope} {s : State} (hrope : s.ropes.get rope = some r) :
    ∃ va : BitVec 52, (s.rechooseArgs rope).ropes.get rope = some { r with argVa := va } ∧ va.toNat % 2 ^ 16 = 0
      ∧ (s.rechooseArgs rope).mem = s.mem ∧ (s.rechooseArgs rope).flight = s.flight ∧ (s.rechooseArgs rope).cores = s.cores := by
  refine ⟨.ofNat 52 ((Config.argPage s.freeNo).toNat * 2 ^ 16), modRope_get _ hrope, ?_, modRope_mem .., modRope_flight .., modRope_cores ..⟩
  rw [BitVec.toNat_ofNat]
  omega

section

variable {rope : Nat} {r : Rope} {s : State} (hrope : s.ropes.get rope = some r)

include hrope

theorem execRopeStart_idle
    (h : r.scrubbed = true ∨ r.ending.isSome = true ∨ (∃ st ∈ r.strands, st.retired = true) ∨ s.extentsBusy r = true) : execRopeStart rope s = .next s := by
  have hidle : (r.scrubbed || r.ending.isSome || r.strands.any (fun st => st.retired) || s.extentsBusy r) = true := by
    simpa [or_assoc] using h
  simp only [execRopeStart, hrope, hidle, if_true]

section

variable (hfresh : r.scrubbed = false) (hlive : r.ending = none) (hstrands : ∀ st ∈ r.strands, st.retired = false) (hfree : s.extentsBusy r = false)
  (himage : s.imageAsleep r.vf r.image = false) (hargs : s.deviceAsleep r.vf r.argVa.toNat r.argLen false = false)

include hfresh hlive hstrands hfree himage hargs

theorem execRopeStart_rechooses (hplaced : s.argPlaced rope r = false) : execRopeStart rope s = .next (s.rechooseArgs rope) := by
  have hstrands' : (r.strands.any fun st => st.retired) = false := by simpa using hstrands
  simp [execRopeStart, hrope, hfresh, hlive, hstrands', hfree, himage, hargs, hplaced]

theorem execRopeStart_starts {im : Image} (hplaced : s.argPlaced rope r = true) (hread : s.readImage r.vf r.image = .inl im) :
    execRopeStart rope s = .next (s.ropeStarted rope r im) := by
  have hstrands' : (r.strands.any fun st => st.retired) = false := by simpa using hstrands
  simp only [execRopeStart, hrope, hfresh, hlive, hstrands', hfree, himage, hargs, hplaced, hread, Option.isSome_none, Bool.or_self, Bool.not_true,
    Bool.false_eq_true, if_false]
  rfl

end

end

/-! ## A start message that was refused (R96) -/

section

variable {rope actor : Nat} {r : Rope} {s : State} (hrope : s.ropes.get rope = some r)

include hrope

theorem execStartMessageReoffer_sends (hdue : actor ∈ r.toStart) (hnone : ∀ p ∈ s.flight, p.startOf ≠ some (rope, actor)) :
    execStartMessageReoffer rope actor s = .next (s.sendStart rope r actor) := by
  simp only [execStartMessageReoffer, hrope]
  exact if_pos (by simpa using ⟨hdue, hnone⟩)

theorem execStartMessageReoffer_idle (h : actor ∉ r.toStart ∨ ∃ p ∈ s.flight, p.startOf = some (rope, actor)) :
    execStartMessageReoffer rope actor s = .next s := by
  simp only [execStartMessageReoffer, hrope]
  refine if_neg fun hsend => ?_
  obtain ⟨hdue, hnone⟩ : actor ∈ r.toStart ∧ ∀ p ∈ s.flight, ¬p.startOf = some (rope, actor) := by simpa using hsend
  rcases h with habsent | ⟨p, hp, hof⟩
  · exact habsent hdue
  · exact hnone p hp hof

end

/-- Settles O35: each event's outcome is the state that its lemma names, `launchQueued`, `withPlaced`, `ropeStarted`, `rechooseArgs` or `sendStart`, or the state as it was. -/
theorem launchEvents : Obligations.LaunchEvents := by
  unfold Obligations.LaunchEvents
  refine ⟨?launch, ?place, ?start, ?waits, ?reoffer⟩
  case launch =>
    intro vf v msg rest s hv hport m tag waits
    refine ⟨execLaunchMessage_waits hv hport, fun st hawake hcheck => ?refused, fun args hawake hcheck hdeps => ?accepted⟩
    case refused =>
      obtain ⟨p, hflight, hdest, hmsg⟩ := launchStatus_flight (s.launchTaken vf rest) vf m st
      exact ⟨_, p, execLaunchMessage_refused hv hport hawake hcheck, hflight.trans (by rw [State.launchTaken, modVf_flight]), hdest, hmsg,
        modVf_cables .., launchTaken_vfs rest hv, modVf_mem ..⟩
    case accepted =>
      obtain ⟨p, hflight, hdest, hmsg⟩ := launchStatus_flight (s.launchQueued vf rest m args) vf m ⟨0, 0, false⟩
      have hcables : ((s.launchQueued vf rest m args).launchStatus vf m ⟨0, 0, false⟩).cables = _ := launchQueued_cables s vf rest m args
      refine ⟨_, p, s.cableOf vf m args, execLaunchMessage_accepted hv hport hawake hcheck hdeps, hflight.trans (by rw [launchQueued_flight]), hdest, hmsg, ?_,
        rfl, rfl, rfl, rfl, rfl, rfl, fun n hn => ?_, launchQueued_mem ..⟩
      · rw [hcables, Table.get_set_self]
      · rw [hcables, Table.get_set_ne _ _ _ _ hn.symm]
  case place =>
    intro vf n ctx ptr v c im d t strands table s hv hhead hcable hslice hgoing hawake himage hnext hctx
    refine ⟨fun hplace => ?placed, execPlaceRope_none hv hhead hslice hgoing hawake himage hnext hctx⟩
    obtain ⟨u, hu, hropes, hvfs, hcables, hcores, hmem⟩ := execPlaceRope_placed hv hhead hslice hgoing hawake himage hnext hctx hcable hplace
    exact ⟨u, _, _, _, hu, hropes, rfl, rfl, rfl, rfl, rfl, rfl, rfl, rfl, hvfs, rfl, hcables, rfl, rfl, rfl, hcores, hmem⟩
  case start =>
    intro rope r im s hrope hfresh hlive hstrands hfree himage hargs hplaced hread starts
    have hstarts : starts = r.decl.startActors := (startActors_eq_filterMap _).symm
    obtain ⟨hget, ps, hflight, hof⟩ := ropeStarted_messages im hrope
    refine ⟨_, _, execRopeStart_starts hrope hfresh hlive hstrands hfree himage hargs hplaced hread, hget, rfl, hstarts.symm, ?_, ⟨ps, hflight.symm⟩, ?_⟩
    · rw [hstarts]
      exact List.isEmpty_iff
    · rw [hflight, List.drop_left, hof, hstarts]
  case waits =>
    intro rope r s hrope
    refine ⟨execRopeStart_idle hrope, extentsBusy_of_unperformed, fun hfresh hlive hstrands hfree himage hargs hplaced => ?_⟩
    obtain ⟨va, hva⟩ := rechooseArgs_argVa hrope
    exact ⟨_, va, execRopeStart_rechooses hrope hfresh hlive hstrands hfree himage hargs hplaced, hva⟩
  case reoffer =>
    intro rope actor r s hrope
    exact ⟨fun hdue hnone => ⟨_, _, execStartMessageReoffer_sends hrope hdue hnone, rfl, rfl, rfl, rfl, rfl⟩, execStartMessageReoffer_idle hrope⟩

end Sys2Proof.Machine
end

section
/-! SUPPORT. The commands of the privileged endpoint (R374): what each of them writes in the partitions, the VFs, the delivery contexts and the power
controller (R83, R86, R87, R294, R295, R305, R323, R332, R349, R356, R358 to R360, R362), and when it is refused. -/

namespace Sys2Proof.Machine

/-! ## Accepted and refused commands (R374, R375) -/

section

variable {s : State} {ok : Bool} (hboot : s.booted = true)

include hboot

theorem command_accepted {f : State → State} (hok : ok = true) : s.command .privileged ok f = .next ((f s).reply .done) := by
  simp [State.command, managesAs, hboot, hok]

theorem command_refused {f : State → State} (hok : ok = false) : s.command .privileged ok f = .next (s.reply .refusedCommand) := by
  simp [State.command, managesAs, hboot, hok]

theorem vfCommand_accepted {vf : Nat} {v : Vf} {f : Vf → Vf} (hv : s.vfs.get vf = some v) (hok : ok = true) :
    s.vfCommand .privileged vf ok f = .next (({ s with vfs := s.vfs.set vf (f v) } : State).reply .done) :=
  (command_accepted hboot (by simp [hv, hok])).trans (by rw [modVf_of_get f hv])

theorem vfCommand_refused {vf : Nat} {f : Vf → Vf} (hok : ok = false) : s.vfCommand .privileged vf ok f = .next (s.reply .refusedCommand) :=
  command_refused hboot (by simp [hok])

end

/-! ## Partitions -/

@[simp] theorem reply_part (s : State) (o : HostOut) (p : Nat) : (s.reply o).part p = s.part p := rfl
@[simp] theorem modPower_part (s : State) (f : Power → Power) (p : Nat) : (s.modPower f).part p = s.part p := rfl
@[simp] theorem settleRails_part (s : State) (p : Nat) : s.settleRails.part p = s.part p := rfl
@[simp] theorem settleRails_vfs (s : State) : s.settleRails.vfs = s.vfs := rfl
@[simp] theorem settleRails_cores (s : State) : s.settleRails.cores = s.cores := rfl

theorem modPart_of_lt {s : State} {p : Nat} (f : Part → Part) (h : p < 16) : s.modPart p f = { s with parts := s.parts.set p (f s.parts[p]) } := dif_pos h

theorem modPart_part {s : State} {p : Nat} (f : Part → Part) (h : p < 16) : (s.modPart p f).part p = f (s.part p) := by
  simp [modPart_of_lt f h, State.part, h]

@[simp] theorem modPart_vfs (s : State) (p : Nat) (f : Part → Part) : (s.modPart p f).vfs = s.vfs := by unfold State.modPart; split <;> rfl
@[simp] theorem modPart_cores (s : State) (p : Nat) (f : Part → Part) : (s.modPart p f).cores = s.cores := by unfold State.modPart; split <;> rfl
@[simp] theorem modPart_power (s : State) (p : Nat) (f : Part → Part) : (s.modPart p f).power = s.power := by unfold State.modPart; split <;> rfl

/-- What every step of a fold leaves as it was, the fold does. -/
theorem foldl_kept {α β : Type} (g : State → β) {f : State → α → State} (hf : ∀ s x, g (f s x) = g s) :
    ∀ (l : List α) (s : State), g (l.foldl f s) = g s
  | [], _ => rfl
  | x :: r, s => (foldl_kept g hf r (f s x)).trans (hf s x)

@[simp] theorem holdVote_vfs (s : State) (part die : Nat) : (s.holdVote part die).vfs = s.vfs := by unfold State.holdVote; split <;> rfl
@[simp] theorem holdVote_cores (s : State) (part die : Nat) : (s.holdVote part die).cores = s.cores := by unfold State.holdVote; split <;> rfl

/-! ### A definition of a partition (R86, R87, R91) -/

theorem lt_of_mayDefine {s : State} {part base len barctx : Nat} (h : s.mayDefine part base len barctx = true) : part < 16 := by
  simp only [State.mayDefine, Bool.and_eq_true, decide_eq_true_eq] at h
  obtain ⟨⟨⟨hpart, -⟩, -⟩, -⟩ := h
  exact hpart

/-- Two ranges that do not meet: one of them ends before the other begins. -/
theorem rangesMeet_eq_false_iff {b1 n1 b2 n2 : Nat} : rangesMeet b1 n1 b2 n2 = false ↔ b1 + n1 ≤ b2 ∨ b2 + n2 ≤ b1 := by
  simp only [rangesMeet, decide_eq_false_iff_not]
  omega

/-- A partition of clusters that is accepted lies within the package, has barrier contexts, and meets no other partition. -/
theorem bounds_of_mayDefine {s : State} {part base len barctx : Nat} (h : s.mayDefine part base len barctx = true) (hlen : len ≠ 0) :
    base + len ≤ 256 ∧ barctx ≠ 0
      ∧ ∀ p < 16, p ≠ part → (s.part p).len ≠ 0 → base + len ≤ (s.part p).base ∨ (s.part p).base + (s.part p).len ≤ base := by
  simp only [State.mayDefine, Bool.and_eq_true, Bool.or_eq_true, decide_eq_true_eq, beq_iff_eq, bne_iff_ne, hlen, false_or, List.all_eq_true,
    List.mem_filter, List.mem_range, Bool.not_eq_true', rangesMeet_eq_false_iff] at h
  obtain ⟨⟨⟨-, -, -, hend, -⟩, -⟩, ⟨hbar, -⟩, hapart⟩ := h
  exact ⟨hend, hbar, fun p hp hne hp0 => hapart p ⟨hp, hne, hp0⟩⟩

/-- A partition as it is defined anew. -/
def Part.defined (p : Part) (base len barctx : Nat) : Part :=
  { p with
    base := base, len := len, barctx := barctx, rotation := 0, slicePhase := .idle none, lapsed := none, fatal := false, halted := false, buckets := []
    latched := none }

/-- A VF whose placement pointer starts anew, if it is one of a partition. -/
def Vf.restarted (v : Vf) (part ptr : Nat) : Vf := if v.part = part then { v with ptr := ptr } else v

/-- The state in which a partition is defined: its votes are held, and its VFs start at its last cluster (R91). -/
def State.partitionDefined (s : State) (part base len barctx : Nat) : State :=
  let t := ((List.range 4).foldl (fun s die => s.holdVote part die) s).modPart part fun p => p.defined base len barctx
  { t with vfs := t.vfs.map fun (e : Nat × Vf) => (e.1, e.2.restarted part (len - 1)) }.settleRails

theorem execPartitionDefine_eq (who : MgmtSender) (part base len barctx : Nat) (s : State) :
    execPartitionDefine who part base len barctx s = s.command who (s.mayDefine part base len barctx) fun s => s.partitionDefined part base len barctx := by
  have hmap : (fun e : Nat × Vf => if e.2.part = part then (e.1, { e.2 with ptr := len - 1 }) else e) = fun e => (e.1, e.2.restarted part (len - 1)) := by
    funext e
    unfold Vf.restarted
    split <;> rfl
  rw [execPartitionDefine, hmap]
  rfl

section

variable (s : State) (part base len barctx : Nat)

theorem partitionDefined_part (h : part < 16) :
    (s.partitionDefined part base len barctx).part part = (((List.range 4).foldl (fun s die => s.holdVote part die) s).part part).defined base len barctx := by
  rw [State.partitionDefined, settleRails_part]
  exact modPart_part (fun p => p.defined base len barctx) h

theorem partitionDefined_vfs : (s.partitionDefined part base len barctx).vfs = s.vfs.map fun e => (e.1, e.2.restarted part (len - 1)) := by
  simp [State.partitionDefined, foldl_kept State.vfs (fun s die => holdVote_vfs s part die)]

theorem partitionDefined_cores : (s.partitionDefined part base len barctx).cores = s.cores := by
  simp [State.partitionDefined, foldl_kept State.cores (fun s die => holdVote_cores s part die)]

theorem partitionDefined_mem : (s.partitionDefined part base len barctx).mem = s.mem := by
  simp [State.partitionDefined, foldl_mem]

end

/-! ## Shares of a die (R362) -/

/-- The shares that the other partitions hold of a die. -/
def State.othersShare (s : State) (part die : Nat) : Nat := (((List.range 16).filter fun p => p != part).map fun p => ((s.part p).shares.toList[die]?).getD 0).sum

theorem execDramShareWrite_eq (who : MgmtSender) (part die percent : Nat) (s : State) : execDramShareWrite who part die percent s =
    s.command who (decide (part < 16 ∧ die < 4 ∧ s.othersShare part die + percent ≤ 100)) fun s =>
      s.modPart part fun p => { p with shares := if h : die < 4 then p.shares.set die percent else p.shares } := rfl

/-! ## Fields of a word that is written -/

theorem ofNat_div_eq_extractLsb' {w : Nat} (v : BitVec w) (lo n : Nat) : BitVec.ofNat n (v.toNat / 2 ^ lo) = v.extractLsb' lo n := by
  rw [BitVec.extractLsb', Nat.shiftRight_eq_div_pow]

theorem bitsOf_eq_zero_iff {w : Nat} (v : BitVec w) (lo n : Nat) : bitsOf v.toNat lo n = 0 ↔ v.extractLsb' lo n = 0 := by
  rw [← BitVec.toNat_inj, ← ofNat_div_eq_extractLsb', BitVec.toNat_ofNat, bitsOf]
  simp

/-- A rate and a burst that are 0 together or not at all (R294). -/
theorem beq_zero_beq_beq_zero_iff {rate : BitVec 32} {burst : BitVec 16} : ((rate == 0) == (burst == 0)) = true ↔ (rate = 0 ↔ burst = 0) := by
  rw [beq_iff_eq, Bool.eq_iff_iff, beq_iff_eq, beq_iff_eq]

/-! ## The two counters of dropped packets (R305) -/

theorem eq_vector_two {α : Type} (v : Vector α 2) : v = #v[v[0], v[1]] :=
  Vector.ext fun i hi => match i, hi with
    | 0, _ => rfl
    | 1, _ => rfl

theorem toList_two {α : Type} (v : Vector α 2) : v.toList = [v[0], v[1]] := congrArg Vector.toList (eq_vector_two v)

/-! ## Endpoint tables (R295) -/

theorem Table.get_erase_self {α : Type} (t : Table α) (n : Nat) : (t.erase n).get n = none := by
  induction t with
  | nil => rfl
  | cons e r ih =>
    by_cases h : e.1 = n
    · simpa [Table.erase, h] using ih
    · simpa [Table.erase, Table.get, h] using ih

theorem Table.get_erase_ne {α : Type} (t : Table α) {n m : Nat} (h : m ≠ n) : (t.erase n).get m = t.get m := by
  induction t with
  | nil => rfl
  | cons e r ih =>
    by_cases hn : e.1 = n
    · have hm : e.1 ≠ m := hn ▸ h.symm
      simpa [Table.erase, Table.get, hn, hm, h.symm] using ih
    · by_cases hm : e.1 = m
      · simp [Table.erase, Table.get, hm, h]
      · simpa [Table.erase, Table.get, hn, hm] using ih

/-! ## The power controller -/

@[simp] theorem modPower_power (s : State) (f : Power → Power) : (s.modPower f).power = f s.power := rfl

@[simp] theorem settleShed_points (s : State) : s.settleShed.power.points = s.power.points := by
  unfold State.settleShed
  split
  · rfl
  · split <;> rfl

@[simp] theorem snapshot_power (s : State) (part : Nat) (cause : BitVec 3) : (s.snapshot part cause).power = s.power := by
  unfold State.snapshot
  split
  · rfl
  · exact (modPart_power ..).trans (foldl_kept State.power (fun _ _ => State.modCore_power ..) _ _)

/-- The masks are taken from the curve, whose points stand (R350, R352). -/
@[simp] theorem applyMasks_points (s : State) (t : Nat) : (s.applyMasks t).power.points = s.power.points := by
  unfold State.applyMasks
  dsimp only
  split
  · rfl
  · split
    · exact (foldl_kept (fun s => s.power.points) (fun _ _ => by rw [snapshot_power]) _ _).trans (settleShed_points _)
    · exact settleShed_points _

/-- A configuration word below 8 is its point's word, without the reserved bits (R349). -/
theorem configure_point (p : Power) {index : Nat} (h : index < 8) (w : Word64) : ((p.configure index w).points[index]).word = .ofNat 64 (w.toNat % 2 ^ 58) := by
  simp [Power.configure, h]

/-- Settles O55: an accepted command is its function of the state and the answer, a refused one the answer alone (`command_accepted`, `command_refused`), and
the fields that each function writes are read back by the rules of the tables, the partitions and the power controller. -/
theorem managementCommands : Obligations.ManagementCommands := by
  unfold Obligations.ManagementCommands
  refine ⟨?partition, ?create, ?ofVf, ?ofPart, ?package⟩
  case partition =>
    intro part base len barctx s hboot
    refine ⟨fun hno => (execPartitionDefine_eq ..).trans (command_refused hboot hno),
      fun hmay => ⟨_, (execPartitionDefine_eq ..).trans (command_accepted hboot hmay), ?_⟩, bounds_of_mayDefine⟩
    rw [reply_part, partitionDefined_part _ _ _ _ _ (lt_of_mayDefine hmay)]
    refine ⟨rfl, rfl, rfl, partitionDefined_mem .., partitionDefined_cores .., rfl, rfl, rfl, rfl, fun vf v hv hpart => ?_⟩
    rw [State.reply_vfs, partitionDefined_vfs, Table.get_map (fun e : Nat × Vf => e.2.restarted part (len - 1)), hv, Option.map_some, Vf.restarted,
      if_pos hpart]
  case create =>
    intro vf part s hboot
    refine ⟨fun hvf hpart hroom hfree => ⟨_, freshVf part (s.part part).len, show execVfCreate .privileged vf part s = _ from command_accepted hboot ?_, ?_⟩,
      fun hno => show execVfCreate .privileged vf part s = _ from command_refused hboot ?_⟩
    · simp [hvf, hpart, hroom, hfree]
    · exact ⟨Table.get_set_self .., rfl, rfl, rfl, rfl, rfl, fun n hn => Table.get_set_ne _ _ _ _ hn.symm, rfl⟩
    · rw [← Bool.not_eq_true, Bool.and_eq_true, decide_eq_true_eq, Option.isNone_iff_eq_none]
      rintro ⟨⟨hvf, hpart, hroom⟩, hfree⟩
      rcases hno with h | h | h | h
      · omega
      · omega
      · omega
      · exact h hfree
  case ofVf =>
    intro vf v s hboot hv
    refine ⟨fun value => ?vfctl, fun index e hno => ?noEntry, fun index e hindex hctx => ?entry, fun pa => ?root,
      fun ctx ordered entropy hctx hone hmany => ?context, fun ctx ordered entropy hno => ?noContext⟩
    case vfctl =>
      refine ⟨_, _, show execVfctlWrite .privileged vf value s = _ from vfCommand_accepted hboot hv rfl, Table.get_set_self .., ?_⟩
      exact ⟨rfl, rfl, ofNat_div_eq_extractLsb' .., ofNat_div_eq_extractLsb' .., ofNat_div_eq_extractLsb' ..,
        ite_congr (propext (bitsOf_eq_zero_iff ..)) (fun _ => rfl) fun _ => ofNat_div_eq_extractLsb' .., rfl, rfl⟩
    case noEntry =>
      refine show execEndpointTableWrite .privileged vf index e s = _ from vfCommand_refused hboot (Bool.and_eq_false_iff.2 ?_)
      rcases hno with hindex | ⟨x, rfl, hctx⟩
      · exact .inl (decide_eq_false (Nat.not_lt.2 hindex))
      · exact .inr (decide_eq_false (Nat.not_lt.2 hctx))
    case entry =>
      refine ⟨_, _, show execEndpointTableWrite .privileged vf index e s = _ from vfCommand_accepted hboot hv ?_, Table.get_set_self .., ?_⟩
      · simpa [hindex, Option.all_eq_true] using hctx
      · cases e with
        | none => exact ⟨Table.get_erase_self .., fun n hn => Table.get_erase_ne _ hn, rfl⟩
        | some x => exact ⟨Table.get_set_self .., fun n hn => Table.get_set_ne _ _ _ _ hn.symm, rfl⟩
    case root =>
      exact ⟨_, _, show execShadowRootWrite .privileged vf pa s = _ from vfCommand_accepted hboot hv rfl, Table.get_set_self .., rfl, rfl⟩
    case context =>
      refine ⟨_, show execDeliveryContextAssign .privileged ctx vf ⟨ordered, entropy⟩ s = _ from command_accepted hboot ?_, Table.get_set_self ..,
        fun n hn => Table.get_set_ne _ _ _ _ hn.symm, rfl⟩
      simp [hctx, hone, hmany, hv]
    case noContext =>
      refine show execDeliveryContextAssign .privileged ctx vf ⟨ordered, entropy⟩ s = _ from command_refused hboot ?_
      rw [Bool.and_eq_false_imp, decide_eq_true_eq]
      rintro ⟨hctx, hone, hmany⟩
      rcases hno with hno | rfl | hno
      · omega
      · exact absurd hone (Nat.not_succ_le_zero 0)
      · exact absurd hmany (Nat.not_le.2 hno)
  case ofPart =>
    intro part die s hboot hpart
    refine ⟨fun rate burst hzero => ?rate, fun rate burst hzero => ?noRate, fun watts => ?allot, fun mv hno => ?noVote, fun mv hdie hmv hstep => ?vote,
      fun percent hdie => ⟨fun hshare => ?share, fun hshare => ?noShare⟩⟩
    case rate =>
      refine ⟨_, show execMeshrateWrite .privileged part rate burst s = _ from command_accepted hboot ?_, ?_⟩
      · rw [decide_eq_true hpart, Bool.true_and]
        exact beq_zero_beq_beq_zero_iff.2 hzero
      · simp [modPart_part _ hpart]
    case noRate =>
      refine show execMeshrateWrite .privileged part rate burst s = _ from command_refused hboot ?_
      rw [decide_eq_true hpart, Bool.true_and, Bool.eq_false_iff]
      exact fun h => hzero (beq_zero_beq_beq_zero_iff.1 h)
    case allot =>
      refine ⟨_, show execAllotWrite .privileged part watts s = _ from command_accepted hboot (decide_eq_true hpart), ?_⟩
      simp [modPart_part _ hpart]
    case noVote =>
      refine show execVoteWrite .privileged part die mv s = _ from command_refused hboot (decide_eq_false ?_)
      omega
    case vote =>
      refine ⟨_, show execVoteWrite .privileged part die mv s = _ from command_accepted hboot (decide_eq_true ⟨hpart, hdie, hmv, hstep⟩), ?_⟩
      simp [modPart_part _ hpart, hdie]
    case share =>
      refine ⟨_, (execDramShareWrite_eq ..).trans (command_accepted hboot (decide_eq_true ⟨hpart, hdie, hshare⟩)), ?_⟩
      simp [modPart_part _ hpart, hdie]
    case noShare =>
      exact (execDramShareWrite_eq ..).trans (command_refused hboot (decide_eq_false fun ⟨_, _, h⟩ => absurd h (Nat.not_le.2 hshare)))
  case package =>
    intro s hboot
    refine ⟨fun down up => ?slope, fun index value hindex hfresh => ?pending, fun index value hindex hstale => ?point, ?counters, ?unreliable, ?authentication⟩
    case slope => exact ⟨_, show execSlopeWrite .privileged down up s = _ from command_accepted hboot rfl, rfl, rfl, rfl, rfl⟩
    case pending =>
      refine ⟨_, show execDroopConfigWrite .privileged index value s = _ from command_accepted hboot (decide_eq_true hindex), ?_⟩
      simp [hfresh]
    case point =>
      refine ⟨_, show execDroopConfigWrite .privileged index value s = _ from command_accepted hboot (decide_eq_true (by omega)), ?_⟩
      simp [hstale, configure_point]
    case counters =>
      show execPacketCounterRead .privileged s = _
      simp [execPacketCounterRead, managesAs, hboot, toList_two]
    case unreliable => exact ⟨_, if_neg (by simp [hboot]), (eq_vector_two (s.dropped.set 0 _)).trans (by simp), rfl⟩
    case authentication => exact ⟨_, if_neg (by simp [hboot]), (eq_vector_two (s.dropped.set 1 _)).trans (by simp), rfl⟩

end Sys2Proof.Machine
end

section
/-! SUPPORT. The fields of a number's bits, and rounding of a value that the format holds (R173, R182). -/

namespace Sys2Proof.Machine

/-! ## Fields of the bits (R173) -/

/-- The exponent field e of bits. -/
def Fmt.expField (f : Fmt) (n : Nat) : Nat := n / 2 ^ f.man % 2 ^ f.exp

/-- The mantissa field m of bits. -/
def Fmt.manField (f : Fmt) (n : Nat) : Nat := n % 2 ^ f.man

/-- Bits that stand for a finite number: where the format has infinities, the exponent is not the top one; where the top exponent holds its one NaN, the
mantissa is not that NaN's. -/
structure Fmt.FiniteBits (f : Fmt) (n : Nat) : Prop where
  noInf : f.inf = true → f.expField n ≠ 2 ^ f.exp - 1
  noNan : f.nan = true → f.expField n = 2 ^ f.exp - 1 → f.manField n ≠ 2 ^ f.man - 1

variable {f : Fmt} {n : Nat}

theorem Fmt.expField_lt : f.expField n < 2 ^ f.exp := Nat.mod_lt _ (Nat.two_pow_pos _)

theorem Fmt.manField_lt : f.manField n < 2 ^ f.man := Nat.mod_lt _ (Nat.two_pow_pos _)

theorem Fmt.sign_testBit (hn : n < 2 ^ f.width) : f.sign (n.testBit (f.exp + f.man)) = 2 ^ (f.exp + f.man) * (n / 2 ^ (f.exp + f.man)) := by
  have htop : n / 2 ^ (f.exp + f.man) < 2 :=
    Nat.div_lt_of_lt_mul (by rwa [← Nat.pow_succ, Nat.succ_eq_one_add, ← Nat.add_assoc])
  rw [Nat.testBit_eq_decide_div_mod_eq, Nat.mod_eq_of_lt htop]
  obtain h | h := Nat.le_one_iff_eq_zero_or_eq_one.1 (Nat.le_of_lt_succ htop) <;> simp [Fmt.sign, h]

/-- The three fields make up the bits. -/
theorem Fmt.fields_eq (hn : n < 2 ^ f.width) : f.expField n * 2 ^ f.man + f.manField n + f.sign (n.testBit (f.exp + f.man)) = n := by
  have hlow : f.expField n * 2 ^ f.man + f.manField n = n % 2 ^ (f.exp + f.man) := by
    rw [Nat.add_comm f.exp, Nat.pow_add, Nat.mod_mul, Nat.add_comm, Nat.mul_comm]; rfl
  rw [hlow, Fmt.sign_testBit hn, Nat.mod_add_div]

theorem Fmt.value_of_finite (hfin : f.FiniteBits n) : f.value n =
    if f.expField n = 0 then .fin (n.testBit (f.exp + f.man)) (f.manField n) f.minExp
    else .fin (n.testBit (f.exp + f.man)) (2 ^ f.man + f.manField n) (f.expField n - (f.bias : Int) - f.man) := by
  have hinf : ¬ (f.inf && f.expField n == 2 ^ f.exp - 1) = true := by simpa using hfin.noInf
  have hnan : ¬ (f.nan && !f.inf && f.expField n == 2 ^ f.exp - 1 && f.manField n == 2 ^ f.man - 1) = true := by
    simpa using fun h _ => hfin.noNan h
  exact (if_neg hinf).trans (if_neg hnan)

/-! ## Rounding an exact value (R182) -/

theorem roundMul_same {rm : Nat} {neg : Bool} {m : Nat} {e : Int} : roundMul rm neg m e false e = (m, false) := by
  simp [roundMul]

/-- Rounding of a value in its own last place `e`, not above the largest finite one. -/
theorem Fmt.roundFin_exact {c : Rnd} {neg : Bool} {m : Nat} {e : Int} (hm : m ≠ 0) (hlast : max (e + m.log2 - f.man) f.minExp = e)
    (hmax : e < f.maxExp ∨ e = f.maxExp ∧ m ≤ f.maxMan) :
    f.roundFin c neg m e false = ((e - f.minExp).toNat * 2 ^ f.man + m + f.sign neg, 0) := by
  have hfits : (decide (f.maxExp < e) || (f.maxExp == e && decide (f.maxMan < m))) = false := by
    rw [Bool.or_eq_false_iff, Bool.and_eq_false_imp, beq_iff_eq, decide_eq_false_iff_not, decide_eq_false_iff_not]
    omega
  simp [Fmt.roundFin, hm, hlast, roundMul_same, hfits, evIf]

theorem Fmt.minExp_lt_maxExp (hexp : 2 ≤ f.exp) : f.minExp < f.maxExp := by
  have htop : 2 ^ 2 ≤ 2 ^ f.exp := Nat.pow_le_pow_right (by decide) hexp
  rw [Fmt.minExp, Fmt.maxExp]; split <;> omega

/-- Bits with exponent field 0 and a mantissa that is not 0. -/
theorem Fmt.roundFin_subnormal {c : Rnd} {neg : Bool} {m : Nat} (hexp : 2 ≤ f.exp) (hm : m ≠ 0) (hlt : m < 2 ^ f.man) :
    f.roundFin c neg m f.minExp false = (m + f.sign neg, 0) := by
  have hlog : m.log2 < f.man := (Nat.log2_lt hm).2 hlt
  rw [Fmt.roundFin_exact hm (by omega) (.inl (Fmt.minExp_lt_maxExp hexp))]
  simp

theorem Fmt.FiniteBits.le_max (hfin : f.FiniteBits n) : (f.expField n - (f.bias : Int) - f.man < f.maxExp)
    ∨ (f.expField n - (f.bias : Int) - f.man = f.maxExp ∧ 2 ^ f.man + f.manField n ≤ f.maxMan) := by
  have hexp := f.expField_lt (n := n)
  have hman := f.manField_lt (n := n)
  cases hinf : f.inf
  case true =>
    have hbelow := hfin.noInf hinf
    have hmaxMan : f.maxMan = 2 ^ (f.man + 1) - 1 := by simp [Fmt.maxMan, hinf]
    have hmaxExp : f.maxExp = (2 ^ f.exp - 2 : Nat) - (f.bias : Int) - f.man := by simp [Fmt.maxExp, hinf]
    omega
  case false =>
    have hmaxExp : f.maxExp = (2 ^ f.exp - 1 : Nat) - (f.bias : Int) - f.man := by simp [Fmt.maxExp, hinf]
    cases hnan : f.nan
    case true =>
      have hbelow := hfin.noNan hnan
      have hmaxMan : f.maxMan = 2 ^ (f.man + 1) - 2 := by simp [Fmt.maxMan, hinf, hnan]
      omega
    case false =>
      have hmaxMan : f.maxMan = 2 ^ (f.man + 1) - 1 := by simp [Fmt.maxMan, hnan]
      omega

theorem Fmt.roundFin_normal {c : Rnd} {neg : Bool} (hfin : f.FiniteBits n) (hpos : f.expField n ≠ 0) :
    f.roundFin c neg (2 ^ f.man + f.manField n) (f.expField n - (f.bias : Int) - f.man) false
      = (f.expField n * 2 ^ f.man + f.manField n + f.sign neg, 0) := by
  have hman := f.manField_lt (n := n)
  have hm : 2 ^ f.man + f.manField n ≠ 0 := by omega
  have hlog : (2 ^ f.man + f.manField n).log2 = f.man := (Nat.log2_eq_iff hm).2 ⟨by omega, by omega⟩
  rw [Fmt.roundFin_exact hm (by rw [hlog, Fmt.minExp]; omega) hfin.le_max]
  have hplace : (f.expField n - (f.bias : Int) - f.man - f.minExp).toNat + 1 = f.expField n := by rw [Fmt.minExp]; omega
  have hbits : f.expField n * 2 ^ f.man = (f.expField n - (f.bias : Int) - f.man - f.minExp).toNat * 2 ^ f.man + 2 ^ f.man := by
    rw [← Nat.succ_mul, Nat.succ_eq_add_one, hplace]
  rw [hbits, Nat.add_assoc _ (2 ^ f.man)]

/-- A finite number of a format rounds to its own bits, with no event. -/
theorem Fmt.round_value {r : Rnd} (hexp : 2 ≤ f.exp) (hn : n < 2 ^ f.width) (hfin : f.FiniteBits n) :
    f.round r ⟨f.value n, false, 0⟩ = (n, 0) := by
  have hbits := Fmt.fields_eq hn
  rw [Fmt.value_of_finite hfin]
  by_cases hzero : f.expField n = 0
  case pos =>
    rw [hzero, Nat.zero_mul, Nat.zero_add] at hbits
    by_cases hm : f.manField n = 0
    · rw [hm, Nat.zero_add] at hbits
      simp [Fmt.round, Fmt.roundFin, hzero, hm, hbits]
    · simp [Fmt.round, hzero, Fmt.roundFin_subnormal hexp hm Fmt.manField_lt, hbits]
  case neg => simp [Fmt.round, hzero, Fmt.roundFin_normal hfin hzero, hbits]

/-- Below the top exponent every format's bits are finite. -/
theorem Fmt.finiteBits_of_exponent (h : f.expField n ≠ 2 ^ f.exp - 1) : f.FiniteBits n :=
  ⟨fun _ => h, fun _ htop => absurd htop h⟩

/-- Settles O16: the bits of both clauses are those of finite numbers, and a finite number is in its own last place, which rounding keeps. -/
theorem roundingExact : Obligations.RoundingExact := by
  refine ⟨fun f r n hf hn htop => ?belowTop, fun f r n hf hn hnan => ?small⟩
  case belowTop =>
    have hexp : ∀ f ∈ [fmtF64, fmtF32, fmtBf16, fmtF16, fmtE5m2, fmtE4m3], 2 ≤ f.exp := by decide
    exact Fmt.round_value (hexp f hf) hn (Fmt.finiteBits_of_exponent htop)
  case small =>
    have hsmall : ∀ f ∈ [fmtE4m3, fmtE3m2, fmtE2m1], 2 ≤ f.exp ∧ f.inf = false ∧ (f.nan = true → f = fmtE4m3) := by decide
    obtain ⟨hexp, hinf, hone⟩ := hsmall f hf
    refine Fmt.round_value hexp hn ⟨fun h => absurd h (by simp [hinf]), fun h htop hm => ?_⟩
    obtain rfl := hone h
    have hfinite : n % 128 ≠ 127 := hnan rfl
    have htop : n / 8 % 16 = 15 := htop
    have hm : n % 8 = 7 := hm
    omega

end Sys2Proof.Machine
end
